-- ==== Sys2Proof/Word.lean ====
section
/-! DEFINITION. The word types of the D840 (R83, R148). -/
namespace Sys2Proof

/-- A scalar register or special register (R148). -/
abbrev Word := BitVec 64
/-- A virtual address (R54). -/
abbrev Va := BitVec 80
/-- A lane word of a cluster (R148). -/
abbrev Lane := BitVec 32
/-- One byte of a store or of device memory. -/
abbrev Byte := BitVec 8
/-- A syllable (R167). -/
abbrev Syllable := BitVec 128
/-- A buffer-record pool entry (R37). -/
abbrev Entry256 := BitVec 256

end Sys2Proof
end

