-- ==== Sys2Proof/Machine/Bits.lean ====
section
/-! DEFINITION. Bit-field, sign-extension, byte-order and list helpers (R3, R83). -/
namespace Sys2Proof.Machine

/-- Bits `hi` down to `lo` of a natural number (R3). -/
def bits (x hi lo : Nat) : Nat := (x / 2 ^ lo) % 2 ^ (hi + 1 - lo)

/-- Bit `i` of a natural number. -/
def bit (x i : Nat) : Bool := (x / 2 ^ i) % 2 == 1

/-- The w-bit pattern `x` read as an exact integer, two's complement when `sg` (R205). -/
def asInt (w : Nat) (sg : Bool) (x : Nat) : Int :=
  let y := x % 2 ^ w
  if sg && y / 2 ^ (w - 1) == 1 then (y : Int) - (2 ^ w : Nat) else y

/-- The low w bits of an exact integer. -/
def lowBits (w : Nat) (x : Int) : Nat := (x % ((2 ^ w : Nat) : Int)).toNat

/-- Least value of a w-bit integer format. -/
def minInt (w : Nat) (sg : Bool) : Int := if sg then -((2 ^ (w - 1) : Nat) : Int) else 0
/-- Greatest value of a w-bit integer format. -/
def maxInt (w : Nat) (sg : Bool) : Int := if sg then ((2 ^ (w - 1) : Nat) : Int) - 1 else ((2 ^ w : Nat) : Int) - 1

/-- An exact integer limited to a range. -/
def clampInt (x lo hi : Int) : Int := if x < lo then lo else if hi < x then hi else x

/-- w bits sign- or zero-extended to 64 (R205). -/
def ext64 (w : Nat) (sg : Bool) (x : Nat) : Word := BitVec.ofInt 64 (asInt w sg x)

/-- 64 bits as a signed integer (R248, R311). -/
def signed64 (x : Word) : Int := x.toInt

/-- Floor division and remainder on integers. -/
def floorDiv (a : Int) (b : Nat) : Int := a.fdiv b

/-- The smallest n with 2^n above x: the bit length. -/
def bitLen (x : Nat) : Nat := if x = 0 then 0 else x.log2 + 1

/-- Little-endian natural value of a list of bytes (R83). -/
def leNat : List Byte → Nat
  | [] => 0
  | b :: bs => b.toNat + 256 * leNat bs

/-- The `n` low bytes of `x`, little-endian (R83). -/
def leBytes : Nat → Nat → List Byte
  | 0, _ => []
  | n + 1, x => BitVec.ofNat 8 x :: leBytes n (x / 256)

/-- Element `i` of a list, or a default. -/
def nth {α : Type} (l : List α) (i : Nat) (d : α) : α := (l[i]?).getD d

/-- Set bits of a natural number below `n`, in increasing order. -/
def setBits (n x : Nat) : List Nat := (List.range n).filter (bit x)

/-- Number of set bits among the low `n`. -/
def popCount (n x : Nat) : Nat := (setBits n x).length

/-- Index of the lowest set bit below `n`, or `n` when there is none. -/
def lowestBit (n x : Nat) : Nat := ((setBits n x).head?).getD n

/-- Leading zeros of a w-bit pattern. -/
def leadingZeros (w x : Nat) : Nat := w - bitLen (x % 2 ^ w)

/-- Saturating increment at `top`. -/
def satInc (top x : Nat) : Nat := if x < top then x + 1 else top

/-- The `m` elements of `l` from index `i`. -/
def slice {α : Type} (l : List α) (i m : Nat) : List α := (l.drop i).take m

/-- The first index at which `p` holds, or the length. -/
def firstIx {α : Type} (p : α → Bool) (l : List α) : Nat := l.findIdx p

/-- Apply `f` to the element at `i`. -/
def modifyNth {α : Type} (l : List α) (i : Nat) (f : α → α) : List α := l.mapIdx fun j x => if j = i then f x else x

/-- Repeat `f` n times with the index. -/
def iter {α : Type} : Nat → (Nat → α → α) → α → α
  | 0, _, x => x
  | n + 1, f, x => f n (iter n f x)

/-- Insertion sort by a strict order; equal elements keep their places. -/
def sortBy {α : Type} (before : α → α → Bool) : List α → List α
  | [] => []
  | x :: xs => insertBy before x (sortBy before xs)
where
  insertBy (before : α → α → Bool) (x : α) : List α → List α
    | [] => [x]
    | y :: ys => if before y x then y :: insertBy before x ys else x :: y :: ys

end Sys2Proof.Machine
end

