-- ==== Sys2Proof/Machine/Formats.lean ====
section
/-! DEFINITION. The format codes of R81, and which instructions accept them (R204, R258, R101). -/
namespace Sys2Proof.Machine

/-- OCP microscaling elements (R87). -/
inductive MxFmt where
  | e4m3
  | e5m2
  | e3m2
  | e2m3
  | e2m1
  | i8
deriving DecidableEq, Repr

/-- An element format (R81). -/
inductive Fmt where
  | f32
  | f16
  | bf16
  /-- two's-complement or natural integer of `w` bits -/
  | int (w : Nat) (sg : Bool)
  /-- narrow integer as set in FMTR -/
  | q
  | mx (k : MxFmt)
  /-- P3109 binary8 of precision `p` -/
  | b8 (nat ext : Bool) (p : Nat)
deriving DecidableEq, Repr

/-- FCODE to format; reserved codes give none (R81). -/
def fmtOf (fc : BitVec 6) : Option Fmt :=
  match fc.toNat with
  | 0x00 => some .f32
  | 0x01 => some .f16
  | 0x02 => some .bf16
  | 0x04 => some (.int 8 true)
  | 0x05 => some (.int 16 true)
  | 0x06 => some (.int 32 true)
  | 0x07 => some (.int 64 true)
  | 0x08 => some (.int 8 false)
  | 0x09 => some (.int 16 false)
  | 0x0A => some (.int 32 false)
  | 0x0B => some (.int 64 false)
  | 0x0C => some .q
  | 0x10 => some (.mx .e4m3)
  | 0x11 => some (.mx .e5m2)
  | 0x12 => some (.mx .e3m2)
  | 0x13 => some (.mx .e2m3)
  | 0x14 => some (.mx .e2m1)
  | 0x15 => some (.mx .i8)
  | n => if n ≥ 0x20 && n % 8 ≠ 0 then some (.b8 (bit n 4) (bit n 3) (n % 8)) else none

/-- FCODE of a FMT byte (R80). -/
def fcodeOf (fmt : BitVec 8) : BitVec 6 := fmt.extractLsb' 2 6
/-- MODE of a FMT byte (R80). -/
def modeOf (fmt : BitVec 8) : Nat := (fmt.extractLsb' 0 2).toNat

/-- Format groups of R258. -/
def Fmt.isFlt : Fmt → Bool
  | .f32 => true
  | .f16 => true
  | .bf16 => true
  | _ => false

def Fmt.isInt : Fmt → Bool
  | .int w _ => w ≤ 32
  | _ => false

def Fmt.isMx : Fmt → Bool
  | .mx _ => true
  | _ => false

/-- Every 8-bit format other than .q (R258). -/
def Fmt.isE8 : Fmt → Bool
  | .int w _ => w == 8
  | .b8 _ _ _ => true
  | .mx .e4m3 => true
  | .mx .e5m2 => true
  | .mx .i8 => true
  | _ => false

/-- The scalar formats of R204. -/
def Fmt.isScalar : Fmt → Bool
  | .int w _ => w == 32 || w == 64
  | _ => false

def Fmt.isWord32 : Fmt → Bool
  | .f32 => true
  | .int w _ => w == 32
  | _ => false

/-- The fourteen matrix operand formats (R101). -/
def Fmt.isMatrix : Fmt → Bool
  | .f16 => true
  | .bf16 => true
  | .q => true
  | .mx _ => true
  | .b8 _ _ _ => true
  | _ => false

/-- The meaning FMTR gives .q (R90). -/
structure QFmt where
  w : Nat
  sg : Bool
  rsv : Bool
  subst : Nat
deriving DecidableEq, Repr

def qFmtOf (fmtr : Word) : QFmt :=
  { w := match bits fmtr.toNat 1 0 with
      | 0 => 8
      | 1 => 6
      | 2 => 4
      | _ => 2
    sg := !bit fmtr.toNat 2
    rsv := bit fmtr.toNat 3
    subst := bits fmtr.toNat 11 4 }

/-- Width in bits of an element as it is stored in registers and the tap store, where 6-bit elements are unpacked (R83). -/
def Fmt.slotBits (q : QFmt) : Fmt → Nat
  | .f32 => 32
  | .f16 => 16
  | .bf16 => 16
  | .int w _ => w
  | .q => if q.w = 6 then 8 else q.w
  | .mx .e2m1 => 4
  | .mx _ => 8
  | .b8 _ _ _ => 8

/-- Width in bits of an element itself. -/
def Fmt.width (q : QFmt) : Fmt → Nat
  | .q => q.w
  | .mx .e3m2 => 6
  | .mx .e2m3 => 6
  | f => f.slotBits q

/-- Elements per lane word (R258). -/
def Fmt.perLane (q : QFmt) (f : Fmt) : Nat := 32 / f.slotBits q

end Sys2Proof.Machine
end

