-- ==== Sys2Proof/Machine/Rounding.lean ====
section
/-! DEFINITION. Exact values, decoding of formats, and rounding of exact values into formats (R84 to R97). -/
namespace Sys2Proof.Machine

/-- An exact value: `num neg n d e` is ± n / d × 2^e, with its sign kept when n is zero. -/
inductive Val where
  | nan
  | inf (neg : Bool)
  | num (neg : Bool) (n d : Nat) (e : Int)
deriving DecidableEq, Repr

def Val.zero : Val := .num false 0 1 0
def Val.one : Val := .num false 1 1 0
def Val.ofInt (x : Int) : Val := .num (decide (x < 0)) x.natAbs 1 0

def Val.isNan : Val → Bool
  | .nan => true
  | _ => false

def Val.isInf : Val → Bool
  | .inf _ => true
  | _ => false

def Val.isZero : Val → Bool
  | .num _ n _ _ => n == 0
  | _ => false

def Val.neg? : Val → Bool
  | .nan => false
  | .inf s => s
  | .num s _ _ _ => s

def Val.negate : Val → Val
  | .nan => .nan
  | .inf s => .inf (!s)
  | .num s n d e => .num (!s) n d e

def Val.abs : Val → Val
  | .nan => .nan
  | .inf _ => .inf false
  | .num _ n d e => .num false n d e

/-- Times 2^k (an MX scale, R88). -/
def Val.scale (k : Int) : Val → Val
  | .num s n d e => .num s n d (e + k)
  | v => v

/-- The exact product; infinity times zero is NaN. -/
def Val.mul : Val → Val → Val
  | .nan, _ => .nan
  | _, .nan => .nan
  | .inf s, v => if v.isZero then .nan else .inf (s != v.neg?)
  | v, .inf s => if v.isZero then .nan else .inf (s != v.neg?)
  | .num s n d e, .num s' n' d' e' => .num (s != s') (n * n') (d * d') (e + e')

/-- n × 2^(e − lo) for e at or above lo. -/
def alignTo (lo : Int) (n : Nat) (e : Int) : Nat := n * 2 ^ (e - lo).toNat

/-- The exact sum of two values; infinities of opposite sign give NaN; a zero sum of values of opposite sign is +0 (R259). -/
def Val.add : Val → Val → Val
  | .nan, _ => .nan
  | _, .nan => .nan
  | .inf s, .inf s' => if s == s' then .inf s else .nan
  | .inf s, _ => .inf s
  | _, .inf s => .inf s
  | .num s n d e, .num s' n' d' e' =>
    let lo := min e e'
    let a : Int := (alignTo lo n e * d' : Nat)
    let b : Int := (alignTo lo n' e' * d : Nat)
    let x := (if s then -a else a) + (if s' then -b else b)
    if x = 0 then .num (s && s') 0 1 0 else .num (decide (x < 0)) x.natAbs (d * d') lo

def Val.sub (a b : Val) : Val := a.add b.negate

/-- The exact quotient of finite values with a nonzero divisor; the rest follows IEEE 754. -/
def Val.div : Val → Val → Val
  | .nan, _ => .nan
  | _, .nan => .nan
  | .inf s, v => if v.isInf then .nan else .inf (s != v.neg?)
  | v, .inf s => .num (v.neg? != s) 0 1 0
  | .num s n d e, .num s' n' d' e' =>
    if n' = 0 then (if n = 0 then .nan else .inf (s != s'))
    else .num (s != s') (n * d') (d * n') (e - e')

/-- The exact sum of a list. The empty sum is +0; a zero sum is −0 only of negative zeros. -/
def Val.sum : List Val → Val
  | [] => Val.zero
  | [v] => v
  | v :: vs => v.add (Val.sum vs)

/-- Numeric order of two non-NaN values: `a < b`. Zeros are equal. -/
def Val.ltb (a b : Val) : Bool :=
  match a, b with
  | .nan, _ => false
  | _, .nan => false
  | .inf s, .inf s' => s && !s'
  | .inf s, _ => s
  | _, .inf s => !s
  | .num s n d e, .num s' n' d' e' =>
    let lo := min e e'
    let x : Int := (alignTo lo n e * d' : Nat)
    let y : Int := (alignTo lo n' e' * d : Nat)
    decide ((if s then -x else x) < (if s' then -y else y))

def Val.eqb (a b : Val) : Bool := !a.isNan && !b.isNan && !a.ltb b && !b.ltb a

/-- floor(log2(n / d)) for n, d > 0. -/
def ilog2 (n d : Nat) : Int :=
  let l : Int := (n.log2 : Int) - (d.log2 : Int)
  if n * 2 ^ (-l).toNat < d * 2 ^ l.toNat then l - 1 else l

/-- How a magnitude is rounded: to nearest with ties to even, toward zero, or with an 8-bit draw (R93, R94). -/
inductive Rnd where
  | nearest
  | zero
  | draw (r : Nat)
deriving DecidableEq, Repr

/-- A magnitude n / d × 2^e rounded to p significant bits on a grid no finer than 2^emin: the result m × 2^q, and whether n / d × 2^e was on the grid. With one significant bit (binary8 of P = 1) both neighbours of a tie are odd; the larger is taken, DESIGN CHOICE (log 54). -/
def roundMag (p : Nat) (emin : Int) (rnd : Rnd) (n d : Nat) (e : Int) : Nat × Int × Bool :=
  if n = 0 then (0, emin, true)
  else
    let q := max (ilog2 n d + e - ((p : Int) - 1)) emin
    let num := n * 2 ^ (e - q).toNat
    let den := d * 2 ^ (q - e).toNat
    let lo := num / den
    let rest := num % den
    let up := match rnd with
      | .nearest => decide (den < 2 * rest) || (decide (2 * rest = den) && lo % 2 == 1)
      | .zero => false
      | .draw r => decide (rest ≠ 0) && decide (256 ≤ 256 * rest / den + r)
    (if up then lo + 1 else lo, q, rest == 0)

/-- Parameters of a float format: precision, exponent of the subnormal step, position of the sign or none, largest finite code, code of +∞, canonical NaN. -/
structure FSpec where
  p : Nat
  emin : Int
  signBit : Option Nat
  maxc : Nat
  inf : Option Nat
  nan : Option Nat
  /-- −0 exists (R93) -/
  negZero : Bool
deriving DecidableEq, Repr

/-- The float formats (R84 to R87). -/
def fspec : Fmt → Option FSpec
  | .f32 => some { p := 24, emin := -149, signBit := some 31, maxc := 0x7F7FFFFF, inf := some 0x7F800000, nan := some 0x7FC00000, negZero := true }
  | .f16 => some { p := 11, emin := -24, signBit := some 15, maxc := 0x7BFF, inf := some 0x7C00, nan := some 0x7E00, negZero := true }
  | .bf16 => some { p := 8, emin := -133, signBit := some 15, maxc := 0x7F7F, inf := some 0x7F80, nan := some 0x7FC0, negZero := true }
  | .mx .e4m3 => some { p := 4, emin := -9, signBit := some 7, maxc := 0x7E, inf := none, nan := some 0x7F, negZero := false }
  | .mx .e5m2 => some { p := 3, emin := -16, signBit := some 7, maxc := 0x7B, inf := some 0x7C, nan := some 0x7F, negZero := false }
  | .mx .e3m2 => some { p := 3, emin := -4, signBit := some 5, maxc := 0x1F, inf := none, nan := none, negZero := false }
  | .mx .e2m3 => some { p := 4, emin := -3, signBit := some 5, maxc := 0x1F, inf := none, nan := none, negZero := false }
  | .mx .e2m1 => some { p := 2, emin := -1, signBit := some 3, maxc := 7, inf := none, nan := none, negZero := false }
  | .b8 false ext p => some
      { p := p, emin := 1 - ((2 ^ (7 - p) : Nat) : Int) - ((p : Int) - 1), signBit := some 7, maxc := if ext then 0x7E else 0x7F
        inf := if ext then some 0x7F else none, nan := some 0x80, negZero := false }
  | .b8 true ext p => some
      { p := p, emin := 1 - ((2 ^ (8 - p) : Nat) : Int) - ((p : Int) - 1), signBit := none, maxc := if ext then 0xFD else 0xFE
        inf := if ext then some 0xFE else none, nan := some 0xFF, negZero := false }
  | _ => none

/-- The value of a code of a float format (R84 to R87). An MX code of magnitude zero with its sign bit set is −0, DESIGN CHOICE (log 54). -/
def decodeFloat (f : Fmt) (s : FSpec) (c : Nat) : Val :=
  let neg := match s.signBit with
    | some b => bit c b
    | none => false
  let mag := match s.signBit with
    | some b => c % 2 ^ b
    | none => c % 256
  let special := match f with
    | .b8 nat _ _ => decide (c % 256 = if nat then 0xFF else 0x80)
    | .mx .e4m3 => decide (mag = 0x7F)
    | _ => match s.inf with
      | some i => decide (i < mag)
      | none => false
  if special then .nan
  else if s.inf == some mag then .inf neg
  else
    let k := 2 ^ (s.p - 1)
    if mag / k = 0 then .num neg (mag % k) 1 s.emin else .num neg (mag % k + k) 1 (s.emin + (mag / k : Nat) - 1)

/-- The reserved code of .q (R90). -/
def reservedCode (q : QFmt) : Option Nat := if q.rsv then some (if q.sg then 2 ^ (q.w - 1) else 2 ^ q.w - 1) else none

/-- A .q code read as an integer (R90). -/
def readQ (q : QFmt) (c : Nat) : Int :=
  let x := c % 2 ^ q.w
  if reservedCode q = some x then
    (if reservedCode q = some (q.subst % 2 ^ q.w) then 0 else asInt q.w q.sg q.subst)
  else asInt q.w q.sg x

/-- The integer an integer element stands for. -/
def readInt (f : Fmt) (q : QFmt) (c : Nat) : Int :=
  match f with
  | .int w sg => asInt w sg c
  | .q => readQ q c
  | _ => 0

/-- The exact value of an element code, without a block scale (R92). -/
def decodeElem (f : Fmt) (q : QFmt) (c : Nat) : Val :=
  match f with
  | .int _ _ => Val.ofInt (readInt f q c)
  | .q => Val.ofInt (readInt f q c)
  | .mx .i8 => (Val.ofInt (asInt 8 true c)).scale (-6)
  | f => match fspec f with
    | some s => decodeFloat f s c
    | none => .nan

/-- Rounding of a MODE (R82), with the draw to use where it is stochastic. -/
def rndOf (mode r : Nat) : Rnd :=
  match mode with
  | 2 => .zero
  | 3 => .draw r
  | _ => .nearest

/-- A rounded magnitude's overflow or encoding in a float format (R96, R97). -/
def encodeFloat (f : Fmt) (s : FSpec) (sat : Bool) (neg : Bool) (m : Nat) (q : Int) : Nat :=
  let sign := match s.signBit with
    | some b => if neg then 2 ^ b else 0
    | none => 0
  let nanc := s.nan.getD 0
  if m = 0 then (if s.negZero then sign else 0)
  else if neg && s.signBit.isNone then (if sat then 0 else nanc)
  else
    let k := 2 ^ (s.p - 1)
    let c := if m < k then m else (q - s.emin + 1).toNat * k + (m - k)
    if c ≤ s.maxc then sign + c
    else if sat then sign + s.maxc
    else match s.inf with
      | some i => sign + i
      | none => match f with
        | .b8 _ _ _ => nanc
        | .mx .e4m3 => nanc
        | _ => sign + s.maxc

/-- ±∞ into a float format (R97). -/
def infFloat (f : Fmt) (s : FSpec) (sat : Bool) (neg : Bool) : Nat :=
  let sign := match s.signBit with
    | some b => if neg then 2 ^ b else 0
    | none => 0
  let nanc := s.nan.getD 0
  if neg && s.signBit.isNone then (if sat then 0 else nanc)
  else match s.inf with
    | some i => sign + i
    | none => if sat then sign + s.maxc else match f with
      | .b8 _ _ _ => nanc
      | .mx .e4m3 => nanc
      | _ => sign + s.maxc

/-- Range of an integer destination; the reserved code of .q is outside it (R90). -/
def intRange (f : Fmt) (q : QFmt) : Int × Int :=
  match f with
  | .int w sg => (minInt w sg, maxInt w sg)
  | .q => if q.rsv then (if q.sg then minInt q.w true + 1 else 0, if q.sg then maxInt q.w true else maxInt q.w false - 1)
    else (minInt q.w q.sg, maxInt q.w q.sg)
  | _ => (-127, 127)

/-- Width of an integer destination. -/
def intWidth (f : Fmt) (q : QFmt) : Nat :=
  match f with
  | .int w _ => w
  | .q => q.w
  | _ => 8

/-- Fit an exact integer into an integer format: wrap or saturate (R89, R90). -/
def fitInt (f : Fmt) (q : QFmt) (sat : Bool) (x : Int) : Nat :=
  let w := intWidth f q
  if sat then lowBits w (clampInt x (intRange f q).1 (intRange f q).2)
  else
    let y := lowBits w x
    if f == .q && reservedCode q == some y then q.subst % 2 ^ w else y

/-- A float source into an integer format or mxi8: nearest representable integer of the range (R96, R97). -/
def roundInt (f : Fmt) (q : QFmt) (rnd : Rnd) (v : Val) : Nat :=
  let lim := intRange f q
  let w := intWidth f q
  match v with
  | .nan => 0
  | .inf neg => lowBits w (if neg then lim.1 else lim.2)
  | .num neg n d e =>
    let m : Int := ((roundMag 100000 0 rnd n d e).1 : Nat)
    lowBits w (clampInt (if neg then -m else m) lim.1 lim.2)

/-- Is a format integer-valued? -/
def Fmt.isIntLike : Fmt → Bool
  | .int _ _ => true
  | .q => true
  | _ => false

/-- Every conversion and rounding (R92): an exact value into a format under a MODE; `fromInt` says that the source is an integer (R96). -/
def fitVal (f : Fmt) (q : QFmt) (mode r : Nat) (fromInt : Bool) (v : Val) : Nat :=
  let sat := decide (mode ≠ 0)
  let rnd := rndOf mode r
  match f with
  | .mx .i8 => roundInt f q rnd (v.scale 6)
  | f =>
    if f.isIntLike then
      (match fromInt, v with
      | true, .num neg n _ _ => fitInt f q sat (if neg then -(n : Int) else n)
      | _, v => roundInt f q rnd v)
    else match fspec f with
      | none => 0
      | some s => match v with
        | .nan => s.nan.getD 0
        | .inf neg => infFloat f s sat neg
        | .num neg n d e =>
          let m := roundMag s.p s.emin rnd n d e
          encodeFloat f s sat neg m.1 m.2.1

/-- Does stochastic rounding of the value into the format require a draw (R94)? Integers from integers never draw (R259). -/
def needsDraw (f : Fmt) (fromInt : Bool) (v : Val) : Bool :=
  match v with
  | .num _ n d e =>
    (match f with
    | .mx .i8 => !(roundMag 100000 0 .nearest n d (e + 6)).2.2
    | f =>
      if f.isIntLike then !fromInt && !(roundMag 100000 0 .nearest n d e).2.2
      else match fspec f with
        | none => false
        | some s => !(roundMag s.p s.emin .nearest n d e).2.2)
  | _ => false

/-- Round to f32, nearest with ties to even; overflow saturates or gives ∞ (R99). -/
def f32Of (sat : Bool) (v : Val) : Nat := fitVal .f32 { w := 8, sg := true, rsv := false, subst := 0 } (if sat then 1 else 0) 0 false v

/-- The value of an f32 pattern. -/
def f32Val (c : Nat) : Val := decodeElem .f32 { w := 8, sg := true, rsv := false, subst := 0 } c
def f16Val (c : Nat) : Val := decodeElem .f16 { w := 8, sg := true, rsv := false, subst := 0 } c
def bf16Val (c : Nat) : Val := decodeElem .bf16 { w := 8, sg := true, rsv := false, subst := 0 } c

/-- The canonical f32 NaN. -/
def nan32 : Nat := 0x7FC00000

/-- One generator step (R95). -/
def genNext (st : BitVec 32) : BitVec 32 :=
  let a := st ^^^ (st <<< 13)
  let b := a ^^^ (a >>> 17)
  b ^^^ (b <<< 5)

/-- The draw of a generator state (R95). -/
def genDraw (st : BitVec 32) : Nat := (st >>> 24).toNat

/-- Seed of a lane's generator (R95). -/
def genSeed (seed now : Word) (lane : Nat) : BitVec 32 :=
  let st := seed.extractLsb' 0 32 ^^^ seed.extractLsb' 32 32 ^^^ (now.extractLsb' 0 32 * 0x9E3779B9) ^^^ (BitVec.ofNat 32 (lane + 1) * 0x85EBCA6B)
  if st = 0 then 0x6A09E667 else st

end Sys2Proof.Machine
end

