-- ==== Sys2Proof/Machine/Flags.lean ====
section
/-! DEFINITION. The machine has no flag register: its conditions are the comparison codes of R211 and R265, and its scalar results are fitted as R205 says. -/
namespace Sys2Proof.Machine

/-- The condition codes of R211 on exact integers. -/
def condHolds (sub : Nat) (a b : Int) : Bool :=
  match sub with
  | 0 => decide (a = b)
  | 1 => decide (a ≠ b)
  | 2 => decide (a < b)
  | 3 => decide (b ≤ a)
  | 4 => decide (a ≤ b)
  | 5 => decide (b < a)
  | _ => false

/-- The condition codes of R265 on decoded elements: a NaN satisfies only .ne and .un. -/
def condVal (code : Nat) (a b : Val) : Bool :=
  let un := a.isNan || b.isNan
  match code with
  | 0 => !un && a.eqb b
  | 1 => un || !a.eqb b
  | 2 => !un && a.ltb b
  | 3 => !un && !a.ltb b
  | 4 => !un && !b.ltb a
  | 5 => !un && b.ltb a
  | 6 => un
  | _ => false

/-- Width and signedness of a scalar format (R204, R205). -/
def scalarW : Fmt → Nat
  | .int w _ => w
  | _ => 64
def scalarSg : Fmt → Bool
  | .int _ sg => sg
  | _ => true

/-- Wrap or saturate an exact scalar result (R205). -/
def scalarFit (w : Nat) (sg sat : Bool) (x : Int) : Nat :=
  if sat then lowBits w (clampInt x (minInt w sg) (maxInt w sg)) else lowBits w x

end Sys2Proof.Machine
end

