-- ==== Sys2Proof/Syntax.lean ====
section
/-! DEFINITION. The operations and events of the D840, one constructor per row of the opcode table (R186, R364), with the header and the operand layouts of R167 and R183. -/
namespace Sys2Proof

/-- The syllable header (R167). CLASS and OPCODE are the constructor of `Instr`. -/
structure Hdr where
  /-- ends its group -/
  stop : Bool
  /-- idle-cycle code (R172) -/
  stall : BitVec 4
  /-- increments scoreboard `sbi` (R174) -/
  sbv : Bool
  sbi : BitVec 3
  /-- scoreboards the group waits for -/
  sbwait : BitVec 8
  /-- operand-cache claims (R177) -/
  reuse : BitVec 3
  /-- clusters acted on (R179) -/
  cmask : BitVec 8
  /-- FCODE in bits 7:2, MODE in bits 1:0 (R80) -/
  fmt : BitVec 8
deriving DecidableEq, Repr

/-- Layout REG (R183). -/
structure LReg where
  d : BitVec 6
  a : BitVec 6
  b : BitVec 6
  c : BitVec 6
  sub : BitVec 4
  bsel : BitVec 2
  km : BitVec 3
  rsv : BitVec 7
  imm : BitVec 40
deriving DecidableEq, Repr

/-- Layout WIDE (R183). -/
structure LWide where
  d : BitVec 6
  rsv : BitVec 10
  imm64 : BitVec 64
deriving DecidableEq, Repr

/-- Layout TAP (R183). -/
structure LTap where
  d : BitVec 6
  sig : BitVec 8
  vec : BitVec 3
  lr : Bool
  lreg : BitVec 6
  lag : BitVec 16
  lagb : BitVec 16
  rsv : BitVec 24
deriving DecidableEq, Repr

/-- Layout MEM1 (R183). -/
structure LMem where
  d : BitVec 6
  rcd : BitVec 8
  offm : BitVec 2
  o : BitVec 6
  km : BitVec 3
  nest : BitVec 8
  imm23 : BitVec 23
  rsv : BitVec 24
deriving DecidableEq, Repr

/-- Layout SCL (R183). -/
structure LScl where
  sc : BitVec 4
  a : BitVec 6
  rcd : BitVec 8
  o : BitVec 6
  imm23 : BitVec 23
  rsv : BitVec 33
deriving DecidableEq, Repr

/-- Layout ARR (R183). -/
structure LArr where
  mt : BitVec 2
  srck : BitVec 2
  rcd : BitVec 8
  o : BitVec 6
  imm23 : BitVec 23
  kst : BitVec 8
  bfmt : BitVec 6
  sc : BitVec 4
  ms : BitVec 2
  rsv : BitVec 19
deriving DecidableEq, Repr

/-- Layout EMEM (R183). -/
structure LEmem where
  d : BitVec 6
  a : BitVec 6
  b : BitVec 6
  o : BitVec 6
  x : BitVec 4
  scope : BitVec 3
  ord : BitVec 2
  sz : BitVec 3
  pr : Bool
  sub : BitVec 4
  rsv : BitVec 15
  imm24 : BitVec 24
deriving DecidableEq, Repr

/-- Layout ECMD (R183). -/
structure LEcmd where
  a : BitVec 6
  b : BitVec 6
  c : BitVec 6
  rec1 : BitVec 8
  rec2 : BitVec 8
  x : BitVec 4
  tp : BitVec 6
  tc0 : BitVec 6
  tc1 : BitVec 6
  tc2 : BitVec 6
  tcv : BitVec 3
  sub : BitVec 4
  rsv : BitVec 11
deriving DecidableEq, Repr

/-- The AtomicOps the endpoint completes on HBM (R402). -/
inductive HostAtomic where
  | fetchAdd
  | swap
  | cas
deriving DecidableEq, Repr

/-- What a peer asks of local memory (R415, R416): a read, a write, or an atomic of the operation coded as ATOM's SUB, of a signed format or not (R314). -/
inductive FabricOp where
  | read
  | write
  | atomic (sub : Nat) (sg : Bool)
deriving DecidableEq, Repr

/-- A firmware stage offered at start, and the signature offered with it (R418). -/
structure FirmwareImage where
  image : List Byte
  signature : List Byte
deriving DecidableEq, Repr

/-- Where the host reads: in device memory, a 64-bit register of BAR0 of a function, or eight bytes of a partition descriptor (R127, R403, R412). -/
inductive HostPlace where
  | memory (pa : Nat)
  | register (fn offset : Nat)
  | descriptor (fn offset : Nat)
deriving DecidableEq, Repr

/-- What the host writes to a register: a value, or in the last step of a migration a saved value that is given back (R403, R414). -/
inductive RegisterData where
  | value (w : Word)
  | back (w : Word)
deriving DecidableEq, Repr

/-- A device of the fabric and the port its request comes in by (R406, R415). -/
structure Peer where
  port : Nat
  device : Nat
deriving DecidableEq, Repr

/-- A bank of a core's scratchpad (R34) or of its tap store (R30). -/
inductive BankId where
  | scratch (bank : Nat)
  | tap (bank : Nat)
deriving DecidableEq, Repr

/-- What a soft error upsets: a stored granule of a bank and row of the scratchpad (R33), or a sample of a signal, corrected in place or not (R30). -/
inductive Upset where
  | granule (bank row : Nat)
  | sample (sig lag bank row : Nat) (correctable : Bool)
deriving DecidableEq, Repr

/-- One constructor per row of the table of operations and events. -/
inductive Instr where
  /-- Scalar add of sA and sB or an immediate, wrapping or saturating under MODE (R206). -/
  | sAdd (h : Hdr) (o : LReg)
  /-- Scalar subtract, wrapping or saturating under MODE (R206). -/
  | sSub (h : Hdr) (o : LReg)
  /-- Scalar multiply, low w bits, wrapping or saturating (R206). -/
  | sMul (h : Hdr) (o : LReg)
  /-- Scalar multiply returning the high w bits of the exact product (R206). -/
  | sMulh (h : Hdr) (o : LReg)
  /-- Scalar divide toward zero, with defined results or a divide-by-zero trap when CTRL.DZE is set (R207). -/
  | sDiv (h : Hdr) (o : LReg)
  /-- Scalar remainder with the sign of the dividend, or a trap on a zero divisor when DZE is set (R207). -/
  | sRem (h : Hdr) (o : LReg)
  /-- Scalar minimum, signed or natural by format (R206). -/
  | sMin (h : Hdr) (o : LReg)
  /-- Scalar maximum, signed or natural by format (R206). -/
  | sMax (h : Hdr) (o : LReg)
  /-- 64-bit bitwise AND of sA and sB or an immediate (R208). -/
  | sAnd (h : Hdr) (o : LReg)
  /-- 64-bit bitwise OR (R208). -/
  | sOr (h : Hdr) (o : LReg)
  /-- 64-bit bitwise XOR (R208). -/
  | sXor (h : Hdr) (o : LReg)
  /-- 64-bit sA AND NOT the second operand (R208). -/
  | sAndn (h : Hdr) (o : LReg)
  /-- Scalar shift left by the low 8 bits of the amount (R209). -/
  | sShl (h : Hdr) (o : LReg)
  /-- Scalar logical shift right with zero fill (R209). -/
  | sShr (h : Hdr) (o : LReg)
  /-- Scalar arithmetic shift right with sign fill (R209). -/
  | sSra (h : Hdr) (o : LReg)
  /-- Scalar rotate left by the amount mod w (R209). -/
  | sRot (h : Hdr) (o : LReg)
  /-- Count of leading zeros of the w-bit source (R210). -/
  | sClz (h : Hdr) (o : LReg)
  /-- Count of set bits of the w-bit source (R210). -/
  | sPopc (h : Hdr) (o : LReg)
  /-- Scalar compare under a condition code, writing 1 or 0 (R211). -/
  | sCmp (h : Hdr) (o : LReg)
  /-- Scalar select of sA or the second operand by sC being nonzero (R212). -/
  | sSel (h : Hdr) (o : LReg)
  /-- Extract a bitfield of sA, sign- or zero-extended (R213). -/
  | bfx (h : Hdr) (o : LReg)
  /-- Insert the low bits of sA into a field of sC (R213). -/
  | bfi (h : Hdr) (o : LReg)
  /-- Load a 64-bit immediate into a scalar (R214). -/
  | liw (h : Hdr) (o : LWide)
  /-- Read a numbered special register into a scalar (R215). -/
  | mfsr (h : Hdr) (o : LReg)
  /-- Write a scalar into a numbered special register, subject to level and nest conditions; a SEED write reseeds the generators (R215). -/
  | mtsr (h : Hdr) (o : LReg)
  /-- Write a scalar into a rotating q register with its null flag clear (R216). -/
  | mtq (h : Hdr) (o : LReg)
  /-- Set a rotating q register to null with zero data (R216). -/
  | mtqNull (h : Hdr) (o : LReg)
  /-- Read the data of a rotating q register into a scalar (R216). -/
  | mfq (h : Hdr) (o : LReg)
  /-- Read whether a rotating q register is null (R216). -/
  | mfqNull (h : Hdr) (o : LReg)
  /-- No operation beyond its STALL and scoreboard fields (R217). -/
  | nop (h : Hdr) (o : LReg)
  /-- Unconditional branch to an immediate offset or a register address (R218). -/
  | br (h : Hdr) (o : LReg)
  /-- Conditional branch on a comparison of two scalars (R218). -/
  | brc (h : Hdr) (o : LReg)
  /-- Write the return address and transfer control (R218). -/
  | call (h : Hdr) (o : LReg)
  /-- Transfer control to the address in sA (R218). -/
  | ret (h : Hdr) (o : LReg)
  /-- Start a loop-buffer nest over the following body groups under a nest record (R219). -/
  | loop (h : Hdr) (o : LReg)
  /-- Wait until any masked tag is set and return the set tags (R220). -/
  | waitany (h : Hdr) (o : LReg)
  /-- Wait until all masked tags are set and return them (R220). -/
  | waitall (h : Hdr) (o : LReg)
  /-- Return the lowest set tag under a mask without waiting (R221). -/
  | ffr (h : Hdr) (o : LReg)
  /-- Hold until the member's own work has landed, make the barrier checks, and arrive at the tick barrier (R222). -/
  | tick (h : Hdr) (o : LReg)
  /-- Hold until the member's window stores and front changes have landed, then arrive at a phase boundary without advancing NOW (R222). -/
  | phase (h : Hdr) (o : LReg)
  /-- Request the next work identifier of the task into a rotating q register (R224). -/
  | next (h : Hdr) (o : LReg)
  /-- Raise the task's top-field count and report the new bound and refusal (R225). -/
  | grow (h : Hdr) (o : LReg)
  /-- End the member, publish its pending stores and count it as arrived at later boundaries (R223). -/
  | exit (h : Hdr) (o : LReg)
  /-- Raise the precise software trap with a 16-bit code (R226). -/
  | trap (h : Hdr) (o : LReg)
  /-- Return from a handler to TRET, lowering TL and delivering held results (R227). -/
  | rte (h : Hdr) (o : LReg)
  /-- Discard fetched syllables and refetch from current memory at device scope (R228). -/
  | iflush (h : Hdr) (o : LReg)
  /-- Write FMTR from a scalar, taking effect three groups later (R229). -/
  | setfmt (h : Hdr) (o : LScl)
  /-- Read one cluster-vector of a signal at a lag into a vector register (R239). -/
  | trd (h : Hdr) (o : LTap)
  /-- Read a window of up to 16 lags of a signal into consecutive registers (R240). -/
  | trdw (h : Hdr) (o : LTap)
  /-- Replace one cluster-vector of a signal's face (R242). -/
  | twr (h : Hdr) (o : LTap)
  /-- Accumulate a vector into a signal's face under the format's rounding (R243). -/
  | twra (h : Hdr) (o : LTap)
  /-- Return a signal's history count (R245). -/
  | thist (h : Hdr) (o : LTap)
  /-- Return a signal's shape, span position and role on this core (R246). -/
  | tsig (h : Hdr) (o : LTap)
  /-- Load lane words from the scratchpad through a buffer or window record (R252). -/
  | ld (h : Hdr) (o : LMem)
  /-- Store lane words to the scratchpad, or as a window store to the receiving members (R252). -/
  | st (h : Hdr) (o : LMem)
  /-- Load 1 to 8 scratchpad bytes into a scalar with extension (R253). -/
  | lds (h : Hdr) (o : LMem)
  /-- Store the low bytes of a scalar to the scratchpad (R253). -/
  | sts (h : Hdr) (o : LMem)
  /-- Gather words from per-lane scratchpad offsets (R254). -/
  | ldg (h : Hdr) (o : LMem)
  /-- Scatter words to per-lane scratchpad offsets (R254). -/
  | stg (h : Hdr) (o : LMem)
  /-- Read one 64-bit word of a buffer-record pool entry (R255). -/
  | ldb (h : Hdr) (o : LMem)
  /-- Per-element vector add (R260). -/
  | vAdd (h : Hdr) (o : LReg)
  /-- Per-element vector subtract (R260). -/
  | vSub (h : Hdr) (o : LReg)
  /-- Per-element vector multiply (R260). -/
  | vMul (h : Hdr) (o : LReg)
  /-- Per-element high half of the integer product (R260). -/
  | vMulh (h : Hdr) (o : LReg)
  /-- Per-element fused multiply-add with one rounding (R260). -/
  | fma (h : Hdr) (o : LReg)
  /-- Per-element fused multiply-subtract with one rounding (R260). -/
  | fms (h : Hdr) (o : LReg)
  /-- Per-element minimum (R261). -/
  | vMin (h : Hdr) (o : LReg)
  /-- Per-element maximum (R261). -/
  | vMax (h : Hdr) (o : LReg)
  /-- Per-element absolute value (R260). -/
  | abs (h : Hdr) (o : LReg)
  /-- Per-element negation (R260). -/
  | neg (h : Hdr) (o : LReg)
  /-- Per-element absolute difference with one rounding (R260). -/
  | absd (h : Hdr) (o : LReg)
  /-- Lane-word bitwise AND (R262). -/
  | vAnd (h : Hdr) (o : LReg)
  /-- Lane-word bitwise OR (R262). -/
  | vOr (h : Hdr) (o : LReg)
  /-- Lane-word bitwise XOR (R262). -/
  | vXor (h : Hdr) (o : LReg)
  /-- Lane-word AND NOT (R262). -/
  | vAndn (h : Hdr) (o : LReg)
  /-- Per-element shift left by per-element amounts (R263). -/
  | vShl (h : Hdr) (o : LReg)
  /-- Per-element logical shift right (R263). -/
  | vShr (h : Hdr) (o : LReg)
  /-- Per-element arithmetic shift right (R263). -/
  | vSra (h : Hdr) (o : LReg)
  /-- Per-element count of leading zeros (R264). -/
  | vClz (h : Hdr) (o : LReg)
  /-- Per-element count of set bits (R264). -/
  | vPopc (h : Hdr) (o : LReg)
  /-- Per-lane compare writing a mask register (R265). -/
  | vCmp (h : Hdr) (o : LReg)
  /-- Per-lane select between two sources by a mask (R266). -/
  | vSel (h : Hdr) (o : LReg)
  /-- Copy a lane word into each active lane (R267). -/
  | mov (h : Hdr) (o : LReg)
  /-- Broadcast one element of a cluster to every element of its active lanes (R268). -/
  | bcast (h : Hdr) (o : LReg)
  /-- Extract one element of one cluster into a scalar (R268). -/
  | extr (h : Hdr) (o : LReg)
  /-- Insert a scalar into one element of a vector register (R268). -/
  | ins (h : Hdr) (o : LReg)
  /-- Permute, rotate or shift lane words within each cluster (R269). -/
  | perm (h : Hdr) (o : LReg)
  /-- Write base plus element number into each active element (R270). -/
  | iota (h : Hdr) (o : LReg)
  /-- AND of two mask registers (R271). -/
  | kand (h : Hdr) (o : LReg)
  /-- OR of two mask registers (R271). -/
  | kor (h : Hdr) (o : LReg)
  /-- XOR of two mask registers (R271). -/
  | kxor (h : Hdr) (o : LReg)
  /-- Complement of a mask register (R271). -/
  | knot (h : Hdr) (o : LReg)
  /-- Count of set mask bits into a scalar (R271). -/
  | kpopc (h : Hdr) (o : LReg)
  /-- Build a tail mask of the first n lanes, core-wide or per cluster (R271). -/
  | ktail (h : Hdr) (o : LReg)
  /-- Per-element 2 to the power x (R272). -/
  | exp2 (h : Hdr) (o : LReg)
  /-- Per-element base-2 logarithm (R272). -/
  | log2 (h : Hdr) (o : LReg)
  /-- Per-element reciprocal (R272). -/
  | rcp (h : Hdr) (o : LReg)
  /-- Per-element reciprocal square root (R272). -/
  | rsqrt (h : Hdr) (o : LReg)
  /-- Per-element square root (R272). -/
  | sqrt (h : Hdr) (o : LReg)
  /-- Per-element hyperbolic tangent (R272). -/
  | tanh (h : Hdr) (o : LReg)
  /-- Per-element logistic sigmoid (R272). -/
  | sigm (h : Hdr) (o : LReg)
  /-- Per-element error function (R272). -/
  | erf (h : Hdr) (o : LReg)
  /-- Per-element sine of x half-turns (R272). -/
  | sin (h : Hdr) (o : LReg)
  /-- Per-element cosine of x half-turns (R272). -/
  | cos (h : Hdr) (o : LReg)
  /-- Accumulate an exact sum of masked lanes into a latch with one fit (R276). -/
  | rsum (h : Hdr) (o : LReg)
  /-- Fold the maximum of masked lanes into a latch (R276). -/
  | rmax (h : Hdr) (o : LReg)
  /-- Fold the minimum of masked lanes into a latch (R276). -/
  | rmin (h : Hdr) (o : LReg)
  /-- Fold the least value and its index into a latch pair (R277). -/
  | rminidx (h : Hdr) (o : LReg)
  /-- Compute per-block maximum magnitudes into the scale bypass (R280). -/
  | rabsmax (h : Hdr) (o : LReg)
  /-- Read a latch, or its 16-lane fold, into a vector register (R279). -/
  | rdrain (h : Hdr) (o : LReg)
  /-- Set a latch to the identity of a named reduction (R278). -/
  | rclr (h : Hdr) (o : LReg)
  /-- Sort active lanes into dense per-outcome index lists with counts (R281). -/
  | part (h : Hdr) (o : LReg)
  /-- Configure a front register and empty it (R337). -/
  | fcfg (h : Hdr) (o : LReg)
  /-- Insert the active lanes' tuples of one cluster into a front in lane order (R338). -/
  | fins (h : Hdr) (o : LReg)
  /-- Replace a front with one front merged with another (R339). -/
  | fmerge (h : Hdr) (o : LReg)
  /-- Read front entries in lexicographic order into three registers (R340). -/
  | fpeel (h : Hdr) (o : LReg)
  /-- Return a front's counts and configuration state (R341). -/
  | fcnt (h : Hdr) (o : LReg)
  /-- Empty a front and zero its counts, keeping its configuration (R342). -/
  | fclr (h : Hdr) (o : LReg)
  /-- Empty a front, zero its counts and make it unconfigured (R342). -/
  | fclrAll (h : Hdr) (o : LReg)
  /-- Write a front's 832-byte image to the scratchpad (R347). -/
  | fsave (h : Hdr) (o : LReg)
  /-- Rebuild a front from a scratchpad image (R347). -/
  | fload (h : Hdr) (o : LReg)
  /-- Multiply a scratchpad or tap-window operand by the weight buffer into an accumulator tile (R288). -/
  | mma (h : Hdr) (o : LArr)
  /-- Multiply a down-converted accumulator tile by the weight buffer into another tile (R288). -/
  | mmac (h : Hdr) (o : LArr)
  /-- Load the B operand and its scales into the weight buffer (R293). -/
  | ldw (h : Hdr) (o : LArr)
  /-- Read a half-row of an accumulator tile into a vector register (R294). -/
  | accrd (h : Hdr) (o : LArr)
  /-- Write a vector register into a half-row of an accumulator tile (R294). -/
  | accwr (h : Hdr) (o : LArr)
  /-- Zero an accumulator tile (R294). -/
  | accclr (h : Hdr) (o : LArr)
  /-- Take the pair's array in exclusive mode once both cores' array work has ended (R295). -/
  | mmodeExcl (h : Hdr) (o : LArr)
  /-- Return the pair's array to alternate windows (R295). -/
  | mmodeAlt (h : Hdr) (o : LArr)
  /-- Load a scale register from 256 scratchpad bytes (R297). -/
  | scld (h : Hdr) (o : LScl)
  /-- Set eight entries of a scale register from a scalar (R297). -/
  | scset (h : Hdr) (o : LScl)
  /-- Copy one scale register to another (R297). -/
  | scmov (h : Hdr) (o : LScl)
  /-- Convert elements between formats, narrowing or widening by part (R299). -/
  | cvt (h : Hdr) (o : LReg)
  /-- Quantise to an MX element format with block scales from the scale bypass (R300). -/
  | cvtq (h : Hdr) (o : LReg)
  /-- Transpose a square block held across registers in each cluster (R301). -/
  | trans (h : Hdr) (o : LReg)
  /-- Copy a register from another cluster by rotation, XOR or map (R302). -/
  | xcl (h : Hdr) (o : LReg)
  /-- Build lane windows with edge fill, regrouping space into channels (R304). -/
  | regroup (h : Hdr) (o : LReg)
  /-- Pack unpacked 6-bit elements (R305). -/
  | pack (h : Hdr) (o : LReg)
  /-- Unpack packed 6-bit elements (R305). -/
  | unpack (h : Hdr) (o : LReg)
  /-- Broadcast scale-register entries into cluster lanes (R303). -/
  | xbcast (h : Hdr) (o : LReg)
  /-- Scoreboarded load from device memory through an operand extent (R312). -/
  | ldd (h : Hdr) (o : LEmem)
  /-- Promised load landing at its class's fixed latency (R312). -/
  | lddP (h : Hdr) (o : LEmem)
  /-- Acquire load at a scope that refreshes the snapshot (R114). -/
  | lddAcq (h : Hdr) (o : LEmem)
  /-- Make a pending store to device memory (R313). -/
  | std (h : Hdr) (o : LEmem)
  /-- Release store publishing the core's pending stores and waited-on writes at a scope (R113). -/
  | stdRel (h : Hdr) (o : LEmem)
  /-- Atomic add at the location's home (R314). -/
  | atomAdd (h : Hdr) (o : LEmem)
  /-- Atomic AND at the location's home (R314). -/
  | atomAnd (h : Hdr) (o : LEmem)
  /-- Atomic OR at the location's home (R314). -/
  | atomOr (h : Hdr) (o : LEmem)
  /-- Atomic XOR at the location's home (R314). -/
  | atomXor (h : Hdr) (o : LEmem)
  /-- Atomic minimum at the location's home (R314). -/
  | atomMin (h : Hdr) (o : LEmem)
  /-- Atomic maximum at the location's home (R314). -/
  | atomMax (h : Hdr) (o : LEmem)
  /-- Atomic swap at the location's home (R314). -/
  | atomSwp (h : Hdr) (o : LEmem)
  /-- Atomic compare-and-swap of 32 or 64 bits (R314). -/
  | atomCas (h : Hdr) (o : LEmem)
  /-- Atomic 16-byte compare-and-swap into a scalar pair (R314). -/
  | cas128 (h : Hdr) (o : LEmem)
  /-- Hoist copy from device memory to the scratchpad (R316). -/
  | cpyD2s (h : Hdr) (o : LEcmd)
  /-- Hoist copy from the scratchpad to device memory (R316). -/
  | cpyS2d (h : Hdr) (o : LEcmd)
  /-- Hoist copy between two device-memory extents (R316). -/
  | cpyD2d (h : Hdr) (o : LEcmd)
  /-- Hoist copy within the scratchpad (R316). -/
  | cpyS2s (h : Hdr) (o : LEcmd)
  /-- Hoist copy of a sample from device memory into a bridged-in signal's face (R316). -/
  | cpyD2t (h : Hdr) (o : LEcmd)
  /-- Hoist copy from device memory into compressed scratchpad regions (R316). -/
  | cpyD2sz (h : Hdr) (o : LEcmd)
  /-- Hoist copy within the scratchpad, compressing on write (R316). -/
  | cpyS2sz (h : Hdr) (o : LEcmd)
  /-- Hoist copy of rows addressed by a source and a destination nest (R317). -/
  | cpym (h : Hdr) (o : LEcmd)
  /-- Decode-attention command over paged MXINT8 KV for one KV head (R318). -/
  | adec (h : Hdr) (o : LEcmd)
  /-- Seam command decoding blocks of one posting list (R323). -/
  | plDec (h : Hdr) (o : LEcmd)
  /-- Seam command scoring the intersection of posting lists into a top K (R321). -/
  | plAnd (h : Hdr) (o : LEcmd)
  /-- Seam command returning every intersection match in document order (R322). -/
  | plAndDocs (h : Hdr) (o : LEcmd)
  /-- Seam command scoring the union of posting lists into a top K (R321). -/
  | plOr (h : Hdr) (o : LEcmd)
  /-- Seam command returning every union match in document order (R322). -/
  | plOrDocs (h : Hdr) (o : LEcmd)
  /-- Seam command fusing a lexical and a vector stream into a top K and optionally a front (R324). -/
  | plFuse (h : Hdr) (o : LEcmd)
  /-- Submit a launch record whose tag is set on acceptance (R325). -/
  | launchAcc (h : Hdr) (o : LEcmd)
  /-- Submit a launch record whose tag is set when the task completes (R325). -/
  | launchDone (h : Hdr) (o : LEcmd)
  /-- Return the error bits of set tags under a mask and make them idle (R310). -/
  | tagclr (h : Hdr) (o : LEcmd)
  /-- A fixed-latency result, latch, front, accumulator commit or own-store write lands on its schedule cycle (R173). -/
  | fixedResultLanding
  /-- A variable-latency load, acquire, atomic or release completes and decrements its scoreboard (R174). -/
  | variableResultLanding (n : Nat)
  /-- Late data of a promised load arrives and the frozen schedule cycle takes place (R63). -/
  | promisedLoadArrival
  /-- A freeze lasting 2^26 wall cycles abandons the load and takes the memory-timeout fault (R64). -/
  | memoryTimeout
  /-- A window store lands in every receiving core at issue plus 32 wall cycles (R43). -/
  | windowLanding (n : Nat)
  /-- A face write of an exported signal is replayed in every replica at issue plus 32 (R22). -/
  | exportLanding (n : Nat)
  /-- An engine command completes, sets its tag and error bit, releases its locks and frees consumers (R308). -/
  | engineCommandCompletion (uid : Nat)
  /-- BUDGET reaches zero and the core stops before its next group, raising a BUDGET event (R234). -/
  | budgetStop
  /-- All members have arrived and all landings and commands are done; NOW advances, faces open and state is cleared (R9). -/
  | tickCompletion
  /-- A phase boundary completes, publishing pending stores and refreshing snapshots (R108). -/
  | phaseCompletion
  /-- A tick group is saved to a context record at a completed TICK and its cores are freed (R386). -/
  | preemptSave
  /-- A saved tick group is restored from its context record onto bound cores (R389). -/
  | restore (fn : Nat)
  /-- A bind is dispatched: extents are walked, the code object is loaded and members start (R59). -/
  | dispatch (fn : Nat)
  /-- A task completes, its dependants are resolved and a completion record is written (R359). -/
  | taskCompletion (fn task : Nat)
  /-- The scheduler re-walks a run marked by an invalidation and the frozen access proceeds or fails (R71). -/
  | runRewalk (page : Nat)
  /-- The hardware resolver answers one fault-resolution request, mapping a frame or refusing (R420). -/
  | hardwareResolver (fn : Nat)
  /-- The scrub engine zeroes memory changing owner and clears SP when no granule is pending (R73). -/
  | scrub (page : Nat)
  /-- The background scrubber reads and corrects each stripe at least every 2^28 cycles (R33). -/
  | scrubberPass
  /-- The scheduler starts the next pending decision of a partition from its snapshot (R361). -/
  | decision (fn : Nat)
  /-- A decision reaching 1,024 cycles is abandoned and the fallback decides the event (R369). -/
  | decisionOverrun (fn : Nat)
  /-- The partition quantum elapses and raises a TIMER event (R360). -/
  | timer (fn : Nat)
  /-- Policy bytecode: move (R364). -/
  | tchMov (d : BitVec 4) (bi : Bool) (b : BitVec 16)
  /-- Policy bytecode: add (R364). -/
  | tchAdd (d : BitVec 4) (a : BitVec 4) (bi : Bool) (b : BitVec 16)
  /-- Policy bytecode: subtract (R364). -/
  | tchSub (d : BitVec 4) (a : BitVec 4) (bi : Bool) (b : BitVec 16)
  /-- Policy bytecode: AND (R364). -/
  | tchAnd (d : BitVec 4) (a : BitVec 4) (bi : Bool) (b : BitVec 16)
  /-- Policy bytecode: OR (R364). -/
  | tchOr (d : BitVec 4) (a : BitVec 4) (bi : Bool) (b : BitVec 16)
  /-- Policy bytecode: XOR (R364). -/
  | tchXor (d : BitVec 4) (a : BitVec 4) (bi : Bool) (b : BitVec 16)
  /-- Policy bytecode: shift left (R364). -/
  | tchShl (d : BitVec 4) (a : BitVec 4) (bi : Bool) (b : BitVec 16)
  /-- Policy bytecode: shift right (R364). -/
  | tchShr (d : BitVec 4) (a : BitVec 4) (bi : Bool) (b : BitVec 16)
  /-- Policy bytecode: natural minimum (R364). -/
  | tchMin (d : BitVec 4) (a : BitVec 4) (bi : Bool) (b : BitVec 16)
  /-- Policy bytecode: natural maximum (R364). -/
  | tchMax (d : BitVec 4) (a : BitVec 4) (bi : Bool) (b : BitVec 16)
  /-- Policy bytecode: low 32 bits of the product (R364). -/
  | tchMul (d : BitVec 4) (a : BitVec 4) (bi : Bool) (b : BitVec 16)
  /-- Policy bytecode: load an immediate into the upper half (R364). -/
  | tchLui (d : BitVec 4) (imm : BitVec 16)
  /-- Policy bytecode: compare equal (R364). -/
  | tchCeq (d : BitVec 4) (a : BitVec 4) (bi : Bool) (b : BitVec 16)
  /-- Policy bytecode: compare less than, natural (R364). -/
  | tchClt (d : BitVec 4) (a : BitVec 4) (bi : Bool) (b : BitVec 16)
  /-- Policy bytecode: compare less than, signed (R364). -/
  | tchClts (d : BitVec 4) (a : BitVec 4) (bi : Bool) (b : BitVec 16)
  /-- Policy bytecode: branch if zero (R364). -/
  | tchBz (a : BitVec 4) (off : BitVec 8)
  /-- Policy bytecode: branch if nonzero (R364). -/
  | tchBnz (a : BitVec 4) (off : BitVec 8)
  /-- Policy bytecode: forward jump (R364). -/
  | tchJmp (off : BitVec 8)
  /-- Policy bytecode: run the following L bytecodes n times (R364). -/
  | tchLoopn (d : BitVec 4) (len : BitVec 8) (n : BitVec 4)
  /-- Policy bytecode: read a field of a queue head (R365). -/
  | tchQrd (d : BitVec 4) (a : BitVec 4) (field : BitVec 16)
  /-- Policy bytecode: read a field of a core (R365). -/
  | tchCrd (d : BitVec 4) (a : BitVec 4) (field : BitVec 16)
  /-- Policy bytecode: read a field of the event (R365). -/
  | tchErd (d : BitVec 4) (field : BitVec 16)
  /-- Policy bytecode: read a field of the partition (R365). -/
  | tchPrd (d : BitVec 4) (field : BitVec 16)
  /-- Policy bytecode: mask of free partition cores in a bench (R364). -/
  | tchFreeb (d : BitVec 4) (a : BitVec 4)
  /-- Policy bytecode: stage a BIND with a hidden bind record (R366). -/
  | tchBind (a : BitVec 4) (b : BitVec 4)
  /-- Policy bytecode: stage a PREEMPT (R366). -/
  | tchPreempt (a : BitVec 4)
  /-- Policy bytecode: stage a KILL (R366). -/
  | tchKill (a : BitVec 4)
  /-- Policy bytecode: stage a REFILL (R366). -/
  | tchRefill (a : BitVec 4) (bi : Bool) (b : BitVec 16)
  /-- Policy bytecode: stage a DEFER (R366). -/
  | tchDefer (a : BitVec 4)
  /-- Policy bytecode: stage a PRIO (R366). -/
  | tchPrio (a : BitVec 4) (bi : Bool) (b : BitVec 16)
  /-- Policy bytecode: end the decision and commit its staged actions on one cycle (R366). -/
  | tchEnd
  /-- A host write to dwords 0 to 6 of a launch-window slot is staged (R355). -/
  | launchStage (fn slot dword : Nat) (data : Word)
  /-- A write to dword 7 submits a launch record, which is checked and queued or refused (R356). -/
  | launchRecord (fn slot : Nat) (data : Word)
  /-- A host write of a bytecode to the inactive policy bank, discarded while a swap is pending (R371). -/
  | policyWindowWrite (fn index : Nat) (data : BitVec 32)
  /-- A PCMD write of 1 starts verification of the inactive bank (R370). -/
  | pcmdVerify (fn : Nat)
  /-- Verification of the inactive bank ends verified or refused with a reason (R368). -/
  | verificationDone (fn : Nat)
  /-- A PCMD write of 2 requests a swap of the policy banks (R371). -/
  | pcmdSwap (fn : Nat)
  /-- A write of 1 to STOP bit 0 requests a stop of the function (R143). -/
  | stopRequest (fn : Nat)
  /-- All tick groups are stopped and engines drained; STOP bit 1 sets and an event record is written (R144). -/
  | functionStopped (fn : Nat)
  /-- A write of 0 to STOP bit 0 resumes the function (R145). -/
  | resume (fn : Nat)
  /-- A host write of ones clears UESTA bits (R405). -/
  | uestaClear (fn : Nat) (ones : Word)
  /-- A host write of ones clears CESTA bits (R405). -/
  | cestaClear (fn : Nat) (ones : Word)
  /-- A write of FMODE, discarded unless the function is stopped (R411). -/
  | fmodeWrite (fn : Nat) (data : Word)
  /-- A write of a ring's BASE, taken only while stopped and aligned (R404). -/
  | ringBaseWrite (fn ring : Nat) (data : Word)
  /-- A write of a ring's SIZE, which resets its indices and counters (R404). -/
  | ringSizeWrite (fn ring : Nat) (data : Word)
  /-- A host write of a consumer index, freeing entries and releasing waiting completions (R404). -/
  | ringHeadWrite (fn ring : Nat) (data : BitVec 32)
  /-- An invalidation descriptor taken from ring 3 starts invalidating translations (R67). -/
  | invalidation (fn : Nat)
  /-- An invalidation completes and ring 3's HEAD passes it (R68). -/
  | invalidationComplete (fn : Nat)
  /-- A host answer on ring 5 resolves or refuses an outstanding request (R410). -/
  | resolutionAnswer (fn : Nat)
  /-- A host decision answer on ring 7 whose LAST entry commits its actions (R410). -/
  | decisionAnswer (fn : Nat)
  /-- No LAST answer within 2^24 cycles, so the fallback decides and a late-answer event is written (R411). -/
  | hostDecisionTimeout (fn : Nat)
  /-- A host write to QREL subtracts from QUSED, saturating at zero (R74). -/
  | qrelWrite (fn : Nat) (data : Word)
  /-- A host write replaces the resolver frame-list count (R412). -/
  | rfcountWrite (fn : Nat) (data : BitVec 32)
  /-- A write of a partition descriptor field, discarded while the function runs except for the listed fields (R412). -/
  | partitionDescriptorWrite (fn offset : Nat) (data : Word)
  /-- A host write to a BAR0 register with no behaviour of its own; writes to read-only or reserved offsets are discarded (R403). A stopped function is given its saved registers back in the last step of a migration (R414). -/
  | registerWrite (fn offset : Nat) (data : RegisterData)
  /-- A host read of device memory, `len` bytes of current memory at system scope (R127), or of a register. -/
  | hostRead (place : HostPlace) (len : Nat)
  /-- A host write to device memory, current at system scope when performed (R127). -/
  | hostWrite (pa : Nat) (data : List Byte)
  /-- A PCI Express AtomicOp from the host performed on HBM (R402). -/
  | hostAtomic (op : HostAtomic) (pa len : Nat) (a b : Nat)
  /-- A peer's one-sided fabric request served through the export table or refused (R415). -/
  | fabricRequest (peer : Peer) (req : FabricOp) (pa len : Nat) (data : List Byte)
  /-- A virtual-function reset kills its tasks, discards its rings and stops its partition (R402). -/
  | functionLevelReset (fn : Nat)
  /-- Power good starts link and HBM training, firmware load, zeroing and reset (R417). -/
  | coldStart (images : List FirmwareImage)
  /-- A warm start reloads firmware and resets SRAM, tables and functions (R417). -/
  | warmStart (images : List FirmwareImage)
  /-- Package draw near 3,400 W lowers the clock in steps (R419). -/
  | clockThrottle (lower : Bool)
  /-- A soft error upsets a stored granule of the scratchpad or a sample of the tap store, leaving it for detection, correction or an uncorrectable report (R33). -/
  | softError (core : Nat) (what : Upset)
  /-- A scratchpad bank reports a hard failure and is marked failed (R34). -/
  | bankHardFailure (core : Nat) (bank : BankId)
  /-- A host write of the producer index of ring 3, 5 or 7, taken or discarded and counted in DROP (R404). -/
  | ringTailWrite (fn ring : Nat) (data : BitVec 32)
  /-- On the host's request with a nonce, the device produces a signed report of the measurement registers and its certificate chain (R418). -/
  | attestationReport (nonce : Nat)
deriving DecidableEq, Repr

end Sys2Proof
end

