-- ==== Sys2Proof/Machine/Encoding.lean ====
section
/-! DEFINITION. The encoding of syllables: header and layouts (R167, R183), the opcode map (R186), and the field checks whose failure is reason 4 of R180. -/
namespace Sys2Proof.Machine

/-- Bits 79:0 of a syllable in its layout (R183). -/
inductive Body where
  | reg (o : LReg)
  | wide (o : LWide)
  | tap (o : LTap)
  | mem (o : LMem)
  | scl (o : LScl)
  | arr (o : LArr)
  | emem (o : LEmem)
  | ecmd (o : LEcmd)
deriving DecidableEq, Repr

/-- CLASS, OPCODE, header and operands of a syllable (R167). -/
structure Syl where
  cls : Nat
  opc : Nat
  h : Hdr
  body : Body
deriving DecidableEq, Repr

/-- Header bits 114:80, below CLASS and OPCODE, from the high end down. -/
def hdrBits (h : Hdr) : BitVec 35 := h.stall ++ BitVec.ofBool h.sbv ++ h.sbi ++ h.sbwait ++ h.reuse ++ h.cmask ++ h.fmt

def hdrOf (stop : Bool) (b : BitVec 35) : Hdr :=
  { stop := stop, stall := b.extractLsb' 31 4, sbv := b.getLsbD 30, sbi := b.extractLsb' 27 3, sbwait := b.extractLsb' 19 8
    reuse := b.extractLsb' 16 3, cmask := b.extractLsb' 8 8, fmt := b.extractLsb' 0 8 }

def regBits (o : LReg) : BitVec 80 := o.d ++ o.a ++ o.b ++ o.c ++ o.sub ++ o.bsel ++ o.km ++ o.rsv ++ o.imm
def regOf (w : BitVec 80) : LReg :=
  { d := w.extractLsb' 74 6, a := w.extractLsb' 68 6, b := w.extractLsb' 62 6, c := w.extractLsb' 56 6, sub := w.extractLsb' 52 4
    bsel := w.extractLsb' 50 2, km := w.extractLsb' 47 3, rsv := w.extractLsb' 40 7, imm := w.extractLsb' 0 40 }

def wideBits (o : LWide) : BitVec 80 := o.d ++ o.rsv ++ o.imm64
def wideOf (w : BitVec 80) : LWide := { d := w.extractLsb' 74 6, rsv := w.extractLsb' 64 10, imm64 := w.extractLsb' 0 64 }

def tapBits (o : LTap) : BitVec 80 := o.d ++ o.sig ++ o.vec ++ BitVec.ofBool o.lr ++ o.lreg ++ o.lag ++ o.lagb ++ o.rsv
def tapOf (w : BitVec 80) : LTap :=
  { d := w.extractLsb' 74 6, sig := w.extractLsb' 66 8, vec := w.extractLsb' 63 3, lr := w.getLsbD 62, lreg := w.extractLsb' 56 6
    lag := w.extractLsb' 40 16, lagb := w.extractLsb' 24 16, rsv := w.extractLsb' 0 24 }

def memBits (o : LMem) : BitVec 80 := o.d ++ o.rcd ++ o.offm ++ o.o ++ o.km ++ o.nest ++ o.imm23 ++ o.rsv
def memOf (w : BitVec 80) : LMem :=
  { d := w.extractLsb' 74 6, rcd := w.extractLsb' 66 8, offm := w.extractLsb' 64 2, o := w.extractLsb' 58 6, km := w.extractLsb' 55 3
    nest := w.extractLsb' 47 8, imm23 := w.extractLsb' 24 23, rsv := w.extractLsb' 0 24 }

def sclBits (o : LScl) : BitVec 80 := o.sc ++ o.a ++ o.rcd ++ o.o ++ o.imm23 ++ o.rsv
def sclOf (w : BitVec 80) : LScl :=
  { sc := w.extractLsb' 76 4, a := w.extractLsb' 70 6, rcd := w.extractLsb' 62 8, o := w.extractLsb' 56 6, imm23 := w.extractLsb' 33 23
    rsv := w.extractLsb' 0 33 }

def arrBits (o : LArr) : BitVec 80 := o.mt ++ o.srck ++ o.rcd ++ o.o ++ o.imm23 ++ o.kst ++ o.bfmt ++ o.sc ++ o.ms ++ o.rsv
def arrOf (w : BitVec 80) : LArr :=
  { mt := w.extractLsb' 78 2, srck := w.extractLsb' 76 2, rcd := w.extractLsb' 68 8, o := w.extractLsb' 62 6, imm23 := w.extractLsb' 39 23
    kst := w.extractLsb' 31 8, bfmt := w.extractLsb' 25 6, sc := w.extractLsb' 21 4, ms := w.extractLsb' 19 2, rsv := w.extractLsb' 0 19 }

def ememBits (o : LEmem) : BitVec 80 :=
  o.d ++ o.a ++ o.b ++ o.o ++ o.x ++ o.scope ++ o.ord ++ o.sz ++ BitVec.ofBool o.pr ++ o.sub ++ o.rsv ++ o.imm24
def ememOf (w : BitVec 80) : LEmem :=
  { d := w.extractLsb' 74 6, a := w.extractLsb' 68 6, b := w.extractLsb' 62 6, o := w.extractLsb' 56 6, x := w.extractLsb' 52 4
    scope := w.extractLsb' 49 3, ord := w.extractLsb' 47 2, sz := w.extractLsb' 44 3, pr := w.getLsbD 43, sub := w.extractLsb' 39 4
    rsv := w.extractLsb' 24 15, imm24 := w.extractLsb' 0 24 }

def ecmdBits (o : LEcmd) : BitVec 80 :=
  o.a ++ o.b ++ o.c ++ o.rec1 ++ o.rec2 ++ o.x ++ o.tp ++ o.tc0 ++ o.tc1 ++ o.tc2 ++ o.tcv ++ o.sub ++ o.rsv
def ecmdOf (w : BitVec 80) : LEcmd :=
  { a := w.extractLsb' 74 6, b := w.extractLsb' 68 6, c := w.extractLsb' 62 6, rec1 := w.extractLsb' 54 8, rec2 := w.extractLsb' 46 8
    x := w.extractLsb' 42 4, tp := w.extractLsb' 36 6, tc0 := w.extractLsb' 30 6, tc1 := w.extractLsb' 24 6, tc2 := w.extractLsb' 18 6
    tcv := w.extractLsb' 15 3, sub := w.extractLsb' 11 4, rsv := w.extractLsb' 0 11 }

/-- Bits 79:0 of a body. -/
def Body.bits : Body → BitVec 80
  | .reg o => regBits o
  | .wide o => wideBits o
  | .tap o => tapBits o
  | .mem o => memBits o
  | .scl o => sclBits o
  | .arr o => arrBits o
  | .emem o => ememBits o
  | .ecmd o => ecmdBits o

/-- The 128 bits of a syllable (R167). -/
def Syl.word (y : Syl) : Syllable :=
  BitVec.ofBool y.h.stop ++ BitVec.ofNat 4 y.cls ++ BitVec.ofNat 8 y.opc ++ hdrBits y.h ++ y.body.bits

/-- CLASS, OPCODE, header and operands of an instruction of the opcode map (R186); the events and the policy bytecodes are no syllables. -/
def syl? : Instr → Option Syl
  | .sAdd h o => some { cls := 0, opc := 0x00, h := h, body := .reg o }
  | .sSub h o => some { cls := 0, opc := 0x01, h := h, body := .reg o }
  | .sMul h o => some { cls := 0, opc := 0x02, h := h, body := .reg o }
  | .sMulh h o => some { cls := 0, opc := 0x03, h := h, body := .reg o }
  | .sDiv h o => some { cls := 0, opc := 0x04, h := h, body := .reg o }
  | .sRem h o => some { cls := 0, opc := 0x05, h := h, body := .reg o }
  | .sMin h o => some { cls := 0, opc := 0x06, h := h, body := .reg o }
  | .sMax h o => some { cls := 0, opc := 0x07, h := h, body := .reg o }
  | .sAnd h o => some { cls := 0, opc := 0x08, h := h, body := .reg o }
  | .sOr h o => some { cls := 0, opc := 0x09, h := h, body := .reg o }
  | .sXor h o => some { cls := 0, opc := 0x0A, h := h, body := .reg o }
  | .sAndn h o => some { cls := 0, opc := 0x0B, h := h, body := .reg o }
  | .sShl h o => some { cls := 0, opc := 0x0C, h := h, body := .reg o }
  | .sShr h o => some { cls := 0, opc := 0x0D, h := h, body := .reg o }
  | .sSra h o => some { cls := 0, opc := 0x0E, h := h, body := .reg o }
  | .sRot h o => some { cls := 0, opc := 0x0F, h := h, body := .reg o }
  | .sClz h o => some { cls := 0, opc := 0x10, h := h, body := .reg o }
  | .sPopc h o => some { cls := 0, opc := 0x11, h := h, body := .reg o }
  | .sCmp h o => some { cls := 0, opc := 0x12, h := h, body := .reg o }
  | .sSel h o => some { cls := 0, opc := 0x13, h := h, body := .reg o }
  | .bfx h o => some { cls := 0, opc := 0x14, h := h, body := .reg o }
  | .bfi h o => some { cls := 0, opc := 0x15, h := h, body := .reg o }
  | .liw h o => some { cls := 0, opc := 0x16, h := h, body := .wide o }
  | .mfsr h o => some { cls := 0, opc := 0x18, h := h, body := .reg o }
  | .mtsr h o => some { cls := 0, opc := 0x19, h := h, body := .reg o }
  | .mtq h o => some { cls := 0, opc := 0x1A, h := h, body := .reg o }
  | .mtqNull h o => some { cls := 0, opc := 0x1A, h := h, body := .reg o }
  | .mfq h o => some { cls := 0, opc := 0x1B, h := h, body := .reg o }
  | .mfqNull h o => some { cls := 0, opc := 0x1B, h := h, body := .reg o }
  | .nop h o => some { cls := 0, opc := 0x50, h := h, body := .reg o }
  | .br h o => some { cls := 0, opc := 0x40, h := h, body := .reg o }
  | .brc h o => some { cls := 0, opc := 0x41, h := h, body := .reg o }
  | .call h o => some { cls := 0, opc := 0x42, h := h, body := .reg o }
  | .ret h o => some { cls := 0, opc := 0x43, h := h, body := .reg o }
  | .loop h o => some { cls := 0, opc := 0x44, h := h, body := .reg o }
  | .waitany h o => some { cls := 0, opc := 0x45, h := h, body := .reg o }
  | .waitall h o => some { cls := 0, opc := 0x46, h := h, body := .reg o }
  | .ffr h o => some { cls := 0, opc := 0x47, h := h, body := .reg o }
  | .tick h o => some { cls := 0, opc := 0x48, h := h, body := .reg o }
  | .phase h o => some { cls := 0, opc := 0x49, h := h, body := .reg o }
  | .next h o => some { cls := 0, opc := 0x4A, h := h, body := .reg o }
  | .grow h o => some { cls := 0, opc := 0x4B, h := h, body := .reg o }
  | .exit h o => some { cls := 0, opc := 0x4C, h := h, body := .reg o }
  | .trap h o => some { cls := 0, opc := 0x4D, h := h, body := .reg o }
  | .rte h o => some { cls := 0, opc := 0x4E, h := h, body := .reg o }
  | .iflush h o => some { cls := 0, opc := 0x4F, h := h, body := .reg o }
  | .setfmt h o => some { cls := 7, opc := 0x03, h := h, body := .scl o }
  | .trd h o => some { cls := 5, opc := 0x00, h := h, body := .tap o }
  | .trdw h o => some { cls := 5, opc := 0x01, h := h, body := .tap o }
  | .twr h o => some { cls := 5, opc := 0x02, h := h, body := .tap o }
  | .twra h o => some { cls := 5, opc := 0x03, h := h, body := .tap o }
  | .thist h o => some { cls := 5, opc := 0x04, h := h, body := .tap o }
  | .tsig h o => some { cls := 5, opc := 0x05, h := h, body := .tap o }
  | .ld h o => some { cls := 6, opc := 0x00, h := h, body := .mem o }
  | .st h o => some { cls := 6, opc := 0x01, h := h, body := .mem o }
  | .lds h o => some { cls := 6, opc := 0x02, h := h, body := .mem o }
  | .sts h o => some { cls := 6, opc := 0x03, h := h, body := .mem o }
  | .ldg h o => some { cls := 6, opc := 0x04, h := h, body := .mem o }
  | .stg h o => some { cls := 6, opc := 0x05, h := h, body := .mem o }
  | .ldb h o => some { cls := 6, opc := 0x06, h := h, body := .mem o }
  | .vAdd h o => some { cls := 1, opc := 0x00, h := h, body := .reg o }
  | .vSub h o => some { cls := 1, opc := 0x01, h := h, body := .reg o }
  | .vMul h o => some { cls := 1, opc := 0x02, h := h, body := .reg o }
  | .vMulh h o => some { cls := 1, opc := 0x03, h := h, body := .reg o }
  | .fma h o => some { cls := 1, opc := 0x04, h := h, body := .reg o }
  | .fms h o => some { cls := 1, opc := 0x05, h := h, body := .reg o }
  | .vMin h o => some { cls := 1, opc := 0x06, h := h, body := .reg o }
  | .vMax h o => some { cls := 1, opc := 0x07, h := h, body := .reg o }
  | .abs h o => some { cls := 1, opc := 0x08, h := h, body := .reg o }
  | .neg h o => some { cls := 1, opc := 0x09, h := h, body := .reg o }
  | .absd h o => some { cls := 1, opc := 0x21, h := h, body := .reg o }
  | .vAnd h o => some { cls := 1, opc := 0x0A, h := h, body := .reg o }
  | .vOr h o => some { cls := 1, opc := 0x0B, h := h, body := .reg o }
  | .vXor h o => some { cls := 1, opc := 0x0C, h := h, body := .reg o }
  | .vAndn h o => some { cls := 1, opc := 0x0D, h := h, body := .reg o }
  | .vShl h o => some { cls := 1, opc := 0x0E, h := h, body := .reg o }
  | .vShr h o => some { cls := 1, opc := 0x0F, h := h, body := .reg o }
  | .vSra h o => some { cls := 1, opc := 0x10, h := h, body := .reg o }
  | .vClz h o => some { cls := 1, opc := 0x11, h := h, body := .reg o }
  | .vPopc h o => some { cls := 1, opc := 0x12, h := h, body := .reg o }
  | .vCmp h o => some { cls := 1, opc := 0x13, h := h, body := .reg o }
  | .vSel h o => some { cls := 1, opc := 0x14, h := h, body := .reg o }
  | .mov h o => some { cls := 1, opc := 0x15, h := h, body := .reg o }
  | .bcast h o => some { cls := 1, opc := 0x16, h := h, body := .reg o }
  | .extr h o => some { cls := 1, opc := 0x17, h := h, body := .reg o }
  | .ins h o => some { cls := 1, opc := 0x18, h := h, body := .reg o }
  | .perm h o => some { cls := 1, opc := 0x19, h := h, body := .reg o }
  | .iota h o => some { cls := 1, opc := 0x1A, h := h, body := .reg o }
  | .kand h o => some { cls := 1, opc := 0x1B, h := h, body := .reg o }
  | .kor h o => some { cls := 1, opc := 0x1C, h := h, body := .reg o }
  | .kxor h o => some { cls := 1, opc := 0x1D, h := h, body := .reg o }
  | .knot h o => some { cls := 1, opc := 0x1E, h := h, body := .reg o }
  | .kpopc h o => some { cls := 1, opc := 0x1F, h := h, body := .reg o }
  | .ktail h o => some { cls := 1, opc := 0x20, h := h, body := .reg o }
  | .exp2 h o => some { cls := 2, opc := 0x00, h := h, body := .reg o }
  | .log2 h o => some { cls := 2, opc := 0x01, h := h, body := .reg o }
  | .rcp h o => some { cls := 2, opc := 0x02, h := h, body := .reg o }
  | .rsqrt h o => some { cls := 2, opc := 0x03, h := h, body := .reg o }
  | .sqrt h o => some { cls := 2, opc := 0x04, h := h, body := .reg o }
  | .tanh h o => some { cls := 2, opc := 0x05, h := h, body := .reg o }
  | .sigm h o => some { cls := 2, opc := 0x06, h := h, body := .reg o }
  | .erf h o => some { cls := 2, opc := 0x07, h := h, body := .reg o }
  | .sin h o => some { cls := 2, opc := 0x08, h := h, body := .reg o }
  | .cos h o => some { cls := 2, opc := 0x09, h := h, body := .reg o }
  | .rsum h o => some { cls := 3, opc := 0x00, h := h, body := .reg o }
  | .rmax h o => some { cls := 3, opc := 0x01, h := h, body := .reg o }
  | .rmin h o => some { cls := 3, opc := 0x02, h := h, body := .reg o }
  | .rminidx h o => some { cls := 3, opc := 0x03, h := h, body := .reg o }
  | .rabsmax h o => some { cls := 3, opc := 0x04, h := h, body := .reg o }
  | .rdrain h o => some { cls := 3, opc := 0x05, h := h, body := .reg o }
  | .rclr h o => some { cls := 3, opc := 0x06, h := h, body := .reg o }
  | .part h o => some { cls := 3, opc := 0x07, h := h, body := .reg o }
  | .fcfg h o => some { cls := 3, opc := 0x08, h := h, body := .reg o }
  | .fins h o => some { cls := 3, opc := 0x09, h := h, body := .reg o }
  | .fmerge h o => some { cls := 3, opc := 0x0A, h := h, body := .reg o }
  | .fpeel h o => some { cls := 3, opc := 0x0B, h := h, body := .reg o }
  | .fcnt h o => some { cls := 3, opc := 0x0C, h := h, body := .reg o }
  | .fclr h o => some { cls := 3, opc := 0x0D, h := h, body := .reg o }
  | .fclrAll h o => some { cls := 3, opc := 0x0D, h := h, body := .reg o }
  | .fsave h o => some { cls := 3, opc := 0x0E, h := h, body := .reg o }
  | .fload h o => some { cls := 3, opc := 0x0F, h := h, body := .reg o }
  | .mma h o => some { cls := 8, opc := 0x00, h := h, body := .arr o }
  | .mmac h o => some { cls := 8, opc := 0x01, h := h, body := .arr o }
  | .ldw h o => some { cls := 8, opc := 0x02, h := h, body := .arr o }
  | .accrd h o => some { cls := 8, opc := 0x03, h := h, body := .arr o }
  | .accwr h o => some { cls := 8, opc := 0x04, h := h, body := .arr o }
  | .accclr h o => some { cls := 8, opc := 0x05, h := h, body := .arr o }
  | .mmodeExcl h o => some { cls := 8, opc := 0x06, h := h, body := .arr o }
  | .mmodeAlt h o => some { cls := 8, opc := 0x06, h := h, body := .arr o }
  | .scld h o => some { cls := 7, opc := 0x00, h := h, body := .scl o }
  | .scset h o => some { cls := 7, opc := 0x01, h := h, body := .scl o }
  | .scmov h o => some { cls := 7, opc := 0x02, h := h, body := .scl o }
  | .cvt h o => some { cls := 4, opc := 0x00, h := h, body := .reg o }
  | .cvtq h o => some { cls := 4, opc := 0x01, h := h, body := .reg o }
  | .trans h o => some { cls := 4, opc := 0x02, h := h, body := .reg o }
  | .xcl h o => some { cls := 4, opc := 0x03, h := h, body := .reg o }
  | .regroup h o => some { cls := 4, opc := 0x04, h := h, body := .reg o }
  | .pack h o => some { cls := 4, opc := 0x05, h := h, body := .reg o }
  | .unpack h o => some { cls := 4, opc := 0x06, h := h, body := .reg o }
  | .xbcast h o => some { cls := 4, opc := 0x07, h := h, body := .reg o }
  | .ldd h o => some { cls := 9, opc := 0x02, h := h, body := .emem o }
  | .lddP h o => some { cls := 9, opc := 0x02, h := h, body := .emem o }
  | .lddAcq h o => some { cls := 9, opc := 0x03, h := h, body := .emem o }
  | .std h o => some { cls := 9, opc := 0x04, h := h, body := .emem o }
  | .stdRel h o => some { cls := 9, opc := 0x05, h := h, body := .emem o }
  | .atomAdd h o => some { cls := 9, opc := 0x06, h := h, body := .emem o }
  | .atomAnd h o => some { cls := 9, opc := 0x06, h := h, body := .emem o }
  | .atomOr h o => some { cls := 9, opc := 0x06, h := h, body := .emem o }
  | .atomXor h o => some { cls := 9, opc := 0x06, h := h, body := .emem o }
  | .atomMin h o => some { cls := 9, opc := 0x06, h := h, body := .emem o }
  | .atomMax h o => some { cls := 9, opc := 0x06, h := h, body := .emem o }
  | .atomSwp h o => some { cls := 9, opc := 0x06, h := h, body := .emem o }
  | .atomCas h o => some { cls := 9, opc := 0x06, h := h, body := .emem o }
  | .cas128 h o => some { cls := 9, opc := 0x07, h := h, body := .emem o }
  | .cpyD2s h o => some { cls := 9, opc := 0x00, h := h, body := .ecmd o }
  | .cpyS2d h o => some { cls := 9, opc := 0x00, h := h, body := .ecmd o }
  | .cpyD2d h o => some { cls := 9, opc := 0x00, h := h, body := .ecmd o }
  | .cpyS2s h o => some { cls := 9, opc := 0x00, h := h, body := .ecmd o }
  | .cpyD2t h o => some { cls := 9, opc := 0x00, h := h, body := .ecmd o }
  | .cpyD2sz h o => some { cls := 9, opc := 0x00, h := h, body := .ecmd o }
  | .cpyS2sz h o => some { cls := 9, opc := 0x00, h := h, body := .ecmd o }
  | .cpym h o => some { cls := 9, opc := 0x01, h := h, body := .ecmd o }
  | .adec h o => some { cls := 9, opc := 0x08, h := h, body := .ecmd o }
  | .plDec h o => some { cls := 9, opc := 0x09, h := h, body := .ecmd o }
  | .plAnd h o => some { cls := 9, opc := 0x0A, h := h, body := .ecmd o }
  | .plAndDocs h o => some { cls := 9, opc := 0x0A, h := h, body := .ecmd o }
  | .plOr h o => some { cls := 9, opc := 0x0B, h := h, body := .ecmd o }
  | .plOrDocs h o => some { cls := 9, opc := 0x0B, h := h, body := .ecmd o }
  | .plFuse h o => some { cls := 9, opc := 0x0C, h := h, body := .ecmd o }
  | .launchAcc h o => some { cls := 9, opc := 0x0D, h := h, body := .ecmd o }
  | .launchDone h o => some { cls := 9, opc := 0x0D, h := h, body := .ecmd o }
  | .tagclr h o => some { cls := 9, opc := 0x0E, h := h, body := .ecmd o }
  | _ => none

/-- The class S row of the opcode map (R186). A reserved variant decodes as the first variant of its opcode, whose fields it then breaks. -/
def mkS (opc : Nat) (h : Hdr) (w : BitVec 80) : Option Instr :=
  match opc with
  | 0x00 => some (.sAdd h (regOf w))
  | 0x01 => some (.sSub h (regOf w))
  | 0x02 => some (.sMul h (regOf w))
  | 0x03 => some (.sMulh h (regOf w))
  | 0x04 => some (.sDiv h (regOf w))
  | 0x05 => some (.sRem h (regOf w))
  | 0x06 => some (.sMin h (regOf w))
  | 0x07 => some (.sMax h (regOf w))
  | 0x08 => some (.sAnd h (regOf w))
  | 0x09 => some (.sOr h (regOf w))
  | 0x0A => some (.sXor h (regOf w))
  | 0x0B => some (.sAndn h (regOf w))
  | 0x0C => some (.sShl h (regOf w))
  | 0x0D => some (.sShr h (regOf w))
  | 0x0E => some (.sSra h (regOf w))
  | 0x0F => some (.sRot h (regOf w))
  | 0x10 => some (.sClz h (regOf w))
  | 0x11 => some (.sPopc h (regOf w))
  | 0x12 => some (.sCmp h (regOf w))
  | 0x13 => some (.sSel h (regOf w))
  | 0x14 => some (.bfx h (regOf w))
  | 0x15 => some (.bfi h (regOf w))
  | 0x16 => some (.liw h (wideOf w))
  | 0x18 => some (.mfsr h (regOf w))
  | 0x19 => some (.mtsr h (regOf w))
  | 0x1A => some (match (regOf w).sub.toNat with
    | 1 => .mtqNull h (regOf w)
    | _ => .mtq h (regOf w))
  | 0x1B => some (match (regOf w).sub.toNat with
    | 1 => .mfqNull h (regOf w)
    | _ => .mfq h (regOf w))
  | 0x40 => some (.br h (regOf w))
  | 0x41 => some (.brc h (regOf w))
  | 0x42 => some (.call h (regOf w))
  | 0x43 => some (.ret h (regOf w))
  | 0x44 => some (.loop h (regOf w))
  | 0x45 => some (.waitany h (regOf w))
  | 0x46 => some (.waitall h (regOf w))
  | 0x47 => some (.ffr h (regOf w))
  | 0x48 => some (.tick h (regOf w))
  | 0x49 => some (.phase h (regOf w))
  | 0x4A => some (.next h (regOf w))
  | 0x4B => some (.grow h (regOf w))
  | 0x4C => some (.exit h (regOf w))
  | 0x4D => some (.trap h (regOf w))
  | 0x4E => some (.rte h (regOf w))
  | 0x4F => some (.iflush h (regOf w))
  | 0x50 => some (.nop h (regOf w))
  | _ => none

/-- The class V row of the opcode map (R186). A reserved variant decodes as the first variant of its opcode, whose fields it then breaks. -/
def mkV (opc : Nat) (h : Hdr) (w : BitVec 80) : Option Instr :=
  match opc with
  | 0x00 => some (.vAdd h (regOf w))
  | 0x01 => some (.vSub h (regOf w))
  | 0x02 => some (.vMul h (regOf w))
  | 0x03 => some (.vMulh h (regOf w))
  | 0x04 => some (.fma h (regOf w))
  | 0x05 => some (.fms h (regOf w))
  | 0x06 => some (.vMin h (regOf w))
  | 0x07 => some (.vMax h (regOf w))
  | 0x08 => some (.abs h (regOf w))
  | 0x09 => some (.neg h (regOf w))
  | 0x0A => some (.vAnd h (regOf w))
  | 0x0B => some (.vOr h (regOf w))
  | 0x0C => some (.vXor h (regOf w))
  | 0x0D => some (.vAndn h (regOf w))
  | 0x0E => some (.vShl h (regOf w))
  | 0x0F => some (.vShr h (regOf w))
  | 0x10 => some (.vSra h (regOf w))
  | 0x11 => some (.vClz h (regOf w))
  | 0x12 => some (.vPopc h (regOf w))
  | 0x13 => some (.vCmp h (regOf w))
  | 0x14 => some (.vSel h (regOf w))
  | 0x15 => some (.mov h (regOf w))
  | 0x16 => some (.bcast h (regOf w))
  | 0x17 => some (.extr h (regOf w))
  | 0x18 => some (.ins h (regOf w))
  | 0x19 => some (.perm h (regOf w))
  | 0x1A => some (.iota h (regOf w))
  | 0x1B => some (.kand h (regOf w))
  | 0x1C => some (.kor h (regOf w))
  | 0x1D => some (.kxor h (regOf w))
  | 0x1E => some (.knot h (regOf w))
  | 0x1F => some (.kpopc h (regOf w))
  | 0x20 => some (.ktail h (regOf w))
  | 0x21 => some (.absd h (regOf w))
  | _ => none

/-- The class F row of the opcode map (R186). A reserved variant decodes as the first variant of its opcode, whose fields it then breaks. -/
def mkF (opc : Nat) (h : Hdr) (w : BitVec 80) : Option Instr :=
  match opc with
  | 0x00 => some (.exp2 h (regOf w))
  | 0x01 => some (.log2 h (regOf w))
  | 0x02 => some (.rcp h (regOf w))
  | 0x03 => some (.rsqrt h (regOf w))
  | 0x04 => some (.sqrt h (regOf w))
  | 0x05 => some (.tanh h (regOf w))
  | 0x06 => some (.sigm h (regOf w))
  | 0x07 => some (.erf h (regOf w))
  | 0x08 => some (.sin h (regOf w))
  | 0x09 => some (.cos h (regOf w))
  | _ => none

/-- The class D row of the opcode map (R186). A reserved variant decodes as the first variant of its opcode, whose fields it then breaks. -/
def mkD (opc : Nat) (h : Hdr) (w : BitVec 80) : Option Instr :=
  match opc with
  | 0x00 => some (.rsum h (regOf w))
  | 0x01 => some (.rmax h (regOf w))
  | 0x02 => some (.rmin h (regOf w))
  | 0x03 => some (.rminidx h (regOf w))
  | 0x04 => some (.rabsmax h (regOf w))
  | 0x05 => some (.rdrain h (regOf w))
  | 0x06 => some (.rclr h (regOf w))
  | 0x07 => some (.part h (regOf w))
  | 0x08 => some (.fcfg h (regOf w))
  | 0x09 => some (.fins h (regOf w))
  | 0x0A => some (.fmerge h (regOf w))
  | 0x0B => some (.fpeel h (regOf w))
  | 0x0C => some (.fcnt h (regOf w))
  | 0x0D => some (match (regOf w).sub.toNat with
    | 1 => .fclrAll h (regOf w)
    | _ => .fclr h (regOf w))
  | 0x0E => some (.fsave h (regOf w))
  | 0x0F => some (.fload h (regOf w))
  | _ => none

/-- The class T row of the opcode map (R186). A reserved variant decodes as the first variant of its opcode, whose fields it then breaks. -/
def mkT (opc : Nat) (h : Hdr) (w : BitVec 80) : Option Instr :=
  match opc with
  | 0x00 => some (.cvt h (regOf w))
  | 0x01 => some (.cvtq h (regOf w))
  | 0x02 => some (.trans h (regOf w))
  | 0x03 => some (.xcl h (regOf w))
  | 0x04 => some (.regroup h (regOf w))
  | 0x05 => some (.pack h (regOf w))
  | 0x06 => some (.unpack h (regOf w))
  | 0x07 => some (.xbcast h (regOf w))
  | _ => none

/-- The class M0 row of the opcode map (R186). A reserved variant decodes as the first variant of its opcode, whose fields it then breaks. -/
def mkM0 (opc : Nat) (h : Hdr) (w : BitVec 80) : Option Instr :=
  match opc with
  | 0x00 => some (.trd h (tapOf w))
  | 0x01 => some (.trdw h (tapOf w))
  | 0x02 => some (.twr h (tapOf w))
  | 0x03 => some (.twra h (tapOf w))
  | 0x04 => some (.thist h (tapOf w))
  | 0x05 => some (.tsig h (tapOf w))
  | _ => none

/-- The class M1 row of the opcode map (R186). A reserved variant decodes as the first variant of its opcode, whose fields it then breaks. -/
def mkM1 (opc : Nat) (h : Hdr) (w : BitVec 80) : Option Instr :=
  match opc with
  | 0x00 => some (.ld h (memOf w))
  | 0x01 => some (.st h (memOf w))
  | 0x02 => some (.lds h (memOf w))
  | 0x03 => some (.sts h (memOf w))
  | 0x04 => some (.ldg h (memOf w))
  | 0x05 => some (.stg h (memOf w))
  | 0x06 => some (.ldb h (memOf w))
  | _ => none

/-- The class C row of the opcode map (R186). A reserved variant decodes as the first variant of its opcode, whose fields it then breaks. -/
def mkC (opc : Nat) (h : Hdr) (w : BitVec 80) : Option Instr :=
  match opc with
  | 0x00 => some (.scld h (sclOf w))
  | 0x01 => some (.scset h (sclOf w))
  | 0x02 => some (.scmov h (sclOf w))
  | 0x03 => some (.setfmt h (sclOf w))
  | _ => none

/-- The class A row of the opcode map (R186). A reserved variant decodes as the first variant of its opcode, whose fields it then breaks. -/
def mkA (opc : Nat) (h : Hdr) (w : BitVec 80) : Option Instr :=
  match opc with
  | 0x00 => some (.mma h (arrOf w))
  | 0x01 => some (.mmac h (arrOf w))
  | 0x02 => some (.ldw h (arrOf w))
  | 0x03 => some (.accrd h (arrOf w))
  | 0x04 => some (.accwr h (arrOf w))
  | 0x05 => some (.accclr h (arrOf w))
  | 0x06 => some (if (arrOf w).imm23 = 0 then .mmodeAlt h (arrOf w) else .mmodeExcl h (arrOf w))
  | _ => none

/-- The class E row of the opcode map (R186). A reserved variant decodes as the first variant of its opcode, whose fields it then breaks. -/
def mkE (opc : Nat) (h : Hdr) (w : BitVec 80) : Option Instr :=
  match opc with
  | 0x00 => some (match (ecmdOf w).sub.toNat with
    | 1 => .cpyS2d h (ecmdOf w)
    | 2 => .cpyD2d h (ecmdOf w)
    | 3 => .cpyS2s h (ecmdOf w)
    | 4 => .cpyD2t h (ecmdOf w)
    | 5 => .cpyD2sz h (ecmdOf w)
    | 6 => .cpyS2sz h (ecmdOf w)
    | _ => .cpyD2s h (ecmdOf w))
  | 0x01 => some (.cpym h (ecmdOf w))
  | 0x02 => some (if (ememOf w).pr then .lddP h (ememOf w) else .ldd h (ememOf w))
  | 0x03 => some (.lddAcq h (ememOf w))
  | 0x04 => some (.std h (ememOf w))
  | 0x05 => some (.stdRel h (ememOf w))
  | 0x06 => some (match (ememOf w).sub.toNat with
    | 1 => .atomAnd h (ememOf w)
    | 2 => .atomOr h (ememOf w)
    | 3 => .atomXor h (ememOf w)
    | 4 => .atomMin h (ememOf w)
    | 5 => .atomMax h (ememOf w)
    | 6 => .atomSwp h (ememOf w)
    | 7 => .atomCas h (ememOf w)
    | _ => .atomAdd h (ememOf w))
  | 0x07 => some (.cas128 h (ememOf w))
  | 0x08 => some (.adec h (ecmdOf w))
  | 0x09 => some (.plDec h (ecmdOf w))
  | 0x0A => some (match (ecmdOf w).sub.toNat with
    | 1 => .plAndDocs h (ecmdOf w)
    | _ => .plAnd h (ecmdOf w))
  | 0x0B => some (match (ecmdOf w).sub.toNat with
    | 1 => .plOrDocs h (ecmdOf w)
    | _ => .plOr h (ecmdOf w))
  | 0x0C => some (.plFuse h (ecmdOf w))
  | 0x0D => some (match (ecmdOf w).sub.toNat with
    | 1 => .launchDone h (ecmdOf w)
    | _ => .launchAcc h (ecmdOf w))
  | 0x0E => some (.tagclr h (ecmdOf w))
  | _ => none

/-- Why a syllable is no instruction (R180): reason 2 or 3. -/
inductive Reject where
  /-- a reserved CLASS -/
  | reservedClass
  /-- an OPCODE not in the map of its class -/
  | reservedOpcode
deriving DecidableEq, Repr

/-- The instruction a syllable names, before its fields are checked (R182, R186). -/
def nameSyllable (w : Syllable) : Except Reject Instr :=
  let cls := (w.extractLsb' 123 4).toNat
  let opc := (w.extractLsb' 115 8).toNat
  let h := hdrOf (w.getLsbD 127) (w.extractLsb' 80 35)
  let b := w.extractLsb' 0 80
  let r := match cls with
    | 0 => some (mkS opc h b)
    | 1 => some (mkV opc h b)
    | 2 => some (mkF opc h b)
    | 3 => some (mkD opc h b)
    | 4 => some (mkT opc h b)
    | 5 => some (mkM0 opc h b)
    | 6 => some (mkM1 opc h b)
    | 7 => some (mkC opc h b)
    | 8 => some (mkA opc h b)
    | 9 => some (mkE opc h b)
    | _ => none
  match r with
  | none => .error .reservedClass
  | some none => .error .reservedOpcode
  | some (some i) => .ok i

/-! ### Field checks -/

/-- The field holds a value below `n`. -/
def lt {w : Nat} (x : BitVec w) (n : Nat) : Bool := decide (x.toNat < n)

/-- SBI, STALL and CMASK as R167, R172 and R179 require. -/
def hdrOk (h : Hdr) (mask : Bool) : Bool := (h.sbv || lt h.sbi 1) && (h.stop || lt h.stall 1) && (if mask then !(lt h.cmask 1) else lt h.cmask 1)

/-- The CMASK names exactly one cluster (R268, R336). -/
def oneCluster (h : Hdr) : Bool := popCount 8 h.cmask.toNat == 1

/-- FMT zero: the instruction takes no format (R80). -/
def noFmt (h : Hdr) : Bool := lt h.fmt 1

/-- A format of the set and a MODE of the list (R80). -/
def fmtIs (h : Hdr) (p : Fmt → Bool) (modes : List Nat) : Bool :=
  match fmtOf (fcodeOf h.fmt) with
  | some f => p f && modes.contains (modeOf h.fmt)
  | none => false

/-- D, A, C, SUB below their limits, no reserved bit (R183); a limit of 1 means unused and zero. -/
def regOk (o : LReg) (d a c sub : Nat) : Bool := lt o.d d && lt o.a a && lt o.c c && lt o.sub sub && lt o.rsv 1

/-- The B operand: an accepted BSEL, B within its file, IMM zero unless BSEL is 0b10 (R183). -/
def bOk (o : LReg) (sels : List Nat) (blim : Nat) (immOk : Bool) : Bool :=
  sels.contains o.bsel.toNat && (match o.bsel.toNat with
    | 0 => lt o.b blim && lt o.imm 1
    | 1 => lt o.imm 1
    | 2 => lt o.b 1 && immOk
    | _ => false)

/-- No B operand. -/
def noB (o : LReg) : Bool := bOk o [0] 1 false

/-- A 32-bit immediate lane word (R257). -/
def imm32 (o : LReg) : Bool := lt (o.imm.extractLsb' 32 8) 1

/-- Class S fields: no CMASK, no KM (R179, R204). -/
def sOk (h : Hdr) (o : LReg) (d a c sub : Nat) : Bool := hdrOk h false && lt o.km 1 && regOk o d a c sub

/-- Fields of a V, F, D or T syllable with CMASK. -/
def vOk (h : Hdr) (o : LReg) (d a c sub : Nat) : Bool := hdrOk h true && regOk o d a c sub

def isFltInt (f : Fmt) : Bool := f.isFlt || f.isInt
def isFltIntQ (f : Fmt) : Bool := f.isFlt || f.isInt || f == .q
def isElem (f : Fmt) : Bool := f.isFlt || f.isInt || f.isE8
def anyFmt (_ : Fmt) : Bool := true
def isIntAny (f : Fmt) : Bool := match f with
  | .int _ _ => true
  | _ => false

/-- Every format CVT takes (R299): those of R258, binary8 and the MX elements. -/
def isCvt (f : Fmt) : Bool := match f with
  | .int w _ => w ≤ 32
  | _ => true

/-- Formats of fixed width (all but .q) give the ratio and its limit on the part (R299). -/
def partOk (src dst : Fmt) (p : Nat) : Bool :=
  let q : QFmt := { w := 8, sg := true, rsv := false, subst := 0 }
  if src == .q || dst == .q then true
  else
    let ns := src.perLane q
    let nd := dst.perLane q
    decide (p < max ns nd / min ns nd)

/-- Element count per lane word of a fixed format. -/
def perWord (h : Hdr) : Nat :=
  match fmtOf (fcodeOf h.fmt) with
  | some f => f.perLane { w := 8, sg := true, rsv := false, subst := 0 }
  | none => 1

/-- A front configuration word that R332 allows. -/
def frontCfgOk (c : BitVec 40) : Bool :=
  let x := c.toNat
  let ar := bits x 1 0 + 1
  decide (bits x 39 27 = 0) && decide (bits x 20 19 < 3) && (List.range 4).all fun j =>
    decide (bits x (3 + 2 * j) (2 + 2 * j) < 3) && (decide (j < ar) || (decide (bits x (3 + 2 * j) (2 + 2 * j) = 0) && decide (bits x (11 + 2 * j) (10 + 2 * j) = 0)))

/-- The BCAST, EXTR and INS element index (R268). -/
def indexOk (h : Hdr) (o : LReg) : Bool := bOk o [1, 2] 1 (decide (o.imm.toNat < min 64 (16 * perWord h)))

/-- Register count of a TRANS block (R301). -/
def transRegs (h : Hdr) : Nat := if perWord h = 2 then 8 else 4

/-- Accumulator-read fields of ARR that MMA, MMAC and LDW share: scales only for an MX format (R288, R293). -/
def scalesOk (o : LArr) (f : Fmt) : Bool := if f.isMx then decide (o.sc.toNat + o.kst.toNat ≤ 15) else lt o.sc 1

/-- Integer against float operands of the array (R100). -/
def sameKind (a b : Fmt) : Bool := (a == .q) == (b == .q)

/-- A consumed-tag subfield is zero unless it is valid (R309). -/
def tagsOk (o : LEcmd) : Bool := (o.tcv.getLsbD 0 || lt o.tc0 1) && (o.tcv.getLsbD 1 || lt o.tc1 1) && (o.tcv.getLsbD 2 || lt o.tc2 1)

/-- Fields every command syllable shares (R315). -/
def cmdOk (h : Hdr) (o : LEcmd) : Bool := hdrOk h false && noFmt h && tagsOk o && lt o.rsv 1

/-- SZ equal to the width of an integer format (R311). -/
def szOk (h : Hdr) (o : LEmem) : Bool :=
  match fmtOf (fcodeOf h.fmt) with
  | some (.int w _) => decide (8 * 2 ^ o.sz.toNat = w)
  | _ => false

/-- Fields a scalar device-memory syllable shares (R311). -/
def ememOk (h : Hdr) (o : LEmem) (d a b scope ord sub : Nat) (pr : Bool) : Bool :=
  hdrOk h false && lt o.d d && lt o.a a && lt o.b b && lt o.scope scope && lt o.ord ord && decide (o.sub.toNat = sub) && (o.pr == pr) && lt o.rsv 1

def atomOk (h : Hdr) (o : LEmem) (b sub : Nat) : Bool := ememOk h o 64 64 b 5 4 sub false && fmtIs h Fmt.isScalar [0] && szOk h o

/-- CPY and CPYM end fields by direction (R316). -/
def cpyOk (h : Hdr) (o : LEcmd) (sub : Nat) : Bool :=
  cmdOk h o && decide (o.sub.toNat = sub) && (match sub with
    | 0 => lt o.rec1 1
    | 1 => lt o.rec2 1
    | 2 => lt o.rec1 1 && lt o.rec2 16
    | 3 => lt o.x 1
    | 4 => lt o.b 1 && lt o.rec1 1
    | 5 => lt o.rec1 1
    | 6 => lt o.x 1
    | _ => false)

/-- CPYM takes SUB 0 to 3 (R317). -/
def cpymOk (h : Hdr) (o : LEcmd) : Bool := lt o.sub 4 && cpyOk h o o.sub.toNat

/-- Lag fields of TRD, TWR and TWRA (R237). -/
def lagOk (o : LTap) : Bool := lt o.rsv 1 && lt o.lagb 1 && (if o.lr then lt o.lag 1 else lt o.lreg 1)

/-- Window fields of TRDW (R237). -/
def windowOk (o : LTap) : Bool :=
  lt o.rsv 1 && (if o.lr then lt o.lag 1 && lt o.lagb 16 && decide (o.d.toNat + o.lagb.toNat ≤ 63)
    else lt o.lreg 1 && decide (o.lag.toNat ≤ o.lagb.toNat ∧ o.lagb.toNat - o.lag.toNat ≤ 15 ∧ o.d.toNat + (o.lagb.toNat - o.lag.toNat) ≤ 63))

/-- Offset fields of an M1 syllable with an immediate, scalar or loop-stream offset (R247). -/
def offOk (o : LMem) : Bool :=
  lt o.rsv 1 && lt o.offm 3 && (decide (o.offm.toNat = 1) || lt o.o 1) && (decide (o.offm.toNat = 2) || lt o.nest 1)

/-- Formats and scales of MMA and MMAC (R288). -/
def arrFmtOk (h : Hdr) (o : LArr) : Bool :=
  match fmtOf (fcodeOf h.fmt), fmtOf o.bfmt with
  | some a, some b => b.isMatrix && sameKind a b && scalesOk o a
  | _, _ => false

/-- Source format and part of CVT and CVTQ (R299, R300). -/
def cvtOk (h : Hdr) (o : LReg) : Bool :=
  match fmtOf (fcodeOf h.fmt), fmtOf o.b with
  | some d, some s => isCvt s && partOk s d o.sub.toNat
  | _, _ => false

/-- Every field of the instruction holds a value its encoding allows: no reason 4 of R180 (R80, R148, R172, R179, R183, R204 to R235, R236, R247, R257 to R282, R288 to R306, R311 to R325, R336). The policy bytecodes and the events are well formed as they stand. DEDUCED (log 44). -/
def fieldsOk : Instr → Bool
  | .sAdd h o => sOk h o 64 64 1 1 && bOk o [0, 2] 64 true && fmtIs h Fmt.isScalar [0, 1]
  | .sSub h o => sOk h o 64 64 1 1 && bOk o [0, 2] 64 true && fmtIs h Fmt.isScalar [0, 1]
  | .sMul h o => sOk h o 64 64 1 1 && bOk o [0, 2] 64 true && fmtIs h Fmt.isScalar [0, 1]
  | .sMulh h o => sOk h o 64 64 1 1 && bOk o [0, 2] 64 true && fmtIs h Fmt.isScalar [0]
  | .sDiv h o => sOk h o 64 64 1 1 && bOk o [0, 2] 64 true && fmtIs h Fmt.isScalar [0, 1]
  | .sRem h o => sOk h o 64 64 1 1 && bOk o [0, 2] 64 true && fmtIs h Fmt.isScalar [0]
  | .sMin h o => sOk h o 64 64 1 1 && bOk o [0, 2] 64 true && fmtIs h Fmt.isScalar [0]
  | .sMax h o => sOk h o 64 64 1 1 && bOk o [0, 2] 64 true && fmtIs h Fmt.isScalar [0]
  | .sAnd h o => sOk h o 64 64 1 1 && bOk o [0, 2] 64 true && noFmt h
  | .sOr h o => sOk h o 64 64 1 1 && bOk o [0, 2] 64 true && noFmt h
  | .sXor h o => sOk h o 64 64 1 1 && bOk o [0, 2] 64 true && noFmt h
  | .sAndn h o => sOk h o 64 64 1 1 && bOk o [0, 2] 64 true && noFmt h
  | .sShl h o => sOk h o 64 64 1 1 && bOk o [0, 2] 64 true && fmtIs h Fmt.isScalar [0]
  | .sShr h o => sOk h o 64 64 1 1 && bOk o [0, 2] 64 true && fmtIs h Fmt.isScalar [0]
  | .sSra h o => sOk h o 64 64 1 1 && bOk o [0, 2] 64 true && fmtIs h Fmt.isScalar [0]
  | .sRot h o => sOk h o 64 64 1 1 && bOk o [0, 2] 64 true && fmtIs h Fmt.isScalar [0]
  | .sClz h o => sOk h o 64 64 1 1 && noB o && fmtIs h Fmt.isScalar [0]
  | .sPopc h o => sOk h o 64 64 1 1 && noB o && fmtIs h Fmt.isScalar [0]
  | .sCmp h o => sOk h o 64 64 1 6 && bOk o [0, 2] 64 true && fmtIs h Fmt.isScalar [0]
  | .sSel h o => sOk h o 64 64 64 1 && bOk o [0, 2] 64 true && noFmt h
  | .bfx h o => sOk h o 64 64 1 1 && bOk o [0, 2] 64 true && fmtIs h (fun f => f == .int 64 true || f == .int 64 false) [0]
  | .bfi h o => sOk h o 64 64 64 1 && bOk o [0, 2] 64 true && noFmt h
  | .liw h o => hdrOk h false && noFmt h && lt o.rsv 1
  | .mfsr h o => sOk h o 64 21 1 1 && noB o && noFmt h
  | .mtsr h o => sOk h o 19 64 1 1 && noB o && noFmt h && [3, 4, 5, 6, 7, 8, 9, 10, 11, 12, 14, 18].contains o.d.toNat
  | .mtq h o => sOk h o 16 64 1 1 && noB o && noFmt h
  | .mtqNull h o => sOk h o 16 1 1 2 && decide (o.sub.toNat = 1) && noB o && noFmt h
  | .mfq h o => sOk h o 64 16 1 1 && noB o && noFmt h
  | .mfqNull h o => sOk h o 64 16 1 2 && decide (o.sub.toNat = 1) && noB o && noFmt h
  | .nop h o => sOk h o 1 1 1 1 && noB o && noFmt h
  | .br h o => sOk h o 1 (if o.bsel.toNat = 2 then 1 else 64) 1 1 && bOk o [0, 2] 1 true && noFmt h
  | .brc h o => sOk h o 1 64 1 6 && decide (o.bsel.toNat = 0) && fmtIs h Fmt.isScalar [0]
  | .call h o => sOk h o 64 (if o.bsel.toNat = 2 then 1 else 64) 1 1 && bOk o [0, 2] 1 true && noFmt h
  | .ret h o => sOk h o 1 64 1 1 && noB o && noFmt h
  | .loop h o => sOk h o 1 1 1 1 && bOk o [2] 1 (lt (o.imm.extractLsb' 14 26) 1) && noFmt h
  | .waitany h o => sOk h o 64 64 1 1 && noB o && noFmt h
  | .waitall h o => sOk h o 64 64 1 1 && noB o && noFmt h
  | .ffr h o => sOk h o 64 64 1 1 && noB o && noFmt h
  | .tick h o => sOk h o 1 1 1 1 && noB o && noFmt h
  | .phase h o => sOk h o 1 1 1 1 && noB o && noFmt h
  | .next h o => sOk h o 16 1 1 1 && noB o && noFmt h
  | .grow h o => sOk h o 64 1 64 1 && bOk o [0, 2] 64 true && noFmt h
  | .exit h o => sOk h o 1 1 1 1 && noB o && noFmt h
  | .trap h o => sOk h o 1 1 1 1 && bOk o [2] 1 (lt (o.imm.extractLsb' 16 24) 1) && noFmt h
  | .rte h o => sOk h o 1 1 1 1 && noB o && noFmt h
  | .iflush h o => sOk h o 1 1 1 1 && noB o && noFmt h
  | .setfmt h o => hdrOk h false && noFmt h && lt o.sc 1 && lt o.rcd 1 && lt o.o 1 && lt o.imm23 1 && lt o.rsv 1
  | .trd h o => hdrOk h true && fmtIs h anyFmt [0] && lagOk o
  | .trdw h o => hdrOk h true && fmtIs h anyFmt [0] && windowOk o
  | .twr h o => hdrOk h true && fmtIs h anyFmt [0] && lagOk o
  | .twra h o => hdrOk h true && fmtIs h isFltIntQ [0, 1, 2, 3] && lagOk o
  | .thist h o => hdrOk h false && noFmt h && lt o.vec 1 && !o.lr && lt o.lreg 1 && lt o.lag 1 && lt o.lagb 1 && lt o.rsv 1
  | .tsig h o => hdrOk h false && noFmt h && lt o.vec 1 && !o.lr && lt o.lreg 1 && lt o.lag 1 && lt o.lagb 1 && lt o.rsv 1
  | .ld h o => hdrOk h true && fmtIs h anyFmt [0] && offOk o
  | .st h o => hdrOk h true && fmtIs h anyFmt [0] && offOk o
  | .lds h o => hdrOk h false && fmtIs h isIntAny [0] && offOk o && lt o.km 1
  | .sts h o => hdrOk h false && fmtIs h isIntAny [0] && offOk o && lt o.km 1
  | .ldg h o => hdrOk h true && fmtIs h anyFmt [0] && decide (o.offm.toNat = 3) && lt o.nest 1 && lt o.rsv 1
  | .stg h o => hdrOk h true && fmtIs h anyFmt [0] && decide (o.offm.toNat = 3) && lt o.nest 1 && lt o.rsv 1
  | .ldb h o => hdrOk h false && noFmt h && lt o.offm 1 && lt o.o 1 && lt o.nest 1 && lt o.km 1 && lt o.imm23 4 && lt o.rsv 1
  | .vAdd h o => vOk h o 64 64 1 1 && bOk o [0, 1, 2] 64 (imm32 o) && fmtIs h isFltIntQ [0, 1, 2, 3]
  | .vSub h o => vOk h o 64 64 1 1 && bOk o [0, 1, 2] 64 (imm32 o) && fmtIs h isFltIntQ [0, 1, 2, 3]
  | .vMul h o => vOk h o 64 64 1 1 && bOk o [0, 1, 2] 64 (imm32 o) && fmtIs h isFltIntQ [0, 1, 2, 3]
  | .vMulh h o => vOk h o 64 64 1 1 && bOk o [0, 1, 2] 64 (imm32 o) && fmtIs h Fmt.isInt [0]
  | .fma h o => vOk h o 64 64 64 1 && bOk o [0, 1, 2] 64 (imm32 o) && fmtIs h isFltInt [0, 1, 2, 3]
  | .fms h o => vOk h o 64 64 64 1 && bOk o [0, 1, 2] 64 (imm32 o) && fmtIs h isFltInt [0, 1, 2, 3]
  | .vMin h o => vOk h o 64 64 1 1 && bOk o [0, 1, 2] 64 (imm32 o) && fmtIs h isFltIntQ [0]
  | .vMax h o => vOk h o 64 64 1 1 && bOk o [0, 1, 2] 64 (imm32 o) && fmtIs h isFltIntQ [0]
  | .abs h o => vOk h o 64 64 1 1 && noB o && (fmtIs h Fmt.isFlt [0] || fmtIs h Fmt.isInt [0, 1, 2, 3])
  | .neg h o => vOk h o 64 64 1 1 && noB o && (fmtIs h Fmt.isFlt [0] || fmtIs h Fmt.isInt [0, 1, 2, 3])
  | .absd h o => vOk h o 64 64 1 1 && bOk o [0, 1, 2] 64 (imm32 o) && fmtIs h isFltIntQ [0, 1, 2, 3]
  | .vAnd h o => vOk h o 64 64 1 1 && bOk o [0, 1, 2] 64 (imm32 o) && noFmt h
  | .vOr h o => vOk h o 64 64 1 1 && bOk o [0, 1, 2] 64 (imm32 o) && noFmt h
  | .vXor h o => vOk h o 64 64 1 1 && bOk o [0, 1, 2] 64 (imm32 o) && noFmt h
  | .vAndn h o => vOk h o 64 64 1 1 && bOk o [0, 1, 2] 64 (imm32 o) && noFmt h
  | .vShl h o => vOk h o 64 64 1 1 && bOk o [0, 1, 2] 64 (imm32 o) && fmtIs h Fmt.isInt [0]
  | .vShr h o => vOk h o 64 64 1 1 && bOk o [0, 1, 2] 64 (imm32 o) && fmtIs h Fmt.isInt [0]
  | .vSra h o => vOk h o 64 64 1 1 && bOk o [0, 1, 2] 64 (imm32 o) && fmtIs h Fmt.isInt [0]
  | .vClz h o => vOk h o 64 64 1 1 && noB o && fmtIs h Fmt.isInt [0]
  | .vPopc h o => vOk h o 64 64 1 1 && noB o && fmtIs h Fmt.isInt [0]
  | .vCmp h o => vOk h o 8 64 1 16 && !(lt o.d 1) && decide (o.sub.toNat % 8 ≠ 7) && bOk o [0, 1, 2] 64 (imm32 o) && fmtIs h isFltIntQ [0]
  | .vSel h o => vOk h o 64 64 8 1 && bOk o [0, 1, 2] 64 (imm32 o) && noFmt h
  | .mov h o => vOk h o 64 (if o.bsel.toNat = 0 then 64 else 1) 1 1 && bOk o [0, 1, 2] 1 (imm32 o) && noFmt h
  | .bcast h o => vOk h o 64 64 1 1 && indexOk h o && fmtIs h isElem [0]
  | .extr h o => vOk h o 64 64 1 1 && indexOk h o && lt o.km 1 && oneCluster h && fmtIs h isElem [0]
  | .ins h o => vOk h o 64 64 1 1 && indexOk h o && lt o.km 1 && fmtIs h isElem [0]
  | .perm h o => vOk h o 64 64 1 4 && (if o.sub.toNat = 0 then bOk o [0] 64 false else bOk o [1, 2] 1 (imm32 o)) && noFmt h
  | .iota h o => vOk h o 64 1 1 1 && bOk o [1, 2] 1 (imm32 o) && fmtIs h Fmt.isInt [0, 1, 2, 3]
  | .kand h o => vOk h o 8 8 1 1 && !(lt o.d 1) && bOk o [0] 8 false && lt o.km 1 && noFmt h
  | .kor h o => vOk h o 8 8 1 1 && !(lt o.d 1) && bOk o [0] 8 false && lt o.km 1 && noFmt h
  | .kxor h o => vOk h o 8 8 1 1 && !(lt o.d 1) && bOk o [0] 8 false && lt o.km 1 && noFmt h
  | .knot h o => vOk h o 8 8 1 1 && !(lt o.d 1) && noB o && lt o.km 1 && noFmt h
  | .kpopc h o => vOk h o 64 8 1 1 && noB o && lt o.km 1 && noFmt h
  | .ktail h o => vOk h o 8 1 1 2 && !(lt o.d 1) && bOk o [1, 2] 1 (imm32 o) && lt o.km 1 && noFmt h
  | .exp2 h o => vOk h o 64 64 1 1 && noB o && fmtIs h Fmt.isFlt [0, 1]
  | .log2 h o => vOk h o 64 64 1 1 && noB o && fmtIs h Fmt.isFlt [0, 1]
  | .rcp h o => vOk h o 64 64 1 1 && noB o && fmtIs h Fmt.isFlt [0, 1]
  | .rsqrt h o => vOk h o 64 64 1 1 && noB o && fmtIs h Fmt.isFlt [0, 1]
  | .sqrt h o => vOk h o 64 64 1 1 && noB o && fmtIs h Fmt.isFlt [0, 1]
  | .tanh h o => vOk h o 64 64 1 1 && noB o && fmtIs h Fmt.isFlt [0, 1]
  | .sigm h o => vOk h o 64 64 1 1 && noB o && fmtIs h Fmt.isFlt [0, 1]
  | .erf h o => vOk h o 64 64 1 1 && noB o && fmtIs h Fmt.isFlt [0, 1]
  | .sin h o => vOk h o 64 64 1 1 && noB o && fmtIs h Fmt.isFlt [0, 1]
  | .cos h o => vOk h o 64 64 1 1 && noB o && fmtIs h Fmt.isFlt [0, 1]
  | .rsum h o => vOk h o 4 64 1 1 && noB o && fmtIs h isFltInt [0, 1]
  | .rmax h o => vOk h o 4 64 1 1 && noB o && fmtIs h isFltInt [0]
  | .rmin h o => vOk h o 4 64 1 1 && noB o && fmtIs h isFltInt [0]
  | .rminidx h o => vOk h o 3 64 1 1 && decide (o.d.toNat ≠ 1) && bOk o [1, 2] 1 (imm32 o) && fmtIs h isFltInt [0]
  | .rabsmax h o => vOk h o 1 64 1 1 && noB o && fmtIs h Fmt.isFlt [0]
  | .rdrain h o => vOk h o 64 4 1 6 && noB o && (match o.sub.toNat with
      | 0 => noFmt h
      | 1 => fmtIs h Fmt.isWord32 [0, 1]
      | n => fmtIs h Fmt.isWord32 [0] && (decide (n < 4) || decide (o.a.toNat % 2 = 0)))
  | .rclr h o => hdrOk h false && regOk o 4 1 1 4 && noB o && lt o.km 1 && (match o.sub.toNat with
      | 0 => noFmt h
      | n => fmtIs h Fmt.isWord32 [0] && (decide (n ≠ 3) || decide (o.d.toNat % 2 = 0)))
  | .part h o => vOk h o 64 64 64 8 && !(lt o.sub 1) && decide (o.d.toNat + o.sub.toNat ≤ 63) && bOk o [1, 2] 1 (imm32 o) && noFmt h
  | .fcfg h o => hdrOk h false && regOk o 8 1 1 1 && bOk o [1, 2] 1 (frontCfgOk o.imm) && lt o.km 1 && noFmt h
  | .fins h o => vOk h o 8 62 1 1 && noB o && oneCluster h && noFmt h
  | .fmerge h o => hdrOk h false && regOk o 8 8 1 1 && bOk o [0] 8 false && lt o.km 1 && noFmt h
  | .fpeel h o => vOk h o 62 8 1 1 && bOk o [1, 2] 1 (imm32 o) && oneCluster h && noFmt h
  | .fcnt h o => hdrOk h false && regOk o 64 8 1 1 && noB o && lt o.km 1 && noFmt h
  | .fclr h o => hdrOk h false && regOk o 8 1 1 1 && noB o && lt o.km 1 && noFmt h
  | .fclrAll h o => hdrOk h false && regOk o 8 1 1 2 && decide (o.sub.toNat = 1) && noB o && lt o.km 1 && noFmt h
  | .fsave h o => hdrOk h false && regOk o 1 64 1 1 && lt o.b 8 && lt o.bsel 1 && lt (o.imm.extractLsb' 31 9) 1 && lt o.km 1 && noFmt h
  | .fload h o => hdrOk h false && regOk o 8 64 1 1 && lt o.b 1 && lt o.bsel 1 && lt (o.imm.extractLsb' 31 9) 1 && lt o.km 1 && noFmt h
  | .mma h o => hdrOk h false && fmtIs h Fmt.isMatrix [0, 1] && lt o.kst 8 && lt o.ms 1 && lt o.rsv 1 && arrFmtOk h o &&
      (match o.srck.toNat with
      | 0 => true
      | 1 => lt o.o 1 && lt (o.imm23.extractLsb' 16 7) 1
      | _ => false)
  | .mmac h o => hdrOk h false && fmtIs h Fmt.isMatrix [0, 1] && lt o.kst 8 && lt o.rsv 1 && arrFmtOk h o && decide (o.srck.toNat = 2) &&
      lt o.rcd 1 && lt o.o 1 && lt o.imm23 1 && decide (o.ms ≠ o.mt)
  | .ldw h o => hdrOk h false && fmtIs h Fmt.isMatrix [0] && lt o.kst 8 && lt o.rsv 1 && lt o.mt 1 && lt o.srck 1 && lt o.bfmt 1 && lt o.ms 1 &&
      (match fmtOf (fcodeOf h.fmt) with
      | some f => scalesOk o f
      | none => false)
  | .accrd h o => hdrOk h true && noFmt h && lt o.rcd 64 && lt o.srck 1 && lt o.kst 1 && lt o.bfmt 1 && lt o.sc 1 && lt o.ms 1 && lt o.rsv 1
  | .accwr h o => hdrOk h true && noFmt h && lt o.rcd 64 && lt o.srck 1 && lt o.kst 1 && lt o.bfmt 1 && lt o.sc 1 && lt o.ms 1 && lt o.rsv 1
  | .accclr h o => hdrOk h false && noFmt h && lt o.rcd 1 && lt o.o 1 && lt o.imm23 1 && lt o.srck 1 && lt o.kst 1 && lt o.bfmt 1 && lt o.sc 1 && lt o.ms 1 && lt o.rsv 1
  | .mmodeExcl h o => hdrOk h false && noFmt h && decide (o.imm23.toNat = 1) && lt o.mt 1 && lt o.rcd 1 && lt o.o 1 && lt o.srck 1 && lt o.kst 1 && lt o.bfmt 1 && lt o.sc 1 && lt o.ms 1 && lt o.rsv 1
  | .mmodeAlt h o => hdrOk h false && noFmt h && decide (o.imm23.toNat = 0) && lt o.mt 1 && lt o.rcd 1 && lt o.o 1 && lt o.srck 1 && lt o.kst 1 && lt o.bfmt 1 && lt o.sc 1 && lt o.ms 1 && lt o.rsv 1
  | .scld h o => hdrOk h false && noFmt h && lt o.a 1 && lt o.rsv 1
  | .scset h o => hdrOk h false && noFmt h && lt o.rcd 1 && lt o.rsv 1
  | .scmov h o => hdrOk h false && noFmt h && lt o.a 1 && lt o.rcd 1 && lt o.o 1 && lt o.imm23 16 && lt o.rsv 1
  | .cvt h o => vOk h o 64 64 1 16 && lt o.bsel 1 && lt o.imm 1 && fmtIs h isCvt [0, 1, 2, 3] && cvtOk h o
  | .cvtq h o => vOk h o 64 64 64 16 && lt o.bsel 1 && lt o.imm 1 && fmtIs h Fmt.isMx [0, 1, 2, 3] && cvtOk h o && (match fmtOf o.b with
      | some f => f.isFlt
      | none => false)
  | .trans h o => vOk h o (65 - transRegs h) (65 - transRegs h) 1 1 && noB o && fmtIs h isElem [0]
  | .xcl h o => vOk h o 64 64 1 3 && bOk o (if o.sub.toNat = 2 then [1] else [1, 2]) 1 (imm32 o) && noFmt h
  | .regroup h o => vOk h o 64 64 1 16 && lt (o.imm.extractLsb' 4 36) 1 && (if o.sub.toNat % 4 = 1 then decide (o.bsel.toNat = 1) else lt o.bsel 1 && lt o.b 1) &&
      fmtIs h isElem [0] && decide (perWord h % 2 ^ (o.sub.toNat / 4) = 0)
  | .pack h o => vOk h o 64 64 1 1 && noB o && noFmt h
  | .unpack h o => vOk h o 64 64 1 1 && noB o && noFmt h
  | .xbcast h o => vOk h o 64 16 1 1 && noB o && noFmt h
  | .ldd h o => ememOk h o 64 1 1 1 1 0 false && fmtIs h isIntAny [0] && szOk h o
  | .lddP h o => ememOk h o 64 1 1 1 1 0 true && fmtIs h isIntAny [0] && szOk h o
  | .lddAcq h o => ememOk h o 64 1 1 5 1 0 false && fmtIs h isIntAny [0] && szOk h o
  | .std h o => ememOk h o 1 64 1 1 1 0 false && fmtIs h isIntAny [0] && szOk h o
  | .stdRel h o => ememOk h o 1 64 1 5 1 0 false && fmtIs h isIntAny [0] && szOk h o
  | .atomAdd h o => atomOk h o 1 0
  | .atomAnd h o => atomOk h o 1 1
  | .atomOr h o => atomOk h o 1 2
  | .atomXor h o => atomOk h o 1 3
  | .atomMin h o => atomOk h o 1 4
  | .atomMax h o => atomOk h o 1 5
  | .atomSwp h o => atomOk h o 1 6
  | .atomCas h o => atomOk h o 64 7
  | .cas128 h o => ememOk h o 63 64 64 5 4 0 false && decide (o.d.toNat % 2 = 0) && noFmt h && decide (o.sz.toNat = 4)
  | .cpyD2s h o => cpyOk h o 0
  | .cpyS2d h o => cpyOk h o 1
  | .cpyD2d h o => cpyOk h o 2
  | .cpyS2s h o => cpyOk h o 3
  | .cpyD2t h o => cpyOk h o 4
  | .cpyD2sz h o => cpyOk h o 5
  | .cpyS2sz h o => cpyOk h o 6
  | .cpym h o => cpymOk h o
  | .adec h o => cmdOk h o && lt o.c 1 && lt o.x 1 && lt o.sub 1
  | .plDec h o => cmdOk h o && lt o.x 1 && lt o.sub 1
  | .plAnd h o => cmdOk h o && lt o.c 1 && lt o.x 1 && decide (o.sub.toNat = 0)
  | .plAndDocs h o => cmdOk h o && lt o.c 1 && lt o.x 1 && decide (o.sub.toNat = 1)
  | .plOr h o => cmdOk h o && lt o.c 1 && lt o.x 1 && decide (o.sub.toNat = 0)
  | .plOrDocs h o => cmdOk h o && lt o.c 1 && lt o.x 1 && decide (o.sub.toNat = 1)
  | .plFuse h o => cmdOk h o && lt o.c 1 && lt o.x 1 && lt o.sub 1
  | .launchAcc h o => cmdOk h o && lt o.c 1 && lt o.rec2 1 && lt o.x 1 && decide (o.sub.toNat = 0)
  | .launchDone h o => cmdOk h o && lt o.c 1 && lt o.rec2 1 && lt o.x 1 && decide (o.sub.toNat = 1)
  | .tagclr h o => cmdOk h o && lt o.c 1 && lt o.rec1 1 && lt o.rec2 1 && lt o.x 1 && lt o.tp 1 && lt o.tcv 1 && lt o.sub 1
  | _ => true

end Sys2Proof.Machine
end

