-- ==== Sys2Proof/Config.lean ====
section
/-! DEFINITION. What the manual leaves open: values with no body, of which nothing can be proved (log 4). -/
namespace Sys2Proof.Config

/-- The free values, one for each value of the free-value counter `draws` of the machine: latencies, orders and choices the manual does not fix (R115, R117, R128, R157, R176, R369). DESIGN CHOICE (log 4). -/
opaque freeNat : Nat → Nat

/-- The result an F syllable returns for an f32 destination where R274 fixes only a bound: a fixed function of the function's opcode, the input bits and the saturating MODE (R272). DESIGN CHOICE (log 4). DESIGN CHOICE (log 10). -/
opaque special : Nat → BitVec 32 → Bool → BitVec 32

/-- Whether a seam engine takes a permitted skip of the blocks at a document, for a query given as one number (R322): the manual lets it skip and makes the result the same on every run. DESIGN CHOICE (log 4). -/
opaque skips : Nat → Nat → Bool

/-- How many wall cycles a rebuild of a failed bank's granule waits for a bank cycle that another access holds, by CID and the wall cycle on which it first asks (R35): the manual does not say when one is held. DESIGN CHOICE (log 24). -/
opaque rebuildWait : Nat → Nat → Nat

/-- Does an RSA-4096 signature over a SHA-512 digest hold under the identity chain (R418)? The chain's keys are not in the manual. DESIGN CHOICE (log 4). -/
opaque rsaVerifies : BitVec 512 → List Byte → Bool

/-- The RSA-4096 signature made with the device's identity key (R418). DESIGN CHOICE (log 4). -/
opaque rsaSign : List Byte → List Byte

/-- The identity certificate chain (R418). DESIGN CHOICE (log 4). -/
opaque certificateChain : List Byte

end Sys2Proof.Config
end

