-- ==== Sys2Proof/Machine/Store.lean ====
section
/-! DEFINITION. Sparse stores of fixed-width words by number, the form in which the register files and on-chip memories are held: keys strictly rising, no word equal to zero, which is what an unlisted number reads as. -/
namespace Sys2Proof.Machine

/-- Words by number; an unlisted number holds zero. -/
abbrev Store (w : Nat) := List (Nat × BitVec w)

/-- The word at `i`. -/
def Store.get {w : Nat} : Store w → Nat → BitVec w
  | [], _ => 0
  | (j, v) :: st, i => if j = i then v else Store.get st i

/-- The store with the entry for `i` removed. -/
def Store.del {w : Nat} : Store w → Nat → Store w
  | [], _ => []
  | (j, v) :: st, i => if j = i then Store.del st i else (j, v) :: Store.del st i

/-- Put a nonzero word in its place in the order. -/
def Store.add {w : Nat} : Store w → Nat → BitVec w → Store w
  | [], i, x => [(i, x)]
  | (j, v) :: st, i, x => if i < j then (i, x) :: (j, v) :: st else (j, v) :: Store.add st i x

/-- Write `x` at `i`; writing zero removes the entry, so that equal contents are equal data. -/
def Store.set {w : Nat} (st : Store w) (i : Nat) (x : BitVec w) : Store w :=
  if x = 0 then st.del i else (st.del i).add i x

/-- Several writes, the last one of a number winning. -/
def Store.setAll {w : Nat} : List (Nat × BitVec w) → Store w → Store w
  | [], st => st
  | (i, x) :: ws, st => Store.setAll ws (st.set i x)

/-- The canonical form: keys strictly rising, no zero word. -/
def Store.wf {w : Nat} : Store w → Bool
  | [] => true
  | [(_, v)] => v != 0
  | (i, v) :: (j, u) :: st => v != 0 && decide (i < j) && Store.wf ((j, u) :: st)

/-- The `n` words from `i`. -/
def Store.block {w : Nat} (st : Store w) (i n : Nat) : List (BitVec w) := (List.range n).map fun k => st.get (i + k)

/-- Bytes at consecutive numbers from `i`. -/
def withKeys {w : Nat} (i : Nat) : List (BitVec w) → List (Nat × BitVec w)
  | [] => []
  | x :: xs => (i, x) :: withKeys (i + 1) xs

/-- Keep only the entries whose number satisfies `p`. -/
def Store.keep {w : Nat} (st : Store w) (p : Nat → Bool) : Store w := st.filter fun e => p e.1

end Sys2Proof.Machine
end

