-- ==== Sys2Proof/Machine/State.lean ====
section
/-! DEFINITION. The state of the package: stream cores, scheduler and functions, device memory, host side, and reset. -/
namespace Sys2Proof.Machine

/-! ### Fronts, latches and results in flight -/

/-- A front tuple (R331). -/
structure Tuple where
  o0 : BitVec 16
  o1 : BitVec 16
  o2 : BitVec 16
  o3 : BitVec 16
  payload : BitVec 32
deriving DecidableEq, Repr

/-- A front register: configuration word or none, entries oldest first (their ages), rejected and evicted counts (R331). -/
structure Front where
  cfg : Option (BitVec 40)
  es : List Tuple
  rej : BitVec 16
  evi : BitVec 16
deriving DecidableEq, Repr

/-- How the 32-bit words of a latch are read (R276). -/
inductive WordKind where
  | f32
  | s32
  | n32
deriving DecidableEq, Repr

/-- The combination a latch update makes (R276, R277). -/
inductive LatchOp where
  | sum (k : WordKind) (sat : Bool)
  | max (k : WordKind)
  | min (k : WordKind)
  | minIdx (k : WordKind)
deriving DecidableEq, Repr

/-- A change of a front, applied on its landing cycle (R343). -/
inductive FrontOp where
  | config (w : BitVec 40)
  | clear (unconfigure : Bool)
  /-- tuples with their core-wide lane numbers -/
  | insert (ts : List (Nat × Tuple))
  /-- the merged front, and whether the merge overflowed (R339) -/
  | replace (f : Front) (overflowed : Bool)
  | load (cfg : Option (BitVec 40)) (rej evi : BitVec 16) (es : List Tuple)
deriving DecidableEq, Repr

/-- What a result in flight does when it lands (R173, R185). Register numbers are physical. -/
inductive Eff where
  | sreg (n : Nat) (v : Word)
  /-- words of cluster registers by key (see `vkey`) -/
  | vecs (ws : List (Nat × Lane))
  /-- bits of words of cluster registers: key, mask, value -/
  | vecBits (ws : List (Nat × Lane × Lane))
  /-- bits of a mask register selected by `mask` -/
  | kbits (n : Nat) (mask val : BitVec 128)
  | qreg (n : Nat) (null : Bool) (v : Word)
  /-- a special register by its number in R184 -/
  | sys (n : Nat) (v : Word)
  /-- a latch update: for each lane, its active inputs with their indices -/
  | latch (l : Nat) (op : LatchOp) (ins : List (List (Lane × Lane)))
  | latchSet (l : Nat) (v : Lane)
  | bypass (ws : List Lane)
  | front (n : Nat) (op : FrontOp)
  | acc (ws : List (Nat × Lane))
  | accClear (t : Nat)
  /-- K-step `t` of row block `g` of an array job (R287) -/
  | commit (job t g : Nat)
  | tapWrite (sig : Nat) (ws : List (Nat × Lane))
  /-- TWRA: word number, operand word and the draws of its elements -/
  | tapAdd (sig : Nat) (f : Fmt) (q : QFmt) (mode : Nat) (ws : List (Nat × Lane × List Nat))
  /-- the core's own scratchpad store -/
  | store (ws : List (Nat × Byte))
  | scale (ws : List (Nat × Byte))
  /-- a scoreboard decrement (R174) -/
  | sb (n : Nat)
  | mmode
  /-- a NEXT not yet served, into a physical q register (R156) -/
  | nextWait (phys : Nat)
  /-- a NEXT that has received identifier number `k` of its task's range -/
  | nextDone (phys k : Nat) (v : Word)
  /-- a GROW not yet served (R225) -/
  | growWait (d c : Nat) (amount : Word)
  /-- one that has been served, and by how much it has raised the count -/
  | growDone (d c : Nat) (bound refused : Word) (raised : Nat)
deriving DecidableEq, Repr

/-- The data of a promised load (R63): the wall cycle at which it arrives, and the access for a timeout (R64). `arrived` says that its arrival during a freeze has been noted. -/
structure Promise where
  arrive : Nat
  arrived : Bool
  /-- held on a migrating page or a run re-walk: its freeze is not counted (R234) -/
  held : Bool
  /-- its page no longer satisfies R59, so that it takes the memory-timeout fault at its cycle (R71) -/
  failed : Bool
  /-- extent and offset as TVAL names them (R62), and the load's position in its group (R380) -/
  xo : Word
  pos : Nat
  /-- bytes it reads -/
  n : Nat
deriving DecidableEq, Repr

/-- A fixed-latency result in flight (R173): due schedule cycle, or offset k while it is held (R374), issue order, effect. -/
structure Flight where
  due : Nat
  seq : Nat
  eff : Eff
  late : Option Promise
deriving DecidableEq, Repr

/-- A SETFMT write counted in committing groups (R91). -/
structure FmtPend where
  left : Nat
  val : Word
deriving DecidableEq, Repr

/-! ### Traps and the group at issue -/

/-- A trap to be taken on the group at issue (R372). -/
structure Trap where
  code : Nat
  detail : Nat
  pos : Nat
  cls : Nat
  tval : Word
deriving DecidableEq, Repr

/-- Why a group does not issue on this cycle (R172, R234, R384). -/
inductive Hold where
  /-- a wait: the schedule cycle passes and BUDGET counts it -/
  | wait
  /-- a wait on an access under resolution: BUDGET does not count it (R65) -/
  | waitFree
  /-- a stall under R109 -/
  | ahead
  /-- a stall under R109 of a group that also waits on an access under resolution: BUDGET does not count it (R65) -/
  | aheadFree
  /-- a freeze that BUDGET counts (R35, R63) -/
  | freeze
  /-- the freeze of one cycle after a false REUSE claim, which BUDGET counts (R177) -/
  | claim
  /-- the freeze for a bank cycle that a rebuild needs, which BUDGET counts (R35) -/
  | rebuild
  /-- a freeze that BUDGET does not count (R71, R72, R234) -/
  | freezeFree
deriving DecidableEq, Repr

/-- What the group at issue has come to on this cycle. -/
inductive Mark where
  | running
  | closed
  | trapped (t : Trap)
  | held (k : Hold)
deriving DecidableEq, Repr

/-- An active or suspended loop-buffer nest (R160, R161): first body group, groups in the body, groups of this iteration already issued, bounds, the trapping group and the rotation offsets while suspended. -/
structure Nest where
  start : Va
  groups : Nat
  pos : Nat
  bounds : List Nat
  susp : Option Va
  rotw : Word
deriving DecidableEq, Repr

/-- The weight buffer (R293): FCODE of the last LDW, its KST, the FMTR copy, one bit string for each weight row, and the scales by K-step and column. -/
structure WBuf where
  fcode : Option (BitVec 6)
  kst : Nat
  fmtr : Word
  rows : List Nat
  scales : List (List Byte)
deriving DecidableEq, Repr

/-- The pending berm record (R41, R42). -/
structure Berm where
  count : Nat
  kind : Nat
  source : Nat
  member : Nat
  bank : Nat
  offset : Nat
deriving DecidableEq, Repr

/-- What a write of a TICK group that has not completed has replaced: the place, the CID of its sender, and what stood there (R108). -/
structure Replaced (w : Nat) where
  key : Nat
  sender : Nat
  old : BitVec w
deriving DecidableEq, Repr

/-- What window stores of TICK groups whose boundary has not completed have done in a scratchpad: bytes, validity bits and error marks replaced, newest first; the berm record before the first of their touches, and every touch since, oldest first, with the sender of one of theirs (R43, R108). -/
structure Tentative where
  bytes : List (Replaced 8)
  valid : List (Replaced 1)
  marks : List (Replaced 2)
  base : Option Berm
  touches : List (Option Nat × Berm)
deriving DecidableEq, Repr

/-- An own write that is already current (R105): program order, moment it became current, location, value. -/
structure OwnWrite where
  seq : Nat
  stamp : Nat
  pa : Nat
  val : Byte
deriving DecidableEq, Repr

/-- An arrival at a boundary: by TICK or by PHASE (R108). -/
inductive Arrival where
  | tick
  | phase
deriving DecidableEq, Repr

/-- The array states that an MMODE of a TICK group has set: this core's before it, and when its partner had last set that; its partner's before and after it, and the partner's MMODE before (R295). -/
structure ModeBack where
  own : Nat
  ownSet : Option Nat
  other : Nat
  otherNow : Nat
  otherReg : Nat
deriving DecidableEq, Repr

/-- What an export write of a TICK group has replaced in a replica's face where it has landed: its words, and the soft error it held (R22, R108). -/
structure Landed where
  cid : Nat
  sig : Nat
  words : List (Nat × Lane)
  bad : Option (Nat × Nat)
deriving DecidableEq, Repr

/-- A TICK group that has arrived and waits for its boundary: its address and length, the place of its TICK, the issue number of its first syllable, and what it has changed so far besides results that land, as it was before (R108). -/
structure Back where
  pc : Va
  glen : Nat
  pos : Nat
  seq : Nat
  gen : Store 32
  fmtr : Word
  fmtrPend : List FmtPend
  tagr : BitVec 64
  tagPend : BitVec 64
  tagErr : BitVec 64
  /-- tags whose bits it has changed -/
  tagMask : BitVec 64
  /-- writes of completed commands that its waits have taken into the overlay (R121) -/
  unseen : List (Nat × List OwnWrite)
  wbuf : WBuf
  arrayFree : Nat
  modes : Option ModeBack
  /-- berm touches of its own, which count once the boundary is a TICK (R41) -/
  berm : Option Berm
  /-- its export writes that have landed, newest first -/
  landed : List Landed
deriving DecidableEq, Repr

/-- What a syllable of the group at issue does once the whole group has committed (R171, R222, R223, R227, R308, R310). -/
inductive After where
  /-- arrival at a boundary; by TICK with what a mixed boundary takes back -/
  | arrive (a : Arrival) (b : Option Back)
  | tagPend (m : BitVec 64)
  | tagIdle (m : BitVec 64)
  /-- tags that count as waited on -/
  | waited (m : BitVec 64)
  /-- a nest of so many body groups with these bounds -/
  | nest (groups : Nat) (bounds : List Nat)
  | rte
  | exit
  | iflush
deriving DecidableEq, Repr

/-- The sequencer and exposed pipeline of a core. -/
structure Pipe where
  /-- address of the group at issue (R168; log 1) -/
  pc : Va
  /-- schedule cycle (R63) and the cycle at which the next group may issue (R172) -/
  cyc : Nat
  nextIssue : Nat
  /-- schedule cycle on which the group held at the boundaries completed so far may issue (R131), and that on which the member's first plain load after them may (R132) -/
  barrier : Nat
  loadBarrier : Nat
  /-- the partner's schedule cycle is frozen or waits on this wall cycle (R63, R295); asked anew at each turn of an even core -/
  partnerHeld : Bool
  /-- position of the next syllable in the group at issue, and the group's length -/
  gpos : Nat
  glen : Nat
  mark : Mark
  /-- target of the control transfer of the group at issue -/
  target : Option Va
  /-- issued syllables so far, the issue order of results and accesses -/
  seq : Nat
  flights : List Flight
  held1 : List Flight
  held2 : List Flight
  fmtrPend : List FmtPend
  fmtrHeld1 : List FmtPend
  fmtrHeld2 : List FmtPend
  /-- operand caches: keys cluster × 64 + physical register still as read (R177) -/
  cache : List Nat
  /-- vector registers the group at issue has read so far, the next contents of the caches -/
  reads : List Nat
  /-- the wall cycle of a false REUSE claim has been spent for the group at issue -/
  claimPaid : Bool
  /-- wall cycles the group at issue has been frozen for a rebuild (R35) -/
  rebuilt : Nat
  /-- schedule cycle at which the core's array share is free (R286) -/
  arrayFree : Nat
  /-- front-overflow reports due (R344) -/
  overflow : List Word
  loop : Option Nest
  /-- wall cycle at which the present freeze on a promised load began -/
  frozenAt : Option Nat
  /-- TVAL and POS of a memory timeout due on the group of this schedule cycle (R64, R380) -/
  timeout : Option (Word × Nat)
  /-- a refused fetch resolution: VA and DETAIL of the fetch-translation fault due (R65) -/
  fetchFail : Option (Nat × Nat)
  after : List After
  /-- the group at issue holds a TICK, so that its accesses wait for its boundary (R108) -/
  ticks : Bool
  /-- the TICK group whose boundary has not completed -/
  back : Option Back
  /-- the accumulator tiles before this schedule cycle's landings and commits, if it had any (R124, R291) -/
  tilesBefore : Option (Store 32)
deriving DecidableEq, Repr

/-! ### Register files -/

/-- The program-visible registers of R148, R149 and their hidden companions. Unlisted registers hold zero; a q register is null unless marked. -/
structure Regs where
  s : Store 64
  v : Store 32
  k : Store 128
  q : Store 64
  qlive : Store 1
  l : Store 32
  m : Store 32
  sc : Store 8
  byp : Store 32
  sb : Store 4
  idx : Store 16
  gen : Store 32
  fronts : List Front
  tagr : BitVec 64
  tagPend : BitVec 64
  tagErr : BitVec 64
deriving DecidableEq, Repr

/-- The special registers of R149 other than those computed from the core's place. -/
structure Sys where
  now : Word
  budget : Nat
  tl : Nat
  tvec : Word
  tcause1 : Word
  tcause2 : Word
  tret1 : Word
  tret2 : Word
  tval1 : Word
  tval2 : Word
  tglen1 : Word
  tglen2 : Word
  ctrl : Word
  fmtr : Word
  seed : Word
  widr : Word
  rotw : Word
  /-- the array state in force (R295) -/
  amode : Nat
  /-- MMODE as the program reads it -/
  mmode : Nat
  /-- wall cycle on which the partner's MMODE syllable last set the array state -/
  amodeSet : Option Nat
  /-- the partner has been bound since the core was given the array alone, which it shares from its next TICK on (R163) -/
  share : Bool
deriving DecidableEq, Repr

/-- An array job in progress: captured operands of an MMA or MMAC (R289, R290). -/
structure Job where
  uid : Nat
  mt : Nat
  sat : Bool
  fa : Fmt
  qa : QFmt
  /-- bits from one element of A to the next -/
  aw : Nat
  rows : List Nat
  scales : List (List Byte)
  w : WBuf
deriving DecidableEq, Repr

/-! ### Tap store and scratchpad -/

/-- A stored sample: its lane words by cluster, cluster-vector and lane, and the bank and row of an uncorrectable error it holds (R30). -/
structure Sample where
  words : Store 32
  bad : Option (Nat × Nat)
deriving DecidableEq, Repr

/-- A signal held on a core: descriptor of R4, whether this core holds a replica, samples from lag 0 on. -/
structure Sig where
  desc : BitVec 128
  replica : Bool
  samples : List Sample
deriving DecidableEq, Repr

/-- Errors of a store's banks: banks marked failed, corrected errors by bank and wall cycle within the window, newest first, and the count of each bank (R30, R34). -/
structure BankLog where
  failed : List Nat
  log : List (Nat × Nat)
  counts : Store 32
deriving DecidableEq, Repr

/-- A tile lock of an engine command (R51). -/
structure Lock where
  cmd : Nat
  tile : Nat
  write : Bool
deriving DecidableEq, Repr

/-- The scratchpad of a core (R31 to R52). `data` holds the bytes as stored, `erased` the granules (18 × row + bank) that fail their detection code: 1 while they can be rebuilt, 2 once they cannot. -/
structure Scratch where
  data : Store 8
  valid : Store 1
  erased : Store 2
  failedBanks : List Nat
  /-- corrected errors: bank and wall cycle, newest first, and the count of each bank -/
  log : List (Nat × Nat)
  counts : Store 32
  degraded : Bool
  /-- summary bit of each region, and the offset-table entries by 16 × region + tile -/
  summary : Store 1
  table : Store 32
  locks : List Lock
  berm : Option Berm
  tentative : Tentative
deriving DecidableEq, Repr

/-! ### Device memory as one core sees it -/

/-- An operand or code extent (R58). `perAccess` marks lazy and overflowed extents (R60). -/
structure Ext where
  declared : Bool
  base : Nat
  len : Nat
  rd : Bool
  wr : Bool
  at_ : Bool
  lcreq : Nat
  perAccess : Bool
deriving DecidableEq, Repr

/-- The state of the pages of a run (R60, R61). -/
inductive RunState where
  | present
  | absent
  | bad
deriving DecidableEq, Repr

/-- A run of pages (R60); extent 16 is the code extent. `marked` asks for a re-walk (R71). -/
structure Run where
  ext : Nat
  va : Nat
  len : Nat
  pa : Nat
  cls : Nat
  ex : Bool
  sp : Bool
  mg : Bool
  st : RunState
  marked : Bool
  /-- the DETAIL under which accesses through it are refused since a re-walk failed (R71) -/
  refuse : Option Nat
  /-- of each of its pages, newest first: the leaves that map it, as the walk found them (R75) -/
  leaves : List (List (Nat × Nat))
deriving DecidableEq, Repr

/-- A walk under way of a marked run, named by its extent and first VA, and the wall cycle on which it ends (R71). -/
structure RunWalk where
  ext : Nat
  va : Nat
  due : Nat
deriving DecidableEq, Repr

/-- A pending store (R105, R313), and the request that its page waits for (R65). -/
structure PendStore where
  seq : Nat
  phase : Nat
  x : Nat
  off : Nat
  bytes : List Byte
  req : Option Nat
deriving DecidableEq, Repr

/-- The kinds of scoreboarded device-memory access. -/
inductive VarKind where
  | load
  | acquire
  | release
  /-- an ATOM by its SUB -/
  | atom (sub : Nat)
  | cas128
deriving DecidableEq, Repr

/-- How far a scoreboarded access has come. -/
inductive VarStage where
  /-- not yet performed -/
  | issued
  /-- under the fault resolution of a request, or held on a migrating page or a marked run -/
  | resolving (req : Option Nat)
  /-- performed, with the value to land; not carried when false (R129) -/
  | performed (v : Nat)
deriving DecidableEq, Repr

/-- What a plain load reads, as it stood when the load issued (R106). -/
structure LoadView where
  snap : List Host.Cell
  snapStamp : Nat
  own : List OwnWrite
  pend : List PendStore
deriving DecidableEq, Repr

/-- A variable-latency access in flight (R174, R312 to R314). -/
structure VarOp where
  seq : Nat
  kind : VarKind
  x : Nat
  off : Nat
  n : Nat
  sg : Bool
  d : Nat
  a : Word
  b : Word
  /-- s(D+1) of CAS128 and its sD -/
  c : Nat
  sb : Option Nat
  scope : Nat
  ord : Nat
  /-- of a plain load that waits for its page: its value where its place was known when it issued, else what it reads once its place is known (R106) -/
  fixed : Option Nat
  view : Option LoadView
  stage : VarStage
  /-- wall cycle before which the next stage does not come -/
  due : Nat
deriving DecidableEq, Repr

/-- A failure awaiting report (R129, R222): cause 0x0E or 0x0F, DETAIL, TVAL, and the scoreboard it holds. -/
structure Failure where
  seq : Nat
  cause : Nat
  detail : Nat
  tval : Word
  sb : Option Nat
deriving DecidableEq, Repr

/-- Where a copy reads or writes (R316). -/
inductive CopyEnd where
  /-- extent and offset -/
  | device (x : Nat) (off : Int)
  /-- scratchpad byte -/
  | scratch (e : Int)
  /-- the face of a bridged-in signal -/
  | face (sig : Nat)
deriving DecidableEq, Repr

/-- The body of a command (R315), with the operands captured at issue. -/
inductive CmdKind where
  /-- rows of `len` bytes: the source and destination offset of each row is given by its nest, one row without -/
  | copy (src dst : CopyEnd) (len : Nat) (nests : Option (Entry256 × Entry256)) (compress : Bool) (nestIx : Nat × Nat)
  /-- descriptor bytes, output offset -/
  | adec (desc : List Byte) (descOff : Nat) (out : Nat)
  /-- term entry, first block and count, result offset -/
  | plDec (term : List Byte) (descOff : Nat) (first count : Nat) (out : Nat)
  /-- header and term entries, union or intersection, every match or top K -/
  | plQuery (head : List Byte) (descOff : Nat) (union docs : Bool) (out : Nat)
  | plFuse (desc : List Byte) (descOff : Nat) (out : Nat)
  /-- launch record, queue, and whether the tag waits for the task's completion -/
  | launch (record : List Byte) (queue : Nat) (done : Bool)
deriving DecidableEq, Repr

/-- Writes of one unit of a command: an extent (0 to 15), the scratchpad (16), a face (17), or a tile to be encoded (18); the location of each byte. -/
structure UnitWrite where
  space : Nat
  ws : List (Nat × Byte)
deriving DecidableEq, Repr

/-- An error code of R326 and its details. -/
structure CmdError where
  code : Nat
  d0 : Nat
  d1 : Nat
deriving DecidableEq, Repr

/-- How far an engine command has come. -/
inductive CmdStage where
  /-- waiting for consumed tags or locks -/
  | queued
  /-- units it has read, and their bytes by space and place -/
  | reading (seen : List Nat) (got : Store 8)
  /-- units still to write, then how it ends -/
  | writing (left : List UnitWrite) (err : Option CmdError) (insert : Option (Nat × List Tuple))
  /-- ended, its tag not yet set -/
  | finished (err : Option CmdError) (insert : Option (Nat × List Tuple))
  /-- a LAUNCH.done waiting for its task to complete -/
  | waitTask (task : Nat)
deriving DecidableEq, Repr

/-- An engine command outstanding (R308). -/
structure Cmd where
  uid : Nat
  seq : Nat
  tag : Nat
  /-- engine class: 1 hoist, 2 decode-attention, 3 seam, 4 scheduler, as R406 numbers sources -/
  cls : Nat
  kind : CmdKind
  /-- commands whose tags it consumes and which have not completed -/
  waits : List Nat
  /-- a consumed tag found with its error bit set (R309) -/
  upstream : Option Nat
  rlocks : List Nat
  wlocks : List Nat
  /-- an error met when it issued -/
  found : Option CmdError
  stage : CmdStage
  /-- an issue slot of its engine class has been granted to it (R166) -/
  granted : Bool
  due : Nat
  /-- its writes to device memory so far: moment, location, value -/
  wrote : List OwnWrite
  /-- berm touch already recorded for it (R41) -/
  touched : Bool
  /-- a device page of it is under resolution: the request, or none while it is held on a migrating page or a marked run -/
  resolving : Option (Option Nat)
deriving DecidableEq, Repr

/-- A completed command whose tag becomes visible at the next unfrozen schedule cycle (R64, R308). -/
structure TagDone where
  uid : Nat
  tag : Nat
  err : Bool
  /-- PL.FUSE insertions into a front (R324) -/
  insert : Option (Nat × List Tuple)
  wrote : List OwnWrite
deriving DecidableEq, Repr

/-- Device memory as a core sees it (R105 to R107), its extents, accesses and commands. -/
structure DevView where
  exts : List Ext
  code : Ext
  runs : List Run
  /-- marked runs that the scheduler walks again, which freezes the core (R71) -/
  walks : List RunWalk
  snap : List Host.Cell
  snapStamp : Nat
  own : List OwnWrite
  pend : List PendStore
  /-- published stores whose page is under resolution: store, request, scope -/
  late : List (PendStore × Option Nat × Nat)
  /-- code the core may still hold from before its last IFLUSH or dispatch (R128) -/
  fetchOld : List Host.Cell
  vars : List VarOp
  fails : List Failure
  cmds : List Cmd
  tagDone : List TagDone
  /-- writes of completed commands by tag, until the tag is waited on (R121) -/
  unseen : List (Nat × List OwnWrite)
deriving DecidableEq, Repr

/-! ### A stream core -/

/-- What a seat holds. -/
inductive Status where
  | free
  /-- bound, its context not yet in place -/
  | loading
  | live
  | exited
  | killed
deriving DecidableEq, Repr

/-- The place of a core and the context it runs (R150, R151, R155). -/
structure Seat where
  cid : Nat
  fn : Nat
  task : Nat
  member : Nat
  gsize : Nat
  slice : Nat
  status : Status
  /-- stopped by an empty budget (R234) -/
  stopped : Bool
  /-- a PREEMPT committed for its tick group (R366) -/
  preempt : Bool
  /-- its tick group has completed a TICK at which it is to be saved, and no member issues before that (R386) -/
  atTick : Bool
  /-- wall cycle of dispatch (CRD RUN) -/
  started : Nat
  /-- withdrawn from binding (R34) -/
  withdrawn : Bool
  /-- boundaries completed, and arrivals at later ones, oldest first (R108, R109) -/
  boundary : Nat
  arrivals : List Arrival
  /-- held at the last boundary under R109 or at a TICK (R131) -/
  atBarrier : Bool
deriving DecidableEq, Repr

/-- A stream core. -/
structure StreamCore where
  seat : Seat
  pipe : Pipe
  regs : Regs
  sys : Sys
  wbuf : WBuf
  jobs : List Job
  taps : List Sig
  /-- errors of the tap store's banks (R30) -/
  tapBanks : BankLog
  sp : Scratch
  pool : List Entry256
  dev : DevView
deriving DecidableEq, Repr

/-! ### Functions, tasks and policies -/

/-- A policy or fault event (R360). -/
structure Event where
  kind : Nat
  core : Nat
  task : Nat
  detail : Nat
  queue : Nat
deriving DecidableEq, Repr

/-- A staged action: OP, wA and b (R366). -/
structure Action where
  op : Nat
  a : BitVec 32
  b : BitVec 32
deriving DecidableEq, Repr

/-- What a decision reads (R362): heads of the 16 queues, fields of the 256 cores, partition fields, free cores by bench. -/
structure Snapshot where
  heads : List (List (BitVec 32))
  cores : List (List (BitVec 32))
  part : List (BitVec 32)
  freeBench : List (BitVec 32)
deriving DecidableEq, Repr

/-- A LOOPN in progress: its register, first body index, index after the body, iteration and last iteration (R364). -/
structure PolicyLoop where
  reg : Nat
  start : Nat
  stop : Nat
  i : Nat
  last : Nat
deriving DecidableEq, Repr

/-- A running decision of the policy (R361 to R366). -/
structure Decision where
  ev : Event
  snap : Snapshot
  code : List (BitVec 32)
  ix : Nat
  w : Store 32
  loop : Option PolicyLoop
  staged : List Action
  /-- cycles spent, and the wall cycle at which it started (R369) -/
  cost : Nat
  began : Nat
deriving DecidableEq, Repr

/-- A decision the host is to make (R410, R411). -/
structure HostDecision where
  id : Nat
  ev : Event
  asked : Nat
  staged : List Action
deriving DecidableEq, Repr

/-- A saved tick group (R386, R388): extent of its record in the context pool. -/
structure Saved where
  pa : Nat
  len : Nat
  gsize : Nat
deriving DecidableEq, Repr

/-- A NEXT, or a GROW with its amount, waiting to be served (R157, R158): its core, or none once its context has left that, the flight it serves, and the wall cycle it reaches the scheduler. -/
structure Request where
  cid : Option Nat
  seq : Nat
  amount : Option Word
  due : Nat
deriving DecidableEq, Repr

/-- A live task (R356 to R359). -/
structure Task where
  num : Nat
  name : Nat
  queue : Nat
  prio : Nat
  deadline : Nat
  /-- wall cycle of acceptance -/
  accepted : Nat
  demand : Nat
  budget : Nat
  /-- widths, counts and F of the layout (R152) -/
  widths : List Nat
  counts : List Nat
  fields : Nat
  delivered : Nat
  /-- numbers of identifiers that a refused TICK group has given back, which are delivered first (R108) -/
  returned : List Nat
  reqs : List Request
  /-- extent descriptors as the task block gives them -/
  codeDesc : Entry256
  extDescs : List Entry256
  edges : List Nat
  upstream : Bool
  binds : Nat
  saved : List Saved
  /-- core and command of a LAUNCH.done -/
  doneTag : Option (Nat × Nat)
  /-- completion status once it has ended, until its record is written -/
  ended : Option Nat
  /-- tick groups dispatched so far -/
  dispatches : Nat
  /-- a member was killed by a trap (R390) -/
  killed : Bool
  /-- a KILL action has been committed on it (R366) -/
  killReq : Bool
  /-- the loader has refused its code object (R155) -/
  unloadable : Bool
deriving DecidableEq, Repr

/-- A bind record the scheduler has accepted (R155), with the saved group it restores. -/
structure Bind where
  task : Nat
  bench : Nat
  cores : Nat
  slice : Nat
  budget : Nat
  /-- what REFILL has added to the COUNT of its members before their dispatch (R366) -/
  refill : Nat
  restore : Option Saved
  /-- wall cycle before which it is not dispatched -/
  due : Nat
  /-- the request that the loader waits for (R65), and whether one was refused -/
  wait : Option Nat
  unread : Bool
deriving DecidableEq, Repr

/-- A ring descriptor, the next sequence number, and the TAIL after each device record that may still be on the ring (R392, R404, R406). -/
structure Ring where
  base : Nat
  drop : Nat
  disc : Nat
  size : Nat
  head : BitVec 32
  tail : BitVec 32
  seq : BitVec 32
  ends : List (BitVec 32)
deriving DecidableEq, Repr

/-- A fault-resolution request (R65, R410). -/
structure Resolution where
  id : Nat
  va : Nat
  stage : Nat
  need : Nat
  cond : Nat
  ext : Nat
  lcreq : Nat
  /-- VA of the access that waits -/
  access : Nat
  cid : Nat
  /-- the task it is made for (R406) -/
  task : Nat
  die : Nat
  /-- wall cycle before which the hardware resolver does not answer (R420) -/
  due : Nat
deriving DecidableEq, Repr

/-- An invalidation begun (R67, R68). -/
structure Inval where
  kind : Nat
  fn : Nat
  count : Nat
  addr : Nat
  /-- the directory and export registers as they stood when it was issued (R403) -/
  regs : List Nat
  /-- no cached walk and no unmarked run holds the old entry any longer; accesses that used it may still be in flight -/
  flushed : Bool
  due : Nat
deriving DecidableEq, Repr

/-- A policy bank (R370). -/
structure Bank where
  code : List (BitVec 32)
  vstat : Nat
deriving DecidableEq, Repr

/-- The physical function 0 or a virtual function 1 to 128 with its partition (R402 to R413). -/
structure Func where
  num : Nat
  /-- staged dwords by 8 × slot + dword (R355) -/
  launch : Store 64
  /-- records of the launch window, by slot, whose task block lies on a migrating page (R72) -/
  submits : List (Nat × List Byte)
  banks : List Bank
  active : Nat
  swapPend : Bool
  vreason : Nat
  failix : Nat
  overruns : Nat
  quantum : Nat
  timer : Nat
  fmode : BitVec 64
  stopReq : Bool
  stopped : Bool
  /-- a function-level reset is under way: contexts it has killed still have engine commands to complete (R390, R402) -/
  resetting : Bool
  /-- tick groups saved since the stop was requested -/
  savedGroups : Nat
  uesta : BitVec 64
  uemsk : BitVec 64
  cesta : BitVec 64
  cemsk : BitVec 64
  hdrlog : List Byte
  /-- HDRLOG has been loaded since UESTA was last zero (R403) -/
  hdrTaken : Bool
  rings : List Ring
  /-- device rings given back after a migration since the last resume (R392, R414) -/
  restored : List Nat
  /-- partition descriptor fields (R412) -/
  cores : BitVec 256
  root2 : Nat
  poolPa : Nat
  poolLen : Nat
  quota : Nat
  engineQuotas : BitVec 24
  qused : Nat
  /-- frames the hardware resolver has charged and nothing has returned yet, oldest first (R74) -/
  charges : List Nat
  rflist : Nat
  rfcount : Nat
  /-- root of the first stage (log 7) -/
  root1 : Nat
  tasks : List Task
  queues : List (List Nat)
  binds : List Bind
  faults : List Event
  preemptFlag : Option Event
  dispatchFlag : Option Event
  /-- wall cycle before which the next decision does not start, and the cycle on which it starts once that is settled (R371) -/
  decideDue : Nat
  decideAt : Option Nat
  decision : Option Decision
  hostDecision : Option HostDecision
  decisions : Nat
  resolutions : List Resolution
  nextReq : Nat
  invals : List Inval
  /-- the directory and export registers as each entry of ring 3 found them when it was issued (R403) -/
  issuedRegs : List (List Nat)
  waitingDone : List (List Byte)
  /-- messages held while no core is bound (R392) -/
  msixHeld : List Nat
  /-- table memory as walks may still hold it (R70) -/
  walkOld : List Host.Cell
  /-- wall cycle at which a verification under way ends -/
  verifyDue : Nat
deriving DecidableEq, Repr

/-! ### The package -/

/-- A byte of a write current at a scope narrower than system (R103): core, its issue order there, scope, location, value, moment (one for all bytes of an aligned write, R104), the cores that have read it, and the scopes at which it has been read and so is current: code of R112, and which core, bench or die. -/
structure LimitedWrite where
  cid : Nat
  seq : Nat
  scope : Nat
  pa : Nat
  val : Byte
  stamp : Nat
  seen : List Nat
  current : List (Nat × Nat)
deriving DecidableEq, Repr

/-- A window store in flight (R43): landing wall cycle, sender, or none once its context has left that, its member number and issue order, receivers, bytes in lane order, and the scoreboard of the sender that goes down when it lands (R174, R238). -/
structure WindowStore where
  due : Nat
  cid : Option Nat
  member : Nat
  seq : Nat
  dest : List Nat
  ws : List (Nat × Byte)
  sb : Option Nat
deriving DecidableEq, Repr

/-- A face write of an exported signal on its way to the replicas (R22, R244), its owner as that of a window store. -/
structure ExportWrite where
  due : Nat
  cid : Option Nat
  seq : Nat
  dest : List Nat
  eff : Eff
deriving DecidableEq, Repr

/-- A 64 KiB frame under the scrub engine: its PA, the PA of the leaf that maps it, and the wall cycle before which the engine does not finish (R73). -/
structure ScrubPage where
  frame : Nat
  leaf : Nat
  due : Nat
deriving DecidableEq, Repr

/-- What the package sends out. -/
inductive Output where
  /-- an MSI-X message of a function's vector (R404) -/
  | msix (fn vector : Nat)
  | hostRead (pa : Nat) (data : List Byte)
  /-- a register or descriptor word read by the host -/
  | hostWord (data : Word)
  | hostAtomic (pa : Nat) (old : List Byte)
  /-- reply to a peer: data, or an error (R415) -/
  | fabric (device : Nat) (reply : Option (List Byte))
  /-- a signed attestation report (R418) -/
  | attestation (report signature : List Byte)
  | refused
deriving DecidableEq, Repr

/-- The whole package. The core whose turn it is stands in `core`, the others in `cores` in the order of their turns. -/
structure State where
  core : StreamCore
  cores : List StreamCore
  fns : List Func
  /-- function whose policy bytecode runs next -/
  fnTurn : Nat
  mem : List Host.Cell
  limited : List LimitedWrite
  /-- pending bits of the scrub engine, by PA div 64 (R73) -/
  scrub : List Nat
  scrubPages : List ScrubPage
  dirbase : Nat
  dirlen : Nat
  expbase : Nat
  explen : Nat
  /-- the four registers as fabric requests use them (R403) -/
  fabricRegs : List Nat
  /-- owner directory and export table as the base dies cache them (R76, R416) -/
  dirCache : List Host.Cell
  /-- the host path carries FetchAdd, Swap and CAS; the pooled-memory atomics that an owner's port has declared unsupported, by owning device and SUB, 8 for CAS128 (R129; log 9) -/
  hostAtomics : Bool
  poolAtomics : List (Nat × Nat)
  windows : List WindowStore
  exports : List ExportWrite
  meas : List (BitVec 512)
  /-- digest of the running firmware of each stage that has one (R418) -/
  firmware : List (Option (BitVec 512))
  clockStep : Nat
  wall : Nat
  /-- 0 at the start of a wall cycle, before any core's turn; else which core's turn it is, from 1 -/
  turn : Nat
  /-- wall cycle of the next pass of the background scrubber (R33) -/
  scrubNext : Nat
  /-- moments at which writes become current; the next command number (log 5) -/
  stamp : Nat
  uid : Nat
  /-- what the world outside does, each with its wall cycle (log 5), what the package sends out, and the counter of free values (log 4) -/
  inputs : List (Nat × Instr)
  outbox : List Output
  draws : Nat
deriving DecidableEq, Repr

/-! ### Reset -/

def Front.empty : Front := { cfg := none, es := [], rej := 0, evi := 0 }

def Pipe.reset : Pipe :=
  { pc := 0, cyc := 0, nextIssue := 0, barrier := 0, loadBarrier := 0, partnerHeld := false, gpos := 0, glen := 1, mark := .running, target := none, seq := 0, flights := [], held1 := [], held2 := []
    fmtrPend := [], fmtrHeld1 := [], fmtrHeld2 := [], cache := [], reads := [], claimPaid := false, rebuilt := 0, arrayFree := 0
    overflow := [], loop := none, frozenAt := none, timeout := none, fetchFail := none, after := [], ticks := false, back := none, tilesBefore := none }

/-- DESIGN CHOICE (log 2). -/
def Regs.reset : Regs :=
  { s := [], v := [], k := [], q := [], qlive := [], l := [], m := [], sc := [], byp := [], sb := [], idx := [], gen := []
    fronts := List.replicate 8 Front.empty, tagr := 0, tagPend := 0, tagErr := 0 }

/-- DESIGN CHOICE (log 2). -/
def Sys.reset : Sys :=
  { now := 0, budget := 0, tl := 0, tvec := 0, tcause1 := 0, tcause2 := 0, tret1 := 0, tret2 := 0, tval1 := 0, tval2 := 0, tglen1 := 0
    tglen2 := 0, ctrl := 0, fmtr := 0, seed := 0, widr := 0, rotw := 0, amode := 0, mmode := 0, amodeSet := none, share := false }

def WBuf.empty : WBuf := { fcode := none, kst := 0, fmtr := 0, rows := [], scales := [] }

def Tentative.empty : Tentative := { bytes := [], valid := [], marks := [], base := none, touches := [] }

def Scratch.reset : Scratch :=
  { data := [], valid := [], erased := [], failedBanks := [], log := [], counts := [], degraded := false, summary := [], table := [], locks := []
    berm := none, tentative := Tentative.empty }

def Ext.none : Ext := { declared := false, base := 0, len := 0, rd := false, wr := false, at_ := false, lcreq := 0, perAccess := false }

def DevView.reset : DevView :=
  { exts := [], code := Ext.none, runs := [], walks := [], snap := [], snapStamp := 0, own := [], pend := [], late := [], fetchOld := [], vars := [], fails := []
    cmds := [], tagDone := [], unseen := [] }

def Seat.reset (cid : Nat) : Seat :=
  { cid := cid, fn := 0, task := 0, member := 0, gsize := 1, slice := 0, status := .free, stopped := false, preempt := false, atTick := false
    started := 0, withdrawn := false, boundary := 0, arrivals := [], atBarrier := false }

/-- A core that nothing is bound to: its registers and stores are cleared (R203, R412, R417). DESIGN CHOICE (log 2). -/
def StreamCore.reset (cid : Nat) : StreamCore :=
  { seat := Seat.reset cid, pipe := Pipe.reset, regs := Regs.reset, sys := Sys.reset, wbuf := WBuf.empty, jobs := [], taps := [], tapBanks := { failed := [], log := [], counts := [] }
    sp := Scratch.reset, pool := [], dev := DevView.reset }

def Ring.reset : Ring := { base := 0, drop := 0, disc := 0, size := 0, head := 0, tail := 0, seq := 0, ends := [] }

/-- A function after a start: stopped, rings unconfigured, no verified policy, no live task (R413). DESIGN CHOICE (log 8). -/
def Func.reset (f : Nat) : Func :=
  { num := f, launch := [], submits := [], banks := [{ code := [], vstat := 0 }, { code := [], vstat := 0 }], active := 0, swapPend := false, vreason := 0
    failix := 0, overruns := 0, quantum := 0, timer := 0, fmode := 0, stopReq := true, stopped := true, resetting := false, savedGroups := 0, uesta := 0
    uemsk := 0, cesta := 0, cemsk := 0, hdrlog := List.replicate 64 0, hdrTaken := false, rings := List.replicate 8 Ring.reset, restored := [], cores := 0, root2 := 0, poolPa := 0, poolLen := 0
    quota := 0, engineQuotas := 0, qused := 0, charges := [], rflist := 0, rfcount := 0, root1 := 0, tasks := [], queues := List.replicate 16 []
    binds := [], faults := [], preemptFlag := none, dispatchFlag := none, decideDue := 0, decideAt := none, decision := none, hostDecision := none, decisions := 0
    resolutions := [], nextReq := 0, invals := [], issuedRegs := [], waitingDone := [], msixHeld := [], walkOld := [], verifyDue := 0 }

/-- The package after a start (R413, R417): every core free, every function stopped, HBM zeroed. DESIGN CHOICE (log 8). -/
def State.reset : State :=
  { core := StreamCore.reset 0, cores := (List.range 255).map fun i => StreamCore.reset (i + 1), fns := (List.range 129).map Func.reset
    fnTurn := 0, mem := [], limited := [], scrub := [], scrubPages := [], dirbase := 0, dirlen := 0, expbase := 0, explen := 0, fabricRegs := [0, 0, 0, 0]
    dirCache := [], hostAtomics := true, poolAtomics := [], windows := [], exports := []
    meas := List.replicate 8 0, firmware := [], clockStep := 0, wall := 0, turn := 0, scrubNext := 2 ^ 28, stamp := 0, uid := 0, inputs := [], outbox := []
    draws := 0 }

/-- Why the machine stops for good. -/
inductive Fault where
  /-- Raised by no meaning of this model: every fault the manual describes is a trap, a kill, an error completion or a record, which are next states. Safe. -/
  | stuck
deriving DecidableEq, Repr

/-- Why an instruction has no meaning in a state. -/
inductive Refusal where
  /-- Raised by an arm of `exec` whose instruction is not modelled yet. Safe. -/
  | notModelled (mnemonic : String)
  /-- Raised by the meaning of an event (a landing, a completion, a host write naming a function or ring that does not exist, a policy bytecode with no decision running) in a state in which the manual says that event does not occur. Safe: `step` raises an event only where it occurs. -/
  | notEnabled (event : String)
deriving DecidableEq, Repr

end Sys2Proof.Machine
end

