-- ==== Sys2Proof/Machine/Memory.lean ====
section
/-! DEFINITION. Device memory: physical map, current memory at each scope, writes becoming current, snapshots (R54, R102 to R107, R117, R127). -/
namespace Sys2Proof.Machine

/-! ### Free values -/

/-- The next free value, and the state that has used it (log 4). DESIGN CHOICE (log 4). DEDUCED (log 48). -/
def draw (s : State) : Nat × State := (Config.freeNat s.draws, { s with draws := s.draws + 1 })

/-- The next free value alone. DESIGN CHOICE (log 4). -/
def freeNow (s : State) : Nat := Config.freeNat s.draws

/-! ### The physical map (R54) -/

/-- Bytes of one HBM stack. -/
def stackBytes : Nat := 64000000000

/-- A byte of a populated HBM stack. -/
def isHbm (pa : Nat) : Bool := decide (pa / 2 ^ 36 < 12) && decide (pa % 2 ^ 36 < stackBytes)
def isHost (pa : Nat) : Bool := decide (2 ^ 50 ≤ pa) && decide (pa < 2 ^ 51)
def isPooled (pa : Nat) : Bool := decide (2 ^ 51 ≤ pa) && decide (pa < 2 ^ 52)

/-- Every byte of the range lies in one populated region. -/
def frameOk (pa len : Nat) : Bool :=
  (decide (pa / 2 ^ 36 < 12) && decide (pa % 2 ^ 36 + len ≤ stackBytes)) || (isHost pa && decide (pa + len ≤ 2 ^ 51)) || (isPooled pa && decide (pa + len ≤ 2 ^ 52))

/-- Placement class of a page for a core of a die: 0 LC0, 1 LC1, 2 LC2, 3 LCX (R54, R56). -/
def placement (die pa : Nat) : Nat :=
  if isHost pa then 3 else if isPooled pa then 2 else if pa / 2 ^ 36 / 3 = die then 0 else 1

/-! ### Bytes of current memory -/

/-- What an unlisted byte of device memory reads as (R417; log 3). DESIGN CHOICE (log 3). -/
def unlisted : Byte := 0

/-- The form in which memory is held: addresses strictly rising, nothing listed that reads as an unlisted byte. DESIGN CHOICE (log 3). -/
def memWf (m : List Host.Cell) : Bool := Store.wf (w := 8) m

/-- One byte of a memory image. DESIGN CHOICE (log 3). -/
def peek (m : List Host.Cell) (pa : Nat) : Byte := Store.get (w := 8) m pa

def peekBytes (m : List Host.Cell) (pa n : Nat) : List Byte := (List.range n).map fun i => peek m (pa + i)

/-- A little-endian number of a memory image (R83). -/
def peekLe (m : List Host.Cell) (pa n : Nat) : Nat := leNat (peekBytes m pa n)

def pokes (m : List Host.Cell) (ws : List (Nat × Byte)) : List Host.Cell := Store.setAll (w := 8) ws m

/-- Current memory at system scope (R127). -/
def readSys (s : State) (pa n : Nat) : List Byte := peekBytes s.mem pa n

/-- Writes that become current at every scope: they are last in coherence order (R103), and a write to a granule awaiting its scrub clears its pending bit (R73). -/
def writeSys (s : State) (ws : List (Nat × Byte)) : State :=
  { s with
    mem := pokes s.mem ws
    limited := s.limited.filter fun l => !(ws.any fun w => w.1 == l.pa)
    scrub := s.scrub.filter fun g => !(ws.any fun w => w.1 / 64 == g)
    stamp := s.stamp + 1 }

/-- Writes of a list of bytes from `pa` on. -/
def writeSysAt (s : State) (pa : Nat) (bs : List Byte) : State := writeSys s (withKeys pa bs)

/-! ### Scopes (R112) -/

/-- Does the scope, as seen from core `c`, include core `d`? -/
def inScope (c scope d : Nat) : Bool :=
  match scope with
  | 0 => c == d
  | 1 => c / 16 == d / 16
  | 2 => c / 64 == d / 64
  | _ => true

/-- Is a write one naturally aligned unit (R104)? -/
def oneUnit (ws : List (Nat × Byte)) : Bool :=
  match ws with
  | [] => true
  | w :: _ => w.1 % ws.length == 0 && (ws.map fun x => x.1) == (List.range ws.length).map (w.1 + ·)

/-- Writes that become current at a scope (R103, R113). R134 leaves open whether the host sees a narrower one before the boundary that makes it current at system scope: it does not. DESIGN CHOICE (log 29). -/
def writeScoped (s : State) (cid seq scope : Nat) (ws : List (Nat × Byte)) : State :=
  if 4 ≤ scope then writeSys s ws
  else
    let one := oneUnit ws
    { s with
      limited := s.limited ++ ws.mapIdx fun i w => { cid := cid, seq := seq, scope := scope, pa := w.1, val := w.2, stamp := if one then s.stamp else s.stamp + i, seen := [], current := [] }
      scrub := s.scrub.filter fun g => !(ws.any fun w => w.1 / 64 == g)
      stamp := s.stamp + 1 + ws.length }

/-- Some of the narrower writes become current at system scope: they enter current memory in coherence order, and an older write to a location that has moved on leaves (R103, R113). -/
def settle (which : LimitedWrite → Bool) : List LimitedWrite → List Host.Cell → List LimitedWrite × List Host.Cell
  | [], m => ([], m)
  | l :: ls, m =>
    if which l then settle which ls (pokes m [(l.pa, l.val)])
    else
      let r := settle which ls m
      if ls.any fun k => which k && k.pa == l.pa then r else (l :: r.1, r.2)

def settleWhere (s : State) (which : LimitedWrite → Bool) : State :=
  let r := settle which s.limited s.mem
  { s with limited := r.1, mem := r.2, stamp := s.stamp + 1 }

/-- Every write of a core that is current at a narrower scope becomes current at system scope (R113). -/
def settleAll (s : State) (cid : Nat) : State := settleWhere s fun l => l.cid == cid

/-- What a core has read of narrower writes is current at system scope from here on, where it reads at that scope next: it reads no location going backwards, and all that read at one scope see one order (R79, R103, R107). DEDUCED (log 12). -/
def settleSeen (s : State) (cid : Nat) : State :=
  if s.limited.any fun l => l.seen.contains cid then settleWhere s fun l => l.seen.contains cid else s

/-- A scope of core `c` as one of the sets of agents there are: its code, and which core, bench or die it is (R112). -/
def scopeOf (c scope : Nat) : Nat × Nat :=
  match scope with
  | 0 => (0, c)
  | 1 => (1, c / 16)
  | 2 => (2, c / 64)
  | 3 => (3, 0)
  | _ => (4, 0)

/-- Current memory at device scope: what the scheduler, the translation service and code fetch read (R112, R128). -/
def devImage (s : State) : List Host.Cell :=
  pokes s.mem ((s.limited.filter fun l => decide (3 ≤ l.scope) || l.current.contains (3, 0)).map fun l => (l.pa, l.val))

/-- Current memory with every write that has become current anywhere: what a location holds at its home (R115). -/
def homeImage (s : State) : List Host.Cell := pokes s.mem (s.limited.map fun l => (l.pa, l.val))

/-- Must core `cid`, reading at scope `scope`, find a narrower write there? It must find one that is current at that scope, its own, one it has read before, and one whose scope and the reader's include each other's core (R103, R107, R117). -/
def mustSee (cid scope : Nat) (l : LimitedWrite) : Bool :=
  l.cid == cid || l.seen.contains cid || l.current.contains (scopeOf cid scope) || (inScope l.cid l.scope cid && inScope cid scope l.cid)

/-- Does core `cid`, reading at scope `scope`, find a narrower write there? Where it need not, that is a free choice, one for a whole unit (R104, R117). -/
def seesLimited (s : State) (cid scope : Nat) (l : LimitedWrite) : Bool :=
  mustSee cid scope l || Config.freeNat (s.draws + s.limited.findIdx fun x => x.stamp == l.stamp) % 2 == 1

/-- A core finds a narrower write as it reads at a scope: for all that read at that scope it is current there from now on (R103, R107). -/
def LimitedWrite.read (l : LimitedWrite) (cid scope : Nat) : LimitedWrite :=
  { l with
    seen := if l.seen.contains cid then l.seen else cid :: l.seen
    current := if l.current.contains (scopeOf cid scope) then l.current else scopeOf cid scope :: l.current }

/-- Current memory at a scope (R103). -/
def scopeImage (s : State) (at_ : Nat × Nat) : List Host.Cell := pokes s.mem ((s.limited.filter fun l => l.current.contains at_).map fun l => (l.pa, l.val))

/-- Current memory at a scope as an acquire of core `cid` takes it: what it finds becomes current at that scope, in current memory where that is system scope (R103, R105, R114, R117). DEDUCED (log 12). -/
def takeView (s : State) (cid scope : Nat) : List Host.Cell × State :=
  let t := { s with limited := s.limited.map fun l => if seesLimited s cid scope l then l.read cid scope else l, draws := s.draws + s.limited.length }
  let t := if 4 ≤ scope then settleSeen t cid else t
  (scopeImage t (scopeOf cid scope), t)

/-- What a command that core `cid` issued at place `seq` reads: current memory at system scope, and the core's own narrower writes of before its issue (R118). -/
def engineView (s : State) (cid seq : Nat) : List Host.Cell :=
  pokes s.mem ((s.limited.filter fun l => l.cid == cid && decide (l.seq < seq)).map fun l => (l.pa, l.val))

/-! ### Cores and functions by number -/

/-- All cores, the one at turn first. -/
def allCores (s : State) : List StreamCore := s.core :: s.cores

/-- The core of a CID. -/
def coreOf (s : State) (cid : Nat) : Option StreamCore := (allCores s).find? fun c => c.seat.cid == cid

/-- Change the core of a CID. -/
def onCore (s : State) (cid : Nat) (f : StreamCore → StreamCore) : State :=
  if s.core.seat.cid = cid then { s with core := f s.core }
  else { s with cores := s.cores.map fun c => if c.seat.cid = cid then f c else c }

/-- Change every core. -/
def onCores (s : State) (f : StreamCore → StreamCore) : State := { s with core := f s.core, cores := s.cores.map f }

def fnOf (s : State) (n : Nat) : Option Func := s.fns.find? fun f => f.num == n

def onFn (s : State) (n : Nat) (f : Func → Func) : State := { s with fns := s.fns.map fun g => if g.num = n then f g else g }

/-- The other core of a core's pair (R163). -/
def pairOf (cid : Nat) : Nat := if cid % 2 = 0 then cid + 1 else cid - 1

def Seat.die (p : Seat) : Nat := p.cid / 64
/-- The package bench (R150). -/
def Seat.bench (p : Seat) : Nat := p.cid / 16

/-- Does the core hold a context of the tick group of function, task and bench? -/
def Seat.inGroup (p : Seat) (fn task bench : Nat) : Bool :=
  p.status != .free && p.fn == fn && p.task == task && p.bench == bench

/-- Members of a tick group. -/
def groupOf (s : State) (fn task bench : Nat) : List StreamCore := (allCores s).filter fun c => c.seat.inGroup fn task bench

/-- The tick group of a core. -/
def matesOf (s : State) (c : StreamCore) : List StreamCore := groupOf s c.seat.fn c.seat.task c.seat.bench

def taskOf (s : State) (fn num : Nat) : Option Task := (fnOf s fn).bind fun f => f.tasks.find? fun t => t.num == num

def onTask (s : State) (fn num : Nat) (g : Task → Task) : State :=
  onFn s fn fun f => { f with tasks := f.tasks.map fun t => if t.num = num then g t else t }

end Sys2Proof.Machine
end

