-- ==== Sys2Proof/Machine/Operands.lean ====
section
/-! DEFINITION. Register names, lanes, elements and operand forms (R148, R159, R184, R205, R257, R258). -/
namespace Sys2Proof.Machine

/-! ### Names to registers -/

/-- The physical cluster register of name vn (R159). -/
def physV (rotw : Word) (n : Nat) : Nat := if n < 48 then n else 48 + (n - 48 + bits rotw.toNat 3 0) % 16

/-- The physical q register of name qn (R159). -/
def physQ (rotw : Word) (n : Nat) : Nat := (n + bits rotw.toNat 11 8) % 16

/-- Key of lane j of physical register r in cluster cl. -/
def vkey (cl r j : Nat) : Nat := (cl * 64 + r) * 16 + j

/-- Scalar register n; s0 reads zero (R148). -/
def StreamCore.sreg (c : StreamCore) (n : Nat) : Word := if n = 0 then 0 else c.regs.s.get n

/-- Lane word of vector register n in core-wide lane L (R146). -/
def StreamCore.vlane (c : StreamCore) (n L : Nat) : Lane := c.regs.v.get (vkey (L / 16) (physV c.sys.rotw n) (L % 16))

/-- Mask register n; k0 reads all ones (R148). -/
def StreamCore.kreg (c : StreamCore) (n : Nat) : BitVec 128 := if n = 0 then BitVec.allOnes 128 else c.regs.k.get n

/-- Data and null flag of the rotating register named qn (R216). -/
def StreamCore.qdata (c : StreamCore) (n : Nat) : Word := c.regs.q.get (physQ c.sys.rotw n)
def StreamCore.qnull (c : StreamCore) (n : Nat) : Bool := c.regs.qlive.get (physQ c.sys.rotw n) == 0

/-- Front n (R331). -/
def StreamCore.front (c : StreamCore) (n : Nat) : Front := nth c.regs.fronts n Front.empty

/-- The BENCH register (R150). -/
def benchWord (p : Seat) : Word :=
  BitVec.ofNat 64 ((p.gsize - 1) % 16 * 2 ^ 20 + p.member % 16 * 2 ^ 16 + p.cid / 64 * 64 + p.cid / 16 % 4 * 16 + p.cid % 16)

/-- Special register n as MFSR reads it (R149, R184, R215). -/
def StreamCore.special (c : StreamCore) (n : Nat) : Word :=
  match n with
  | 0 => c.sys.now
  | 1 => BitVec.ofNat 64 c.sys.budget
  | 2 => BitVec.ofNat 64 c.sys.tl
  | 3 => c.sys.tvec
  | 4 => c.sys.tcause1
  | 5 => c.sys.tcause2
  | 6 => c.sys.tret1
  | 7 => c.sys.tret2
  | 8 => c.sys.tval1
  | 9 => c.sys.tval2
  | 10 => c.sys.tglen1
  | 11 => c.sys.tglen2
  | 12 => c.sys.ctrl
  | 13 => c.sys.fmtr
  | 14 => c.sys.seed
  | 15 => c.sys.widr
  | 16 => BitVec.ofNat 64 c.seat.cid
  | 17 => benchWord c.seat
  | 18 => c.sys.rotw
  | 19 => BitVec.ofNat 64 c.sys.mmode
  | 20 => c.regs.tagr
  | _ => 0

/-- Bits of a special register that its map does not give as zero (R159, R230 to R233). -/
def specialMask (n : Nat) : Word :=
  match n with
  | 3 => 0xFFFFFFFFFFFFFFF0
  | 4 => 0xFFFF00FF
  | 5 => 0xFFFF00FF
  | 6 => 0xFFFFFFFFFFFFFFF0
  | 7 => 0xFFFFFFFFFFFFFFF0
  | 10 => 0x1F
  | 11 => 0x1F
  | 12 => 0x1
  | 18 => 0x3F0F0F
  | _ => BitVec.allOnes 64

/-! ### Lanes -/

/-- Clusters of a CMASK (R179). -/
def hClusters (h : Hdr) : List Nat := setBits 8 h.cmask.toNat

/-- The first cluster of a CMASK. -/
def hCluster (h : Hdr) : Nat := lowestBit 8 h.cmask.toNat

/-- The lanes of a list of clusters, in increasing order. -/
def lanesOf (cls : List Nat) : List Nat := cls.flatMap fun cl => (List.range 16).map fun j => 16 * cl + j

/-- The lanes of the masked clusters (R146). -/
def hLanes (h : Hdr) : List Nat := lanesOf (hClusters h)

/-- The active lanes (R257). -/
def StreamCore.active (c : StreamCore) (h : Hdr) (km : BitVec 3) : List Nat :=
  (hLanes h).filter fun L => (c.kreg km.toNat).getLsbD L

/-- Writes of lane words to vector register n, one for each lane. -/
def StreamCore.laneWrites (c : StreamCore) (n : Nat) (ls : List Nat) (f : Nat → Lane) : List (Nat × Lane) :=
  ls.map fun L => (vkey (L / 16) (physV c.sys.rotw n) (L % 16), f L)

/-! ### Elements of a lane word (R83, R258) -/

/-- The elements of slot width w of a lane word, lowest first. -/
def elemsOf (w : Nat) (x : Lane) : List Nat := (List.range (32 / w)).map fun e => bits x.toNat (w * e + w - 1) (w * e)

/-- A lane word of elements of slot width w. -/
def packNat (w : Nat) : List Nat → Nat
  | [] => 0
  | x :: xs => x % 2 ^ w + 2 ^ w * packNat w xs

def packElems (w : Nat) (l : List Nat) : Lane := BitVec.ofNat 32 (packNat w l)

/-- The core's reading of .q. -/
def StreamCore.q (c : StreamCore) : QFmt := qFmtOf c.sys.fmtr

/-- The format of a FMT byte; R180 has refused reserved codes. -/
def hFmt (h : Hdr) : Fmt := (fmtOf (fcodeOf h.fmt)).getD .f32

/-- The MODE of a FMT byte. -/
def hMode (h : Hdr) : Nat := modeOf h.fmt

/-! ### Operands -/

/-- The 64 bits of a scalar B operand (R205). -/
def StreamCore.bword (c : StreamCore) (o : LReg) : Word :=
  if o.bsel.toNat = 2 then o.imm.signExtend 64 else c.sreg o.b.toNat

/-- The lane word of a B operand in core-wide lane L (R257). -/
def StreamCore.blane (c : StreamCore) (o : LReg) (L : Nat) : Lane :=
  match o.bsel.toNat with
  | 0 => c.vlane o.b.toNat L
  | 1 => (c.sreg o.b.toNat).setWidth 32
  | _ => o.imm.setWidth 32

/-- The B lane word of an operand that is the same for every lane (R257). -/
def StreamCore.bcommon (c : StreamCore) (o : LReg) : Lane :=
  if o.bsel.toNat = 1 then (c.sreg o.b.toNat).setWidth 32 else o.imm.setWidth 32

/-- The full natural value of a B operand that may be a scalar (R271). -/
def StreamCore.bnat (c : StreamCore) (o : LReg) : Nat :=
  if o.bsel.toNat = 1 then (c.sreg o.b.toNat).toNat else bits o.imm.toNat 31 0

/-- The lag of a tap operand (R14, R237). -/
def StreamCore.lag (c : StreamCore) (o : LTap) : Nat := if o.lr then (c.sreg o.lreg.toNat).toNat else o.lag.toNat

/-- The first and last lag of a TRDW window (R237). -/
def StreamCore.window (c : StreamCore) (o : LTap) : Nat × Nat :=
  if o.lr then ((c.sreg o.lreg.toNat).toNat, (c.sreg o.lreg.toNat).toNat + o.lagb.toNat) else (o.lag.toNat, o.lagb.toNat)

end Sys2Proof.Machine
end

