-- ==== Sys2Proof/Machine/Resources.lean ====
section
/-! DEFINITION. Which registers a syllable reads and writes (R174 to R180). -/
namespace Sys2Proof.Machine

/-- A register file. -/
inductive RFile where
  | s
  | v
  | k
  | q
  | l
  | m
  | f
  | sc
  | sys
deriving DecidableEq, Repr

/-- The registers a syllable names: read, written, vector operands with a REUSE bit, and vector reads through another port than R178's. -/
structure RegUse where
  reads : List (RFile × Nat)
  writes : List (RFile × Nat)
  claims : List Nat
  offPort : List Nat
deriving DecidableEq, Repr

def RegUse.none : RegUse := { reads := [], writes := [], claims := [], offPort := [] }

/-- A scalar B operand (R205). -/
def useBS (o : LReg) : List (RFile × Nat) := if o.bsel.toNat = 0 then [(.s, o.b.toNat)] else []

/-- A B operand of a V, F, D or T syllable (R257). -/
def useBV (o : LReg) : List (RFile × Nat) :=
  match o.bsel.toNat with
  | 0 => [(.v, o.b.toNat)]
  | 1 => [(.s, o.b.toNat)]
  | _ => []

/-- A B operand that is a scalar or an immediate. -/
def useB1 (o : LReg) : List (RFile × Nat) := if o.bsel.toNat = 1 then [(.s, o.b.toNat)] else []

/-- Vector operands of V, F, D and T syllables whose REUSE bit is set (R177). -/
def claimA (h : Hdr) (o : LReg) : List Nat := if h.reuse.getLsbD 0 then [o.a.toNat] else []
def claimB (h : Hdr) (o : LReg) : List Nat := if h.reuse.getLsbD 1 && o.bsel.toNat == 0 then [o.b.toNat] else []
def claimC (h : Hdr) (o : LReg) : List Nat := if h.reuse.getLsbD 2 then [o.c.toNat] else []

/-- n consecutive registers of a file. -/
def regRange (r : RFile) (d n : Nat) : List (RFile × Nat) := (List.range n).map fun i => (r, d + i)

def useScalar (reads writes : List (RFile × Nat)) : RegUse := { RegUse.none with reads := reads, writes := writes }

/-- The tail mask (R257). -/
def useK (km : BitVec 3) : List (RFile × Nat) := [(.k, km.toNat)]

/-- vD = op vA, B. -/
def useVAB (h : Hdr) (o : LReg) (extra writes : List (RFile × Nat)) : RegUse :=
  { reads := (.v, o.a.toNat) :: useBV o ++ useK o.km ++ extra, writes := writes, claims := claimA h o ++ claimB h o, offPort := [] }

/-- vD = op vA. -/
def useVA (h : Hdr) (o : LReg) (extra writes : List (RFile × Nat)) : RegUse :=
  { reads := (.v, o.a.toNat) :: useK o.km ++ extra, writes := writes, claims := claimA h o, offPort := [] }

/-- The lag scalar of a tap operand. -/
def useLag (o : LTap) : List (RFile × Nat) := if o.lr then [(.s, o.lreg.toNat)] else []

/-- The offset register of an M1 syllable (R248). -/
def useOff (o : LMem) : List (RFile × Nat) :=
  match o.offm.toNat with
  | 1 => [(.s, o.o.toNat)]
  | 3 => [(.v, o.o.toNat)]
  | _ => []

/-- Scale registers of an MX operand (R290, R293). -/
def useScales (h : Hdr) (o : LArr) : List (RFile × Nat) := if (hFmt h).isMx then regRange .sc o.sc.toNat (o.kst.toNat + 1) else []

/-- The registers an instruction reads and writes. The REUSE bit of an operand that names several registers claims the first of them (R177). Only registers that the syllable names count for reasons 7 and 8 (R180): a special register it uses without naming it (CTRL, FMTR, ROTW, TL, TRET) does not. DESIGN CHOICE (log 55). -/
def regUse : Instr → RegUse
  | .sAdd _ o | .sSub _ o | .sMul _ o | .sMulh _ o | .sDiv _ o | .sRem _ o | .sMin _ o | .sMax _ o | .sAnd _ o | .sOr _ o | .sXor _ o | .sAndn _ o
  | .sShl _ o | .sShr _ o | .sSra _ o | .sRot _ o | .sCmp _ o | .bfx _ o => useScalar ((.s, o.a.toNat) :: useBS o) [(.s, o.d.toNat)]
  | .sClz _ o | .sPopc _ o | .waitany _ o | .waitall _ o | .ffr _ o => useScalar [(.s, o.a.toNat)] [(.s, o.d.toNat)]
  | .sSel _ o | .bfi _ o => useScalar ((.s, o.a.toNat) :: (.s, o.c.toNat) :: useBS o) [(.s, o.d.toNat)]
  | .liw _ o => useScalar [] [(.s, o.d.toNat)]
  | .mfsr _ o => useScalar [(.sys, o.a.toNat)] [(.s, o.d.toNat)]
  | .mtsr _ o => useScalar [(.s, o.a.toNat)] [(.sys, o.d.toNat)]
  | .mtq _ o => useScalar [(.s, o.a.toNat)] [(.q, o.d.toNat)]
  | .mtqNull _ o | .next _ o => useScalar [] [(.q, o.d.toNat)]
  | .mfq _ o | .mfqNull _ o => useScalar [(.q, o.a.toNat)] [(.s, o.d.toNat)]
  | .br _ o => useScalar (if o.bsel.toNat = 0 then [(.s, o.a.toNat)] else []) []
  | .brc _ o => useScalar [(.s, o.a.toNat), (.s, o.b.toNat)] []
  | .call _ o => useScalar (if o.bsel.toNat = 0 then [(.s, o.a.toNat)] else []) [(.s, o.d.toNat)]
  | .ret _ o => useScalar [(.s, o.a.toNat)] []
  | .grow _ o => useScalar (useBS o) [(.s, o.d.toNat), (.s, o.c.toNat)]
  | .setfmt _ o => useScalar [(.s, o.a.toNat)] [(.sys, 13)]
  | .trd _ o => useScalar (useLag o) [(.v, o.d.toNat)]
  | .trdw _ o => useScalar (useLag o) (regRange .v o.d.toNat ((if o.lr then o.lagb.toNat else o.lagb.toNat - o.lag.toNat) + 1))
  | .twr _ o | .twra _ o => useScalar ((.v, o.d.toNat) :: useLag o) []
  | .thist _ o | .tsig _ o => useScalar [] [(.s, o.d.toNat)]
  | .ld _ o | .ldg _ o => useScalar (useOff o ++ useK o.km) [(.v, o.d.toNat)]
  | .st _ o | .stg _ o => useScalar ((.v, o.d.toNat) :: useOff o ++ useK o.km) []
  | .lds _ o => useScalar (useOff o) [(.s, o.d.toNat)]
  | .sts _ o => useScalar ((.s, o.d.toNat) :: useOff o) []
  | .ldb _ o => useScalar [] [(.s, o.d.toNat)]
  | .vAdd h o | .vSub h o | .vMul h o | .vMulh h o | .vMin h o | .vMax h o | .absd h o | .vAnd h o | .vOr h o | .vXor h o | .vAndn h o
  | .vShl h o | .vShr h o | .vSra h o | .bcast h o | .perm h o | .xcl h o => useVAB h o [] [(.v, o.d.toNat)]
  | .fma h o | .fms h o =>
    { reads := (.v, o.a.toNat) :: (.v, o.c.toNat) :: useBV o ++ useK o.km, writes := [(.v, o.d.toNat)], claims := claimA h o ++ claimB h o ++ claimC h o, offPort := [] }
  | .abs h o | .neg h o | .vClz h o | .vPopc h o | .exp2 h o | .log2 h o | .rcp h o | .rsqrt h o | .sqrt h o | .tanh h o | .sigm h o | .erf h o
  | .sin h o | .cos h o | .cvt h o | .pack h o | .unpack h o => useVA h o [] [(.v, o.d.toNat)]
  | .vCmp h o => useVAB h o [] [(.k, o.d.toNat)]
  | .vSel h o => useVAB h o [(.k, o.c.toNat)] [(.v, o.d.toNat)]
  | .mov h o =>
    { reads := (if o.bsel.toNat = 0 then [(.v, o.a.toNat)] else useB1 o) ++ useK o.km, writes := [(.v, o.d.toNat)]
      claims := if o.bsel.toNat = 0 then claimA h o else [], offPort := [] }
  | .extr h o => useVAB h o [] [(.s, o.d.toNat)]
  | .ins _ o => useScalar ((.s, o.a.toNat) :: useB1 o) [(.v, o.d.toNat)]
  | .iota _ o => useScalar (useB1 o ++ useK o.km) [(.v, o.d.toNat)]
  | .kand _ o | .kor _ o | .kxor _ o => useScalar [(.k, o.a.toNat), (.k, o.b.toNat)] [(.k, o.d.toNat)]
  | .knot _ o => useScalar [(.k, o.a.toNat)] [(.k, o.d.toNat)]
  | .kpopc _ o => useScalar [(.k, o.a.toNat)] [(.s, o.d.toNat)]
  | .ktail _ o => useScalar (useB1 o) [(.k, o.d.toNat)]
  | .rsum h o | .rmax h o | .rmin h o => useVA h o [] [(.l, o.d.toNat)]
  | .rminidx h o => useVAB h o [] [(.l, o.d.toNat), (.l, o.d.toNat + 1)]
  | .rabsmax h o => useVA h o [] []
  | .rdrain _ o => useScalar (useK o.km ++ regRange .l o.a.toNat (if 4 ≤ o.sub.toNat then 2 else 1)) [(.v, o.d.toNat)]
  | .rclr _ o => useScalar [] (regRange .l o.d.toNat (if o.sub.toNat = 3 then 2 else 1))
  | .part h o => useVAB h o [] ((.s, o.c.toNat) :: regRange .v o.d.toNat (o.sub.toNat + 1))
  | .fcfg _ o => useScalar (useB1 o) [(.f, o.d.toNat)]
  | .fins h o =>
    { reads := regRange .v o.a.toNat 3 ++ useK o.km, writes := [(.f, o.d.toNat)], claims := claimA h o, offPort := [] }
  | .fmerge _ o => useScalar [(.f, o.a.toNat), (.f, o.b.toNat)] [(.f, o.d.toNat)]
  | .fpeel _ o => useScalar ((.f, o.a.toNat) :: useB1 o ++ useK o.km) (regRange .v o.d.toNat 3)
  | .fcnt _ o => useScalar [(.f, o.a.toNat)] [(.s, o.d.toNat)]
  | .fclr _ o | .fclrAll _ o => useScalar [] [(.f, o.d.toNat)]
  | .fsave _ o => useScalar [(.s, o.a.toNat), (.f, o.b.toNat)] []
  | .fload _ o => useScalar [(.s, o.a.toNat)] [(.f, o.d.toNat)]
  | .mma h o => useScalar ((.s, o.o.toNat) :: useScales h o) [(.m, o.mt.toNat)]
  | .mmac h o => useScalar ((.m, o.ms.toNat) :: useScales h o) [(.m, o.mt.toNat)]
  | .ldw h o => useScalar ((.s, o.o.toNat) :: useScales h o) []
  | .accrd _ o => useScalar [(.s, o.o.toNat), (.m, o.mt.toNat)] [(.v, o.rcd.toNat)]
  | .accwr _ o => { RegUse.none with reads := [(.s, o.o.toNat), (.v, o.rcd.toNat)], writes := [(.m, o.mt.toNat)], offPort := [o.rcd.toNat] }
  | .accclr _ o => useScalar [] [(.m, o.mt.toNat)]
  | .mmodeExcl _ _ | .mmodeAlt _ _ => useScalar [] [(.sys, 19)]
  | .scld _ o => useScalar [(.s, o.o.toNat)] [(.sc, o.sc.toNat)]
  | .scset _ o => useScalar [(.s, o.a.toNat), (.s, o.o.toNat)] [(.sc, o.sc.toNat)]
  | .scmov _ o => useScalar [(.sc, o.imm23.toNat % 16)] [(.sc, o.sc.toNat)]
  | .cvtq h o => useVA h o [] [(.v, o.d.toNat), (.s, o.c.toNat)]
  | .trans h o =>
    { reads := regRange .v o.a.toNat (transRegs h) ++ useK o.km, writes := regRange .v o.d.toNat (transRegs h), claims := claimA h o, offPort := [] }
  | .regroup h o => useVA h o (useB1 o) [(.v, o.d.toNat)]
  | .xbcast _ o => useScalar ((.sc, o.a.toNat) :: useK o.km) [(.v, o.d.toNat)]
  | .ldd _ o | .lddP _ o | .lddAcq _ o => useScalar [(.s, o.o.toNat)] [(.s, o.d.toNat)]
  | .std _ o | .stdRel _ o => useScalar [(.s, o.a.toNat), (.s, o.o.toNat)] []
  | .atomAdd _ o | .atomAnd _ o | .atomOr _ o | .atomXor _ o | .atomMin _ o | .atomMax _ o | .atomSwp _ o | .atomCas _ o =>
    useScalar [(.s, o.a.toNat), (.s, o.b.toNat), (.s, o.o.toNat)] [(.s, o.d.toNat)]
  | .cas128 _ o => useScalar [(.s, o.a.toNat), (.s, o.b.toNat), (.s, o.o.toNat), (.s, o.d.toNat), (.s, o.d.toNat + 1)] [(.s, o.d.toNat), (.s, o.d.toNat + 1)]
  | .cpyD2s _ o | .cpyS2d _ o | .cpyD2d _ o | .cpyS2s _ o | .cpyD2t _ o | .cpyD2sz _ o | .cpyS2sz _ o | .cpym _ o | .adec _ o | .plDec _ o | .plAnd _ o
  | .plAndDocs _ o | .plOr _ o | .plOrDocs _ o | .plFuse _ o | .launchAcc _ o | .launchDone _ o =>
    useScalar [(.s, o.a.toNat), (.s, o.b.toNat), (.s, o.c.toNat)] []
  | .tagclr _ o => useScalar [(.s, o.b.toNat)] [(.s, o.a.toNat)]
  | _ => RegUse.none

/-- The three tags a command may consume (R309). -/
def consumedTags (o : LEcmd) : List Nat :=
  (if o.tcv.getLsbD 0 then [o.tc0.toNat] else []) ++ (if o.tcv.getLsbD 1 then [o.tc1.toNat] else []) ++ if o.tcv.getLsbD 2 then [o.tc2.toNat] else []

/-- The command fields of an engine command; TAGCLR is no command. -/
def commandOf : Instr → Option LEcmd
  | .cpyD2s _ o | .cpyS2d _ o | .cpyD2d _ o | .cpyS2s _ o | .cpyD2t _ o | .cpyD2sz _ o | .cpyS2sz _ o | .cpym _ o | .adec _ o | .plDec _ o | .plAnd _ o
  | .plAndDocs _ o | .plOr _ o | .plOrDocs _ o | .plFuse _ o | .launchAcc _ o | .launchDone _ o => some o
  | _ => none

/-- The registers as R180 compares them: a cluster register counts in each masked cluster; s0 is none. -/
def placed (h : Hdr) (l : List (RFile × Nat)) : List (RFile × Nat × Nat) :=
  l.flatMap fun r => match r.1 with
    | .v => (hClusters h).map fun cl => (.v, cl, r.2)
    | .s => if r.2 = 0 then [] else [(.s, 0, r.2)]
    | g => [(g, 0, r.2)]

end Sys2Proof.Machine
end

