-- ==== Sys2Proof/Machine/Scratch.lean ====
section
/-! DEFINITION. The scratchpad: records, berms, validity, compressed regions, soft errors, locks (R31 to R53). -/
namespace Sys2Proof.Machine

/-- Bytes of a scratchpad (R31). -/
def spBytes : Nat := 6291456

/-! ### Buffer records (R37, R38) -/

/-- Pool entry i; beyond the entries the code object supplies it is all zero (R37). -/
def StreamCore.entry (c : StreamCore) (i : Nat) : Nat := (nth c.pool i 0#256).toNat

def recKind (e : Nat) : Nat := bits e 255 252
def recBase (e : Nat) : Nat := bits e 251 235
def recLen (e : Nat) : Nat := bits e 234 218
def recCarried (e : Nat) : Bool := bit e 209
def recComp (e : Nat) : Bool := bit e 208
def recMembers (e : Nat) : Nat := bits e 190 175
def recCores (e : Nat) : Nat := bits e 174 159
/-- A buffer or window record (R36). -/
def recAccess (e : Nat) : Bool := recKind e == 1 || recKind e == 2

def nestShift (e : Nat) : Nat := bits e 251 248
def nestBound (e d : Nat) : Nat := bits e (167 + 16 * d) (152 + 16 * d)
def nestStride (e d : Nat) : Int := asInt 24 true (bits e (31 + 24 * d) (8 + 24 * d))

/-- The byte offset a nest gives for loop indices (R248). -/
def nestOff (e : Nat) (i : Nat → Nat) : Int :=
  (2 ^ nestShift e : Nat) * ((List.range 6).map fun d => (i d : Int) * nestStride e d).foldl (· + ·) 0

/-- Is the granule inside a buffer record? Every other granule is a berm (R41). -/
def inBuffer (pool : List Entry256) (g : Nat) : Bool :=
  pool.any fun e => recKind e.toNat == 1 && decide (recBase e.toNat ≤ g) && decide (g < recBase e.toNat + recLen e.toNat)

/-- Is the granule inside a carried buffer (R44)? -/
def inCarried (pool : List Entry256) (g : Nat) : Bool :=
  pool.any fun e => recKind e.toNat == 1 && recCarried e.toNat && decide (recBase e.toNat ≤ g) && decide (g < recBase e.toNat + recLen e.toNat)

/-- Is the region of 1,024 granules wholly inside a carried buffer? -/
def regionCarried (pool : List Entry256) (n : Nat) : Bool :=
  pool.any fun e => recKind e.toNat == 1 && recCarried e.toNat && decide (recBase e.toNat ≤ 1024 * n) && decide (1024 * n + 1024 ≤ recBase e.toNat + recLen e.toNat)

/-! ### Berm record (R41, R42) -/

/-- Berm touches and those after them as one record: the first of them, and all counted (R41). -/
def joinBerms : Option Berm → Option Berm → Option Berm
  | some a, some b => some { a with count := min 255 (a.count + b.count) }
  | some a, none => some a
  | none, b => b

/-- The touches of a record that an earlier one does not count. -/
def bermSince : Option Berm → Option Berm → Option Berm
  | some a, some b => if b.count ≤ a.count then none else some { b with count := b.count - a.count }
  | _, b => b

/-- Record a berm touch or a discarded window store; of a store of a TICK group that has not completed under its sender, so that it can be taken back (R108). -/
def Scratch.touchOf (sp : Scratch) (sender : Option Nat) (kind source member e : Nat) : Scratch :=
  let b : Berm := { count := 1, kind := kind, source := source, member := member, bank := e / 64 % 16, offset := e }
  let t := sp.tentative
  { sp with
    berm := joinBerms sp.berm (some b)
    tentative := if sender.isNone && t.touches.isEmpty then t else { t with base := if t.touches.isEmpty then sp.berm else t.base, touches := t.touches ++ [(sender, b)] } }

/-- Record a touch that stands. -/
def Scratch.touch (sp : Scratch) (kind source member e : Nat) : Scratch := sp.touchOf none kind source member e

/-- The record has been reported and is cleared (R41). -/
def Scratch.reported (sp : Scratch) : Scratch := { sp with berm := none, tentative := { sp.tentative with base := none, touches := [] } }

/-- The berm report in TVAL (R42). -/
def bermWord (b : Berm) : Word :=
  BitVec.ofNat 64 (b.count * 2 ^ 56 + b.kind * 2 ^ 52 + b.source * 2 ^ 50 + b.member * 2 ^ 46 + b.bank * 2 ^ 42 + b.offset)

/-! ### Compressed regions (R46 to R49) -/

/-- Is the region of byte e compressed? -/
def Scratch.compressed (sp : Scratch) (e : Nat) : Bool := sp.summary.get (e / 65536) != 0

/-- The stored byte at an offset: an invalid granule reads as zero (R44). -/
def Scratch.held (sp : Scratch) (e : Nat) : Byte := if sp.valid.get (e / 64) = 0 then 0 else sp.data.get e

/-- A mask bit of a sparse tile. -/
def Scratch.maskBit (sp : Scratch) (base w : Nat) : Bool := bit (sp.held (base + w / 8)).toNat (w % 8)

/-- Mask bits set below word w. -/
def Scratch.maskRank (sp : Scratch) (base w : Nat) : Nat :=
  ((List.range (w / 8)).map fun k => popCount 8 (sp.held (base + k)).toNat).foldl (· + ·) 0 + popCount (w % 8) (sp.held (base + w / 8)).toNat

/-- The stored byte that a logical byte of a compressed region comes from; none for a zero (R47, R48). -/
def Scratch.storedAt (sp : Scratch) (e : Nat) : Option Nat :=
  let region := e / 65536
  let ent := (sp.table.get (16 * region + e % 65536 / 4096)).toNat
  let base := 65536 * region + 64 * bits ent 29 20
  let w := e % 4096 / 4
  match bits ent 31 30 with
  | 1 => if sp.maskBit base w then some (base + 128 + 4 * sp.maskRank base w + e % 4) else none
  | 2 => some (base + e % 4096)
  | _ => none

/-- The byte a read of offset e returns (R44, R48). -/
def Scratch.byte (sp : Scratch) (e : Nat) : Byte :=
  if sp.compressed e then
    match sp.storedAt e with
    | some p => sp.held p
    | none => 0
  else sp.held e

/-- Granules whose stored bytes a read of offset e uses (R48). Of a sparse tile both mask granules are read, also where the rank of the word needs one alone: the manual does not say which are. DESIGN CHOICE (log 24). -/
def Scratch.granulesOf (sp : Scratch) (e : Nat) : List Nat :=
  if sp.compressed e then
    let region := e / 65536
    let ent := (sp.table.get (16 * region + e % 65536 / 4096)).toNat
    let g := 1024 * region + bits ent 29 20
    match bits ent 31 30 with
    | 1 => match sp.storedAt e with
      | some p => [g, g + 1, p / 64]
      | none => [g, g + 1]
    | 2 => match sp.storedAt e with
      | some p => [p / 64]
      | none => []
    | _ => []
  else [e / 64]

/-! ### Soft errors (R33, R34) -/

/-- Number of a stored granule: bank and row. -/
def cellOf (bank row : Nat) : Nat := 18 * row + bank

/-- Erased granules of a stripe, failed banks among them. -/
def Scratch.erasures (sp : Scratch) (row : Nat) : Nat :=
  ((List.range 18).filter fun b => sp.erased.get (cellOf b row) != 0 || sp.failedBanks.contains b).length

/-- A stripe with three or more erasures is uncorrectable: its erased granules stay so until they are rewritten (R33, R34). A granule of bank P or Q in it, which no program write covers, keeps its mark for good, and the scrubber does not mend it. DESIGN CHOICE (log 24). -/
def Scratch.settleStripe (sp : Scratch) (row : Nat) : Scratch :=
  if 3 ≤ sp.erasures row then
    { sp with erased := Store.setAll ((List.range 18).filterMap fun b =>
        if sp.erased.get (cellOf b row) != 0 || sp.failedBanks.contains b then some (cellOf b row, 2#2) else none) sp.erased }
  else sp

/-- An upset of a stored granule. -/
def Scratch.erase (sp : Scratch) (bank row : Nat) : Scratch :=
  if sp.erased.get (cellOf bank row) = 0 then { sp with erased := sp.erased.set (cellOf bank row) 1 }.settleStripe row else sp

/-- Is a stored granule uncorrectable: recorded so, or one of three or more erasures of its stripe that its bank's failure makes, and not rewritten since? -/
def Scratch.cellLost (sp : Scratch) (bank row : Nat) : Bool :=
  let x := sp.erased.get (cellOf bank row)
  x == 2 || (x != 3 && sp.failedBanks.contains bank && decide (3 ≤ sp.erasures row))

/-- Does a read of a data granule meet an uncorrectable error (R34)? A read of an invalid granule returns zero (R44, R249). -/
def Scratch.lost (sp : Scratch) (g : Nat) : Bool := sp.valid.get g != 0 && sp.cellLost (g % 16) (g / 16)

/-- Can no granule be uncorrectable? -/
def Scratch.sound (sp : Scratch) : Bool := sp.erased.isEmpty && decide (sp.failedBanks.length < 3)

/-- Rows that hold an erased granule. -/
def Scratch.erasedRows (sp : Scratch) : List Nat := (sp.erased.map fun e => e.1 / 18).eraseDups

/-- Mark a bank failed (R34). -/
def Scratch.failBank (sp : Scratch) (bank : Nat) : Scratch :=
  if sp.failedBanks.contains bank then sp
  else
    let sp := { sp with failedBanks := bank :: sp.failedBanks }
    sp.erasedRows.foldl (fun sp r => sp.settleStripe r) sp

/-- An event of a core's scratchpad, or of its tap store, to report: event number of R407, bank, row, offset. -/
structure SoftEvent where
  event : Nat
  bank : Nat
  row : Nat
  off : Nat
  tap : Bool

/-- The events of a bank marked failed: the core is degraded by the second one of its two stores (R30, R34). -/
def failEvents (tap second : Bool) (bank row off : Nat) : List SoftEvent := ⟨1, bank, row, off, tap⟩ :: if second then [⟨2, bank, row, off, tap⟩] else []

/-- Mark a bank failed; `tap` banks of the core's tap store are failed already (R30, R34). -/
def Scratch.markFailed (sp : Scratch) (tap bank row : Nat) : Scratch × List SoftEvent :=
  if sp.failedBanks.contains bank then (sp, [])
  else
    let sp := sp.failBank bank
    let second := decide (2 ≤ sp.failedBanks.length + tap) && !sp.degraded
    ({ sp with degraded := sp.degraded || second }, failEvents false second bank row 0)

/-- The corrected errors of a bank within the window of 2^24 cycles, with one more now: the new log, and whether the bank is to be marked failed (R34). The window is any span of 2^24 cycles that ends now: the manual does not say where one starts. DESIGN CHOICE (log 24). -/
def logCorrected (log : List (Nat × Nat)) (wall bank : Nat) : List (Nat × Nat) × Bool :=
  let log := ((bank, wall) :: log).filter fun x => decide (wall < x.2 + 2 ^ 24)
  (log, decide (16 ≤ (log.filter fun x => x.1 == bank).length))

/-- One corrected error: the granule is written back, logged for its bank, and the 16th within 2^24 cycles marks the bank failed (R33, R34). A granule of bank P or Q has no offset (R31, R406). -/
def Scratch.correct (sp : Scratch) (tap wall bank row : Nat) : Scratch × List SoftEvent :=
  let l := logCorrected sp.log wall bank
  let sp := { sp with erased := sp.erased.set (cellOf bank row) 0, log := l.1, counts := sp.counts.set bank (sp.counts.get bank + 1) }
  let ev : SoftEvent := ⟨0, bank, row, if bank < 16 then 64 * (16 * row + bank) else 0, false⟩
  if l.2 then
    let r := sp.markFailed tap bank row
    (r.1, ev :: r.2)
  else (sp, [ev])

/-- Read and correct a stored granule: an erased one that can be rebuilt is rebuilt (R33). -/
def Scratch.mend (tap wall : Nat) (a : Scratch × List SoftEvent) (bank row : Nat) : Scratch × List SoftEvent :=
  if a.1.erased.get (cellOf bank row) = 1 && !a.1.failedBanks.contains bank then
    let r := a.1.correct tap wall bank row
    (r.1, a.2 ++ r.2)
  else a

/-- Reads of a list of data granules. -/
def Scratch.mendAll (sp : Scratch) (tap wall : Nat) (gs : List Nat) : Scratch × List SoftEvent :=
  gs.foldl (fun a g => Scratch.mend tap wall a (g % 16) (g / 16)) (sp, [])

/-- Rows of a tap store: 3 MiB in 16 data banks of 64-byte granules, as the scratchpad's code has them (R1, R30, R31). DEDUCED (log 51). -/
def tapRows : Nat := 3072

/-- A third failed bank leaves three erasures in every stripe of the tap store: the samples that have a granule in it are lost until their face is written. Which they are the manual does not say: a free choice for each sample, from number `pick` on. DESIGN CHOICE (log 51). -/
def StreamCore.loseSamples (c : StreamCore) (pick bank : Nat) : StreamCore :=
  { c with taps := c.taps.mapIdx fun i g => { g with samples := g.samples.mapIdx fun lag x =>
      let n := Config.freeNat (pick + 65536 * i + lag)
      if x.bad.isNone && n % 2 == 1 then { x with bad := some (bank, n / 2 % tapRows) } else x } }

/-- Free values that `loseSamples` uses up. -/
def StreamCore.sampleDraws (c : StreamCore) : Nat := 65536 * (c.taps.length + 1)

/-- Would one more erasure in a row of the tap store be the third of its stripe, or does the row hold an uncorrectable one already (R30, R33)? A bank that has failed makes no further one. -/
def StreamCore.tapLost (c : StreamCore) (bank row : Nat) : Bool :=
  let t := c.tapBanks
  decide (3 ≤ (if t.failed.contains bank then t.failed.length else t.failed.length + 1)) ||
    c.taps.any fun g => g.samples.any fun x => match x.bad with
      | some (b, r) => b != bank && r == row
      | none => false

/-- Mark a bank of the tap store failed (R30, R34). With up to two of them the samples are rebuilt on every read, so that nothing else changes. -/
def StreamCore.failTap (c : StreamCore) (bank row off : Nat) : StreamCore × List SoftEvent :=
  let t := c.tapBanks
  if t.failed.contains bank then (c, [])
  else
    let second := decide (1 ≤ t.failed.length + c.sp.failedBanks.length) && !c.sp.degraded
    ({ c with tapBanks := { t with failed := bank :: t.failed }, sp := { c.sp with degraded := c.sp.degraded || second } }, failEvents true second bank row off)

/-- One corrected error of the tap store, counted and logged for its bank as in the scratchpad; `off` is what TVAL of R15 names (R30, R34). The granule is corrected in place. DEDUCED (log 24). -/
def StreamCore.correctTap (c : StreamCore) (wall bank row off : Nat) : StreamCore × List SoftEvent :=
  let t := c.tapBanks
  let l := logCorrected t.log wall bank
  let c := { c with tapBanks := { t with log := l.1, counts := t.counts.set bank (t.counts.get bank + 1) } }
  let r := if l.2 then c.failTap bank row off else (c, [])
  (r.1, ⟨5, bank, row, off, true⟩ :: r.2)

/-! ### Writing and clearing -/

/-- Granules a list of writes covers whole. -/
def wholeGranules (ws : List (Nat × Byte)) : List Nat :=
  ((ws.map fun w => w.1 / 64).eraseDups).filter fun g => ((ws.filter fun w => w.1 / 64 == g).map fun w => w.1).eraseDups.length == 64

/-- Granules of a list of writes that are invalid. -/
def Scratch.fresh (sp : Scratch) (ws : List (Nat × Byte)) : List Nat := (ws.map fun w => w.1 / 64).eraseDups.filter fun g => sp.valid.get g == 0

/-- The mark of a granule written whole: none, or, in a stripe of three or more erasures, that it has been replaced since (R34). -/
def Scratch.rewritten (sp : Scratch) (g : Nat) : BitVec 2 :=
  if sp.failedBanks.contains (g % 16) && decide (3 ≤ sp.erasures (g / 16)) then 3 else 0

/-- Number of a data granule as a stored one. -/
def cellOfData (g : Nat) : Nat := cellOf (g % 16) (g / 16)

/-- Granules a list of writes meets. -/
def granulesMet (ws : List (Nat × Byte)) : List Nat := (ws.map fun w => w.1 / 64).eraseDups

/-- Places that a write which stands has written are no longer to be taken back. -/
def Tentative.over (t : Tentative) (ws : List (Nat × Byte)) : Tentative :=
  { t with
    bytes := t.bytes.filter fun r => !(ws.any fun w => w.1 == r.key)
    valid := t.valid.filter fun r => !(granulesMet ws).contains r.key
    marks := t.marks.filter fun r => !(wholeGranules ws).any fun g => cellOfData g == r.key }

/-- Write bytes: a written granule becomes valid, the bytes of an invalid one that the write does not cover are zero, and a write of a whole granule clears its error (R34, R44). DEDUCED (log 24). -/
def Scratch.write (sp : Scratch) (ws : List (Nat × Byte)) : Scratch :=
  let new := sp.fresh ws
  { sp with
    data := Store.setAll ws (if new.isEmpty then sp.data else sp.data.keep fun a => !new.contains (a / 64))
    valid := Store.setAll ((granulesMet ws).map fun g => (g, 1#1)) sp.valid
    erased := if sp.sound then sp.erased else Store.setAll ((wholeGranules ws).map fun g => (cellOfData g, sp.rewritten g)) sp.erased
    tentative := sp.tentative.over ws }

/-! ### Window stores of a TICK group that has not completed (R43, R108, R374) -/

/-- What a sender's writes have replaced is taken out of a list, newest first: what is left of it, and what stands again at the places that nothing has written since. -/
def takeOut {w : Nat} (me : Nat) : List (Replaced w) → List (Replaced w) × List (Nat × BitVec w)
  | [] => ([], [])
  | r :: rs =>
    let p := takeOut me rs
    match p.2.find? (fun x => x.1 == r.key), r.sender == me with
    | some _, true => p
    | none, true => (p.1, (r.key, r.old) :: p.2)
    | some x, false => ({ r with old := x.2 } :: p.1, p.2.filter fun y => y.1 != r.key)
    | none, false => (r :: p.1, p.2)

/-- A sender's writes stand: neither they nor what stood before them at their places is to be taken back. -/
def letStand {w : Nat} (me : Nat) (ks : List Nat) : List (Replaced w) → List (Replaced w)
  | [] => []
  | r :: rs =>
    if r.sender = me then letStand me (r.key :: ks) rs
    else if ks.contains r.key then letStand me ks rs
    else r :: letStand me ks rs

/-- A write of a window store; one of a TICK group that has not completed can be taken back. -/
def Scratch.writeOf (sp : Scratch) (sender : Option Nat) (ws : List (Nat × Byte)) : Scratch :=
  match sender with
  | none => sp.write ws
  | some m =>
    let t := sp.tentative
    { sp.write ws with tentative := { t with
        bytes := (ws.map fun w => w.1).eraseDups.map (fun e => { key := e, sender := m, old := sp.held e }) ++ t.bytes
        valid := (granulesMet ws).map (fun g => { key := g, sender := m, old := sp.valid.get g }) ++ t.valid
        marks := (wholeGranules ws).map (fun g => { key := cellOfData g, sender := m, old := sp.erased.get (cellOfData g) }) ++ t.marks } }

/-- The berm record that a list of touches makes of an earlier one. -/
def bermAfter (base : Option Berm) (ts : List (Option Nat × Berm)) : Option Berm := ts.foldl (fun b t => joinBerms b (some t.2)) base

/-- The tentative record, its berm touches dropped once none of them can be taken back. -/
def Tentative.trim (t : Tentative) : Tentative := if t.touches.any fun x => x.1.isSome then t else { t with base := none, touches := [] }

/-- The window stores of a sender are taken back: they have committed nothing (R108, R374). An error that a granule has met since stays. DEDUCED (log 15). -/
def Scratch.takeBackOf (sp : Scratch) (me : Nat) : Scratch :=
  let t := sp.tentative
  let b := takeOut me t.bytes
  let v := takeOut me t.valid
  let k := takeOut me t.marks
  let ts := t.touches.filter fun x => x.1 != some me
  let sp := { sp with
    data := Store.setAll b.2 sp.data
    valid := Store.setAll v.2 sp.valid
    erased := Store.setAll (k.2.filter fun x => sp.erased.get x.1 == 0 || sp.erased.get x.1 == 3) sp.erased
    berm := if ts.length = t.touches.length then sp.berm else bermAfter t.base ts
    tentative := { bytes := b.1, valid := v.1, marks := k.1, base := t.base, touches := ts : Tentative }.trim }
  (k.2.map fun x => x.1 / 18).eraseDups.foldl (fun sp r => sp.settleStripe r) sp

/-- The window stores of a sender stand (R108). -/
def Scratch.letStandOf (sp : Scratch) (me : Nat) : Scratch :=
  let t := sp.tentative
  { sp with tentative := { bytes := letStand me [] t.bytes, valid := letStand me [] t.valid, marks := letStand me [] t.marks
                           base := t.base, touches := t.touches.map fun x => if x.1 == some me then (none, x.2) else x : Tentative }.trim }

/-- The clearing of a TICK: granules outside carried buffers become invalid, and regions not wholly inside one are no longer compressed (R44, R50). -/
def Scratch.tickClear (sp : Scratch) (pool : List Entry256) : Scratch :=
  let keepG := fun g => inCarried pool g
  { sp with
    data := sp.data.keep fun e => keepG (e / 64)
    valid := sp.valid.keep keepG
    summary := sp.summary.keep fun n => regionCarried pool n
    table := sp.table.keep fun k => regionCarried pool (k / 16) }

/-! ### Locks (R51, R52) -/

/-- Tiles a byte range of length n from e meets. -/
def tilesOf (e n : Nat) : List Nat := if n = 0 then [] else (List.range ((e + n - 1) / 4096 + 1 - e / 4096)).map fun k => e / 4096 + k

/-- Is a read, or a write, of the tile held up by a lock? -/
def Scratch.lockedFor (sp : Scratch) (write : Bool) (tile : Nat) : Bool := sp.locks.any fun l => l.tile == tile && (l.write || write)

end Sys2Proof.Machine
end

