-- ==== Sys2Proof/Machine/Addr.lean ====
section
/-! DEFINITION. Scratchpad addresses of the slots that reach it, and their checks (R36, R248, R249, R289, R293, R297, R346). -/
namespace Sys2Proof.Machine

/-- Is a nest active, not suspended by a trap (R161)? -/
def StreamCore.nestActive (c : StreamCore) : Bool :=
  match c.pipe.loop with
  | some n => n.susp.isNone
  | none => false

/-- Loop index d; zero outside an active body (R248). -/
def StreamCore.loopIdx (c : StreamCore) (d : Nat) : Nat := if c.nestActive then (c.regs.idx.get d).toNat else 0

/-- An integer with its low n bits cleared. -/
def clearLow (n : Nat) (x : Int) : Int := x - x % ((2 ^ n : Nat) : Int)

/-! ### M1 syllables -/

/-- The nest entry a loop stream uses (R248). -/
def StreamCore.streamNest (c : StreamCore) (o : LMem) : Nat :=
  let rec_ := c.entry o.rcd.toNat
  if o.nest ≠ 0 then o.nest.toNat else if bit rec_ 199 then bits rec_ 198 191 else 0

/-- The byte offset within the record, for OFFM 0, 1 and 2 (R248). -/
def StreamCore.m1Off (c : StreamCore) (o : LMem) : Int :=
  match o.offm.toNat with
  | 1 => signed64 (c.sreg o.o.toNat) + o.imm23.toNat
  | 2 => nestOff (c.entry (c.streamNest o)) c.loopIdx + o.imm23.toNat
  | _ => o.imm23.toNat

/-- First byte of the record. -/
def StreamCore.recStart (c : StreamCore) (r : Nat) : Int := (64 * recBase (c.entry r) : Nat)

/-- The word each active lane of LD, ST, LDG or STG accesses. -/
def StreamCore.laneRefs (c : StreamCore) (h : Hdr) (o : LMem) : List (Nat × Int) :=
  (c.active h o.km).map fun L =>
    (L, if o.offm.toNat = 3 then clearLow 2 (c.recStart o.rcd.toNat + (c.vlane o.o.toNat L).toNat + o.imm23.toNat)
      else clearLow 2 (c.recStart o.rcd.toNat + c.m1Off o) + 4 * L)

/-- Bytes of a scalar access: 1, 2, 4 or 8 (R253). -/
def scalarBytes (h : Hdr) : Nat :=
  match hFmt h with
  | .int w _ => w / 8
  | _ => 8

/-- The bytes LDS and STS access. -/
def StreamCore.scalarRef (c : StreamCore) (h : Hdr) (o : LMem) : List (Nat × Int) :=
  [(0, clearLow ((scalarBytes h).log2) (c.recStart o.rcd.toNat + c.m1Off o))]

/-- Does the access meet a berm byte (R41)? -/
def StreamCore.bermAt (c : StreamCore) (e : Nat) : Bool := !inBuffer c.pool (e / 64)

/-- A fault of R249: cause code and TVAL. -/
abbrev SpFault := Nat × Word

/-- Check 3: the lowest access outside the scratchpad. DEDUCED (log 35). -/
def rangeFault (refs : List (Nat × Int)) : Option SpFault :=
  match refs.find? fun r => decide (r.2 < 0) || decide ((spBytes : Int) ≤ r.2) with
  | some r => some (0x21, BitVec.ofInt 64 r.2)
  | none => none

/-- Check 4: the lowest access that stores into a compressed region. -/
def StreamCore.compressedFault (c : StreamCore) (refs : List (Nat × Int)) : Option SpFault :=
  match refs.find? fun r => c.sp.compressed r.2.toNat with
  | some r => some (0x22, BitVec.ofInt 64 r.2)
  | none => none

/-- Granules that reads of n bytes at each place use; a berm byte is not read. A word of a sparse tile has granules of its own. -/
def StreamCore.refGranules (c : StreamCore) (refs : List (Nat × Int)) (n : Nat) : List Nat :=
  refs.flatMap fun r => if c.bermAt r.2.toNat then [] else c.sp.granulesOf r.2.toNat ++ if n = 8 then c.sp.granulesOf (r.2.toNat + 4) else []

/-- Check 5: the first uncorrectable granule that a read of n bytes at each place uses. -/
def StreamCore.lostFault (c : StreamCore) (refs : List (Nat × Int)) (n : Nat) : Option SpFault :=
  if c.sp.sound then none
  else
    match (c.refGranules refs n).find? fun g => c.sp.lost g with
    | some g => some (0x23, BitVec.ofNat 64 (64 * g))
    | none => none

def firstFault : List (Option SpFault) → Option SpFault
  | [] => none
  | some f :: _ => some f
  | none :: fs => firstFault fs

/-- The checks of R249 on an M1 load or store. -/
def StreamCore.m1Fault (c : StreamCore) (o : LMem) (store : Bool) (refs : List (Nat × Int)) (n : Nat) : Option SpFault :=
  let e := c.entry o.rcd.toNat
  firstFault
    [if recAccess e then none else some (0x20, o.rcd.setWidth 64),
     if o.offm.toNat = 2 && recKind (c.entry (c.streamNest o)) != 3 then some (0x20, BitVec.ofNat 64 (c.streamNest o)) else none,
     rangeFault refs,
     if store && recKind e == 1 then c.compressedFault refs else none,
     if store then none else c.lostFault refs n]

/-! ### Contiguous accesses of the A, C and D slots -/

/-- Places of a contiguous access: its first byte in each granule it meets. -/
def blockRefs (e : Int) (n : Nat) : List (Nat × Int) :=
  if n = 0 then [] else (List.range ((e + n - 1) / 64 + 1 - e / 64).toNat).map fun k => (k, max e (64 * (e / 64 + (k : Nat))))

/-- A scratchpad access of one run of bytes: record, first byte, length, whether it writes. -/
structure SpBlock where
  rcd : Nat
  start : Int
  len : Nat
  write : Bool

/-- Start of an A or C operand: 64 × BASE + sO + IMM23, low 6 bits cleared (R289, R297). -/
def StreamCore.blockStart (c : StreamCore) (rcd o : Nat) (imm : Nat) : Int := clearLow 6 (c.recStart rcd + signed64 (c.sreg o) + imm)

/-- The block an A, C or front syllable reads or writes. -/
def StreamCore.blockOf (c : StreamCore) : Instr → Option SpBlock
  | .mma h o => if o.srck.toNat = 0 then
      some { rcd := o.rcd.toNat, start := c.blockStart o.rcd.toNat o.o.toNat o.imm23.toNat
             len := 256 * (4 * (hFmt h).width c.q * (o.kst.toNat + 1)), write := false }
    else none
  | .ldw h o => some { rcd := o.rcd.toNat, start := c.blockStart o.rcd.toNat o.o.toNat o.imm23.toNat
                       len := 32 * (o.kst.toNat + 1) * (32 * (hFmt h).width c.q), write := false }
  | .scld _ o => some { rcd := o.rcd.toNat, start := c.blockStart o.rcd.toNat o.o.toNat o.imm23.toNat, len := 256, write := false }
  | .fsave _ o => some { rcd := bits o.imm.toNat 7 0, start := c.blockStart (bits o.imm.toNat 7 0) o.a.toNat (bits o.imm.toNat 30 8), len := 832, write := true }
  | .fload _ o => some { rcd := bits o.imm.toNat 7 0, start := c.blockStart (bits o.imm.toNat 7 0) o.a.toNat (bits o.imm.toNat 30 8), len := 832, write := false }
  | _ => none

/-- Scratch-range of an array operand, any byte of which lies outside: TVAL is e, its start (R289, R292). -/
def SpBlock.rangeFault (b : SpBlock) : Option SpFault :=
  if b.start < 0 || (spBytes : Int) < b.start + b.len then some (0x21, BitVec.ofInt 64 b.start) else none

/-- The bytes of a block as an M1 load reads them: berm bytes read zero (R41, R289). -/
def StreamCore.blockBytes (c : StreamCore) (b : SpBlock) : List Byte :=
  (List.range b.len).map fun i =>
    let e := (b.start + (i : Nat)).toNat
    if c.bermAt e then 0 else c.sp.byte e

/-- The first byte of a block that lies in a berm. -/
def StreamCore.firstBerm (c : StreamCore) (b : SpBlock) : Option Nat :=
  match (blockRefs b.start b.len).find? fun r => c.bermAt r.2.toNat with
  | some r => some r.2.toNat
  | none => none

/-- Granules a block read uses. -/
def StreamCore.blockGranules (c : StreamCore) (b : SpBlock) : List Nat :=
  ((blockRefs b.start b.len).flatMap fun r => if c.bermAt r.2.toNat then [] else
    if c.sp.compressed r.2.toNat then
      ((List.range 16).map fun k => r.2.toNat / 64 * 64 + 4 * k).flatMap fun (a : Nat) =>
        if decide (b.start < (a : Int) + 4) && decide ((a : Int) < b.start + b.len) then c.sp.granulesOf a else []
    else [r.2.toNat / 64]).eraseDups

/-- Scratch-uncorrectable of a block read. -/
def StreamCore.blockLost (c : StreamCore) (b : SpBlock) : Option SpFault :=
  if c.sp.sound then none
  else match (c.blockGranules b).find? fun g => c.sp.lost g with
    | some g => some (0x23, BitVec.ofNat 64 (64 * g))
    | none => none

/-! ### Locked tiles (R52) -/

/-- The lanes or bytes an M1 syllable accesses, the bytes of each, and whether it stores. -/
def StreamCore.m1Refs (c : StreamCore) : Instr → Option (LMem × List (Nat × Int) × Nat × Bool)
  | .ld h o => some (o, c.laneRefs h o, 4, false)
  | .st h o => some (o, c.laneRefs h o, 4, true)
  | .ldg h o => some (o, c.laneRefs h o, 4, false)
  | .stg h o => some (o, c.laneRefs h o, 4, true)
  | .lds h o => some (o, c.scalarRef h o, scalarBytes h, false)
  | .sts h o => some (o, c.scalarRef h o, scalarBytes h, true)
  | _ => none

/-- Is a store through this record a window store (R250)? -/
def StreamCore.windowRec (c : StreamCore) (r : Nat) : Bool := recKind (c.entry r) == 2

/-- Does the syllable touch a tile of its core's scratchpad locked against it? A window store does where its record names the core itself (R52). -/
def StreamCore.lockHeld (c : StreamCore) (i : Instr) : Bool :=
  if c.sp.locks.isEmpty then false
  else match c.m1Refs i with
    | some (o, refs, _, store) => !(store && c.windowRec o.rcd.toNat && !bit (recMembers (c.entry o.rcd.toNat)) c.seat.member) && refs.any fun r => decide (0 ≤ r.2) && c.sp.lockedFor store (r.2.toNat / 4096)
    | none => match c.blockOf i with
      | some b => decide (0 ≤ b.start) && (tilesOf b.start.toNat b.len).any fun t => c.sp.lockedFor b.write t
      | none => false

/-- Does the syllable read a granule of a failed bank, whose rebuilding may need a bank cycle that another access holds (R35)? DEDUCED (log 24). -/
def StreamCore.rebuilds (c : StreamCore) (i : Instr) : Bool :=
  if c.sp.failedBanks.isEmpty then false
  else match c.m1Refs i with
    | some (_, refs, n, store) => !store && (c.refGranules (refs.filter fun r => decide (0 ≤ r.2)) n).any fun g => c.sp.failedBanks.contains (g % 16)
    | none => match c.blockOf i with
      | some b => !b.write && decide (0 ≤ b.start) && (c.blockGranules b).any fun g => c.sp.failedBanks.contains (g % 16)
      | none => false

end Sys2Proof.Machine
end

