-- ==== Sys2Proof/Machine/Elements.lean ====
section
/-! DEFINITION. Operations on single elements and on latch words (R259, R261, R276, R277). -/
namespace Sys2Proof.Machine

/-- Canonical NaN of a format that has one. -/
def nanCode (f : Fmt) : Nat := ((fspec f).bind fun s => s.nan).getD 0

/-- Numeric order with −0 below +0 (R261). -/
def ltSigned (a b : Val) : Bool := a.ltb b || (a.isZero && b.isZero && a.neg? && !b.neg?)

/-- The lesser or greater of two elements, the chosen operand unchanged; NaN if either is NaN (R261). -/
def minMaxCode (f : Fmt) (q : QFmt) (wantMax : Bool) (a b : Nat) : Nat :=
  let x := decodeElem f q a
  let y := decodeElem f q b
  if x.isNan || y.isNan then nanCode f
  else if f == .q then
    -- the reserved code is read as SUBST and never produced (R90)
    fitInt f q false (if wantMax then max (readQ q a) (readQ q b) else min (readQ q a) (readQ q b))
  else if wantMax then (if ltSigned x y then b else a)
  else (if ltSigned y x then b else a)

/-- Fit an exact element result (R259). -/
def fitElem (f : Fmt) (q : QFmt) (mode r : Nat) (v : Val) : Nat := fitVal f q mode r f.isIntLike v

/-! ### Latch words (R276, R277) -/

/-- The format in which a latch word is read. -/
def WordKind.fmt : WordKind → Fmt
  | .f32 => .f32
  | .s32 => .int 32 true
  | .n32 => .int 32 false

/-- .q has no part in 32-bit words. -/
def q8 : QFmt := { w := 8, sg := true, rsv := false, subst := 0 }

def WordKind.val (k : WordKind) (x : Lane) : Val := decodeElem k.fmt q8 x.toNat

/-- Fit an exact sum to a latch word: one rounding, or wrap or saturate (R276). -/
def WordKind.fit (k : WordKind) (sat : Bool) (v : Val) : Lane :=
  BitVec.ofNat 32 (fitVal k.fmt q8 (if sat then 1 else 0) 0 k.fmt.isIntLike v)

def WordKind.pick (k : WordKind) (wantMax : Bool) (a b : Lane) : Lane := BitVec.ofNat 32 (minMaxCode k.fmt q8 wantMax a.toNat b.toNat)

/-- The greatest or least of a latch word and its inputs; any NaN makes it the canonical NaN. -/
def WordKind.fold (k : WordKind) (wantMax : Bool) (x : Lane) (ins : List Lane) : Lane := ins.foldl (fun a b => k.pick wantMax a b) x

/-- Is candidate x picked over y by R277: least value, then least index, NaN above +∞? Of -0 and +0 under one index -0 is picked, so that the order of arrival does not matter: the manual says that it does not and not which is kept. DESIGN CHOICE (log 60). -/
def WordKind.candBefore (k : WordKind) (x y : Lane × Lane) : Bool :=
  let a := k.val x.1
  let b := k.val y.1
  if a.isNan then b.isNan && decide (x.2.toNat < y.2.toNat)
  else if b.isNan then true
  else a.ltb b || (!b.ltb a && (decide (x.2.toNat < y.2.toNat) || (x.2 == y.2 && decide (y.1.toNat < x.1.toNat))))

/-- A word as a result: an f32 NaN is the canonical NaN, whatever NaN it comes from (R84). -/
def WordKind.canonical (k : WordKind) (w : Lane) : Lane := if (k.val w).isNan then BitVec.ofNat 32 nan32 else w

/-- The candidate R277 picks, its word as a result. -/
def WordKind.pickCand (k : WordKind) (x : Lane × Lane) (ins : List (Lane × Lane)) : Lane × Lane :=
  let p := ins.foldl (fun a b => if k.candBefore b a then b else a) x
  (k.canonical p.1, p.2)

/-- The 32-bit word an element widens to in a latch (R276). -/
def latchKind : Fmt → WordKind
  | .int _ true => .s32
  | .int _ false => .n32
  | _ => .f32

def widenElem (f : Fmt) (c : Nat) : Lane :=
  match f with
  | .f32 => BitVec.ofNat 32 c
  | .int w sg => BitVec.ofInt 32 (asInt w sg c)
  | f => BitVec.ofNat 32 (f32Of false (decodeElem f q8 c))

/-! ### Draws (R94, R95) -/

/-- Draw from a lane's generator: the value and the next state. -/
def drawLane (gen : Store 32) (L : Nat) : Nat × Store 32 :=
  let st := genNext (gen.get L)
  (genDraw st, gen.set L st)

/-- Round a list of exact element results of one lane, drawing where R94 requires it. -/
def roundList (f : Fmt) (q : QFmt) (mode : Nat) (fromInt : Bool) (L : Nat) : List Val → Store 32 → List Nat × Store 32
  | [], gen => ([], gen)
  | v :: vs, gen =>
    if mode == 3 && needsDraw f fromInt v then
      let d := drawLane gen L
      let r := roundList f q mode fromInt L vs d.2
      (fitVal f q mode d.1 fromInt v :: r.1, r.2)
    else
      let r := roundList f q mode fromInt L vs gen
      (fitVal f q mode 0 fromInt v :: r.1, r.2)

/-- Generators of every lane, seeded (R95). -/
def seedGens (seed now : Word) : Store 32 := Store.setAll ((List.range 128).map fun L => (L, genSeed seed now L)) []

end Sys2Proof.Machine
end

