-- ==== Sys2Proof/Machine/Array.lean ====
section
/-! DEFINITION. The matrix array: operands, K-steps, tiles, block scales (R88, R99 to R101, R286 to R296). -/
namespace Sys2Proof.Machine

/-- Key of row r, column n of accumulator tile t. -/
def accKey (t r n : Nat) : Nat := (t * 256 + r) * 256 + n

/-- The value of an E8M0 code: none for the NaN code, else the exponent of two (R88). -/
def scaleExp (b : Byte) : Option Int := if b = 0xFF then none else some ((b.toNat : Int) - 127)

/-- b of R286: the row-block K-step time of a format (R101). -/
def stepTime (q : QFmt) : Fmt → Nat
  | .f16 => 8
  | .bf16 => 8
  | .mx .e2m1 => 1
  | .q => if q.w ≤ 4 then 1 else 2
  | _ => 2

/-- One row of an operand: the list of element codes of K-step t, with element k at bit k × w (R289). -/
def rowCodes (w row t : Nat) : List Nat := (List.range 32).map fun k => bits row (w * (32 * t + k) + w - 1) (w * (32 * t + k))

/-- A K-step on an f32 accumulator (R99). -/
def kstepFloat (sat : Bool) (acc : Lane) (ps : List Val) (sa sb : Option Int) : Lane :=
  let blk : Val := match sa, sb with
    | some x, some y =>
      if ps.any Val.isNan then .nan
      else if (ps.any fun p => p.isInf && p.neg?) && (ps.any fun p => p.isInf && !p.neg?) then .nan
      else match ps.find? Val.isInf with
        | some p => p
        | none => f32Val (f32Of sat ((Val.sum ps).scale (x + y)))
    | _, _ => .nan
  BitVec.ofNat 32 (f32Of sat ((f32Val acc.toNat).add blk))

/-- A K-step on an i32 accumulator (R100). -/
def kstepInt (sat : Bool) (acc : Lane) (ps : List Int) : Lane :=
  let x := acc.toInt + ps.foldl (· + ·) 0
  BitVec.ofNat 32 (if sat then lowBits 32 (clampInt x (minInt 32 true) (maxInt 32 true)) else lowBits 32 x)

/-- The format of the loaded weights (R293). -/
def WBuf.fmt (w : WBuf) : Fmt := (w.fcode.bind fmtOf).getD .f16
def WBuf.q (w : WBuf) : QFmt := qFmtOf w.fmtr

/-- Element n of weight row k. -/
def WBuf.code (w : WBuf) (k n : Nat) : Nat :=
  let b := w.fmt.width w.q
  bits (nth w.rows k 0) (b * n + b - 1) (b * n)

/-- The accumulator words that K-step t of row block g leaves (R290). -/
def Job.commit (j : Job) (m : Store 32) (t g : Nat) : List (Nat × Lane) :=
  (List.range 16).flatMap fun i =>
    let r := 16 * g + i
    match j.rows[r]? with
    | none => []
    | some row =>
      let a := rowCodes j.aw row t
      (List.range 256).map fun n =>
        let acc := m.get (accKey j.mt r n)
        let b := (List.range 32).map fun k => j.w.code (32 * t + k) n
        let x := if j.fa.isIntLike then kstepInt j.sat acc ((a.zip b).map fun p => readInt j.fa j.qa p.1 * readInt j.w.fmt j.w.q p.2)
          else
            let sa := if j.fa.isMx then scaleExp (nth (nth j.scales t []) r 0) else some 0
            let sb := if j.w.fmt.isMx then scaleExp (nth (nth j.w.scales t []) n 0) else some 0
            kstepFloat j.sat acc ((a.zip b).map fun p => (decodeElem j.fa j.qa p.1).mul (decodeElem j.w.fmt j.w.q p.2)) sa sb
        (accKey j.mt r n, x)

/-- A list of bytes as one little-endian bit string. -/
def bitString (bs : List Byte) : Nat := leNat bs

end Sys2Proof.Machine
end

