-- ==== Sys2Proof/Machine/Fronts.lean ====
section
/-! DEFINITION. Pareto fronts: order, dominance, insertion, images (R331 to R347). -/
namespace Sys2Proof.Machine

def Tuple.obj (t : Tuple) (j : Nat) : Nat :=
  match j with
  | 0 => t.o0.toNat
  | 1 => t.o1.toNat
  | 2 => t.o2.toNat
  | _ => t.o3.toNat

/-- Fields of a configuration word (R332). -/
def cfgArity (w : BitVec 40) : Nat := bits w.toNat 1 0 + 1
def cfgDir (w : BitVec 40) (j : Nat) : Nat := bits w.toNat (3 + 2 * j) (2 + 2 * j)
def cfgKind (w : BitVec 40) (j : Nat) : Nat := bits w.toNat (11 + 2 * j) (10 + 2 * j)
def cfgTie (w : BitVec 40) : Bool := bit w.toNat 18
def cfgOvf (w : BitVec 40) : Nat := bits w.toNat 20 19
def cfgCap (w : BitVec 40) : Nat := bits w.toNat 26 21 + 1
/-- The counted objectives. -/
def cfgCounted (w : BitVec 40) : List Nat := (List.range (cfgArity w)).filter fun j => cfgDir w j != 0

/-- The number an objective stands for (R333). -/
def objVal (w : BitVec 40) (t : Tuple) (j : Nat) : Val :=
  match cfgKind w j with
  | 0 => Val.ofInt (t.obj j)
  | 1 => Val.ofInt (asInt 16 true (t.obj j))
  | 2 => f16Val (t.obj j)
  | _ => bf16Val (t.obj j)

/-- x is better than y in objective j. -/
def betterIn (w : BitVec 40) (j : Nat) (x y : Tuple) : Bool :=
  if cfgDir w j = 1 then (objVal w x j).ltb (objVal w y j) else (objVal w y j).ltb (objVal w x j)

/-- x dominates y (R333). -/
def dominates (w : BitVec 40) (x y : Tuple) : Bool :=
  ((cfgCounted w).all fun j => !betterIn w j y x) && (cfgCounted w).any fun j => betterIn w j x y

/-- x ties y (R333). -/
def ties (w : BitVec 40) (x y : Tuple) : Bool := (cfgCounted w).all fun j => !betterIn w j x y && !betterIn w j y x

/-- x ranks before y by its counted objectives, then its payload; entries equal in both keep their ages' order (R334). -/
def lexBefore (w : BitVec 40) (x y : Tuple) : Bool :=
  match (cfgCounted w).find? fun j => betterIn w j x y || betterIn w j y x with
  | some j => betterIn w j x y
  | none => decide (x.payload.toNat < y.payload.toNat)

/-- Entries in lexicographic order; the sort keeps the order of equals, which is that of their ages. -/
def lexSort (w : BitVec 40) (es : List Tuple) : List Tuple := sortBy (lexBefore w) es

/-- An entry's objectives at or above the arity are zero (R335). -/
def trimTuple (w : BitVec 40) (t : Tuple) : Tuple :=
  { t with
    o1 := if 1 < cfgArity w then t.o1 else 0
    o2 := if 2 < cfgArity w then t.o2 else 0
    o3 := if 3 < cfgArity w then t.o3 else 0 }

def satInc16 (x : BitVec 16) : BitVec 16 := if x = 0xFFFF then x else x + 1

/-- The index of the lexicographically worst entry: the last of the order. -/
def worstIx (w : BitVec 40) : List Tuple → Nat
  | [] => 0
  | x :: xs => if xs.all fun y => lexBefore w y x then 0 else 1 + worstIx w xs

/-- Insert one tuple (R335). The flag tells an overflow under OVF 0b10, whose insertion is not made; `asReject` treats it as a reject (R347). -/
def Front.insert (w : BitVec 40) (asReject : Bool) (f : Front) (x0 : Tuple) : Front × Bool :=
  let x := trimTuple w x0
  if (cfgCounted w).any fun j => (objVal w x j).isNan then ({ f with rej := satInc16 f.rej }, false)
  else if f.es.any fun e => dominates w e x then (f, false)
  else if !cfgTie w && f.es.any fun e => ties w e x then (f, false)
  else
    let es := f.es.filter fun e => !dominates w x e
    if es.length < cfgCap w then ({ f with es := es ++ [x] }, false)
    else if cfgOvf w = 1 then
      let all := es ++ [x]
      let k := worstIx w all
      if k = es.length then ({ f with es := es, rej := satInc16 f.rej }, false)
      else ({ f with es := all.eraseIdx k, evi := satInc16 f.evi }, false)
    else if cfgOvf w = 2 && !asReject then ({ f with es := es }, true)
    else ({ f with es := es, rej := satInc16 f.rej }, false)

/-- Insert a list in order, stopping at an overflow; the position of the overflow (R344). -/
def Front.insertAll (w : BitVec 40) (asReject : Bool) : List (Nat × Tuple) → Front → Front × Option Nat
  | [], f => (f, none)
  | (L, x) :: xs, f =>
    let r := f.insert w asReject x
    if r.2 then (r.1, some L) else Front.insertAll w asReject xs r.1

/-- Insertions of which a refused one is dropped, and how many were refused (R324). -/
def Front.insertDrop (f : Front) : List Tuple → Front × Nat
  | [] => (f, 0)
  | x :: xs => match f.cfg with
    | none => (f, xs.length + 1)
    | some w =>
      let r := f.insert w false x
      let t := Front.insertDrop r.1 xs
      (t.1, t.2 + if r.2 then 1 else 0)

/-- A change of a front on its landing cycle: the new front and an overflow report's bits 15:8 (R343, R344). -/
def Front.apply (f : Front) : FrontOp → Front × Option Nat
  | .config w => ({ cfg := some w, es := [], rej := 0, evi := 0 }, none)
  | .clear unconf => ({ cfg := if unconf then none else f.cfg, es := [], rej := 0, evi := 0 }, none)
  | .insert ts => match f.cfg with
    | none => (f, none)
    | some w => f.insertAll w false ts
  | .replace g o => (g, if o then some 0xFF else none)
  | .load cfg rej evi es => match cfg with
    | none => (Front.empty, none)
    | some w => ((Front.insertAll w true (es.map fun t => (0, t)) { cfg := cfg, es := [], rej := rej, evi := evi }).1, none)

/-- The merge of two fronts (R339). -/
def Front.merge (w : BitVec 40) (a b : Front) : Front × Bool :=
  let r := a.insertAll w false ((lexSort w b.es).map fun t => (0, t))
  (r.1, r.2.isSome)

/-- The FCNT word (R341). -/
def Front.count (f : Front) : Word :=
  BitVec.ofNat 64 (f.evi.toNat * 2 ^ 32 + f.rej.toNat * 2 ^ 16 + (if f.cfg.isSome then 128 else 0) + f.es.length)

/-- Entries in the order FPEEL and FSAVE read them. -/
def Front.ordered (f : Front) : List Tuple :=
  match f.cfg with
  | some w => lexSort w f.es
  | none => []

/-- The 832-byte image (R346). -/
def Front.image (f : Front) : List Byte :=
  let es := f.ordered
  leBytes 5 (match f.cfg with
    | some w => w.toNat
    | none => 0) ++ leBytes 1 ((if f.cfg.isSome then 128 else 0) + es.length) ++ leBytes 2 f.rej.toNat ++ leBytes 2 f.evi.toNat ++
    List.replicate 54 0 ++ ((List.range 64).map fun i => match es[i]? with
      | some t => leBytes 2 t.o0.toNat ++ leBytes 2 t.o1.toNat ++ leBytes 2 t.o2.toNat ++ leBytes 2 t.o3.toNat ++ leBytes 4 t.payload.toNat
      | none => List.replicate 12 0).flatten

/-- What FLOAD makes of an image: none when the image is refused (R347). -/
def imageOp (b : List Byte) : Option FrontOp :=
  let le := fun i n => leNat (slice b i n)
  let w := BitVec.ofNat 40 (le 0 5)
  let conf := bit (le 5 1) 7
  let n := le 5 1 % 128
  if (conf && !frontCfgOk w) || decide (64 < n) then none
  else some (.load (if conf then some w else none) (BitVec.ofNat 16 (le 6 2)) (BitVec.ofNat 16 (le 8 2))
    ((List.range n).map fun i =>
      let k := 64 + 12 * i
      { o0 := BitVec.ofNat 16 (le k 2), o1 := BitVec.ofNat 16 (le (k + 2) 2), o2 := BitVec.ofNat 16 (le (k + 4) 2), o3 := BitVec.ofNat 16 (le (k + 6) 2)
        payload := BitVec.ofNat 32 (le (k + 8) 4) }))

end Sys2Proof.Machine
end

