-- ==== Sys2Proof/Machine/Effects.lean ====
section
/-! DEFINITION. What a result in flight does to its core on its landing cycle (R173, R185, R275, R291, R343). -/
namespace Sys2Proof.Machine

/-- Key of lane j of cluster-vector v of cluster cl in a sample. -/
def tapKey (cl v j : Nat) : Nat := (cl * 8 + v) * 16 + j

/-- SIGID of an instance (R4). -/
def Sig.id (g : Sig) : Nat := bits g.desc.toNat 127 120

/-- The instance of a signal a core holds. -/
def StreamCore.sig (c : StreamCore) (id : Nat) : Option Sig := c.taps.find? fun g => g.id == id

/-- Change the signal instance of a core with the given SIGID. -/
def onSig (c : StreamCore) (sig : Nat) (f : Sig → Sig) : StreamCore :=
  { c with taps := c.taps.map fun g => if (g.desc.extractLsb' 120 8).toNat = sig then f g else g }

/-- Change the face of a signal. A written face is a new sample as far as its soft error goes (R30). DEDUCED (log 24). -/
def Sig.onFace (g : Sig) (f : Store 32 → Store 32) : Sig :=
  match g.samples with
  | [] => g
  | x :: xs => { g with samples := { words := f x.words, bad := none } :: xs }

/-- Write a special register (R184, R215); a SEED write reseeds the lane generators (R95). -/
def StreamCore.setSpecial (c : StreamCore) (n : Nat) (w : Word) : StreamCore :=
  let v := w &&& specialMask n
  match n with
  | 3 => { c with sys := { c.sys with tvec := v } }
  | 4 => { c with sys := { c.sys with tcause1 := v } }
  | 5 => { c with sys := { c.sys with tcause2 := v } }
  | 6 => { c with sys := { c.sys with tret1 := v } }
  | 7 => { c with sys := { c.sys with tret2 := v } }
  | 8 => { c with sys := { c.sys with tval1 := v } }
  | 9 => { c with sys := { c.sys with tval2 := v } }
  | 10 => { c with sys := { c.sys with tglen1 := v } }
  | 11 => { c with sys := { c.sys with tglen2 := v } }
  | 12 => { c with sys := { c.sys with ctrl := v } }
  | 14 => { c with sys := { c.sys with seed := v }, regs := { c.regs with gen := seedGens v c.sys.now } }
  | 18 => { c with sys := { c.sys with rotw := v } }
  | _ => c

/-- Keys of the cluster registers a list of lane writes reaches: cluster × 64 + physical register. A landing with no active lane in a cluster leaves that cluster's operand cache as it was (R177). DESIGN CHOICE (log 55). -/
def touchedRegs (ws : List (Nat × Lane)) : List Nat := (ws.map fun w => w.1 / 16).eraseDups

/-- Write lane words; a landing in a register ends its stay in the operand cache (R177). -/
def StreamCore.writeLanes (c : StreamCore) (ws : List (Nat × Lane)) : StreamCore :=
  { c with
    regs := { c.regs with v := Store.setAll ws c.regs.v }
    pipe := { c.pipe with cache := c.pipe.cache.filter fun k => !(touchedRegs ws).contains k } }

/-- Write a scalar; writes to s0 are discarded (R148). -/
def StreamCore.writeS (c : StreamCore) (n : Nat) (v : Word) : StreamCore :=
  if n = 0 then c else { c with regs := { c.regs with s := c.regs.s.set n v } }

/-- Write a physical q register (R156, R216). -/
def StreamCore.writeQ (c : StreamCore) (n : Nat) (null : Bool) (v : Word) : StreamCore :=
  { c with regs := { c.regs with q := c.regs.q.set n (if null then 0 else v), qlive := c.regs.qlive.set n (if null then 0 else 1) } }

/-- The sixteen words of a latch. -/
def StreamCore.latchWords (c : StreamCore) (l : Nat) : List Lane := (List.range 16).map fun j => c.regs.l.get (l * 16 + j)

/-- A latch update (R276, R277): a lane without an active input stays as it stood. -/
def StreamCore.updateLatch (c : StreamCore) (l : Nat) (op : LatchOp) (ins : List (List (Lane × Lane))) : StreamCore :=
  let ws := (ins.mapIdx fun j xs =>
    let old := c.regs.l.get (l * 16 + j)
    if xs.isEmpty then []
    else match op with
      | .sum k sat => [(l * 16 + j, k.fit sat (Val.sum (k.val old :: xs.map fun x => k.val x.1)))]
      | .max k => [(l * 16 + j, k.fold true old (xs.map fun x => x.1))]
      | .min k => [(l * 16 + j, k.fold false old (xs.map fun x => x.1))]
      | .minIdx k =>
        let r := k.pickCand (old, c.regs.l.get ((l + 1) * 16 + j)) xs
        [(l * 16 + j, r.1), ((l + 1) * 16 + j, r.2)]).flatten
  { c with regs := { c.regs with l := Store.setAll ws c.regs.l } }

/-- The overflow report of R344. -/
def overflowWord (front : Nat) (lane : Nat) : Word := BitVec.ofNat 64 (lane * 256 + front)

/-- Apply a front change and keep its overflow report (R343, R344). -/
def StreamCore.changeFront (c : StreamCore) (n : Nat) (op : FrontOp) : StreamCore :=
  let r := (c.front n).apply op
  { c with
    regs := { c.regs with fronts := modifyNth c.regs.fronts n fun _ => r.1 }
    pipe := match r.2 with
      | some L => { c.pipe with overflow := c.pipe.overflow ++ [overflowWord n L] }
      | none => c.pipe }

/-- One TWRA word: the elements of the face and of the operand added under the format (R243). -/
def addWord (f : Fmt) (q : QFmt) (mode : Nat) (face x : Lane) (draws : List Nat) : Lane :=
  let w := f.slotBits q
  packElems w (((elemsOf w face).zip (elemsOf w x)).mapIdx fun e p =>
    fitElem f q mode (nth draws e 0) ((decodeElem f q p.1).add (decodeElem f q p.2)))

/-- A scoreboard decrement (R174). -/
def StreamCore.sbDown (c : StreamCore) (n : Nat) : StreamCore :=
  { c with regs := { c.regs with sb := c.regs.sb.set n (if c.regs.sb.get n = 0 then 0 else c.regs.sb.get n - 1) } }

/-- A scoreboard increment (R174). -/
def StreamCore.sbUp (c : StreamCore) (n : Nat) : StreamCore := { c with regs := { c.regs with sb := c.regs.sb.set n (c.regs.sb.get n + 1) } }

/-- Apply an effect to its core. -/
def StreamCore.apply (c : StreamCore) : Eff → StreamCore
  | .sreg n v => c.writeS n v
  | .vecs ws => c.writeLanes ws
  | .vecBits ws => c.writeLanes (ws.map fun w => (w.1, (c.regs.v.get w.1 &&& ~~~w.2.1) ||| (w.2.2 &&& w.2.1)))
  | .kbits n mask val => { c with regs := { c.regs with k := c.regs.k.set n ((c.regs.k.get n &&& ~~~mask) ||| (val &&& mask)) } }
  | .qreg n null v => c.writeQ n null v
  | .sys n v => c.setSpecial n v
  | .latch l op ins => c.updateLatch l op ins
  | .latchSet l v => { c with regs := { c.regs with l := Store.setAll ((List.range 16).map fun j => (l * 16 + j, v)) c.regs.l } }
  | .bypass ws => { c with regs := { c.regs with byp := Store.setAll (withKeys 0 ws) c.regs.byp } }
  | .front n op => c.changeFront n op
  | .acc ws => { c with regs := { c.regs with m := Store.setAll ws c.regs.m } }
  | .accClear t => { c with regs := { c.regs with m := c.regs.m.keep fun k => decide (k / 65536 ≠ t) } }
  | .commit job t g => match c.jobs.find? fun j => j.uid == job with
    | some j => { c with regs := { c.regs with m := Store.setAll (j.commit c.regs.m t g) c.regs.m } }
    | none => c
  | .tapWrite sig ws => onSig c sig fun g => g.onFace fun w => Store.setAll ws w
  | .tapAdd sig f q mode ws => onSig c sig fun g => g.onFace fun w =>
      Store.setAll (ws.map fun x => (x.1, addWord f q mode (w.get x.1) x.2.1 x.2.2)) w
  | .store ws => { c with sp := c.sp.write ws }
  | .scale ws => { c with regs := { c.regs with sc := Store.setAll ws c.regs.sc } }
  | .sb n => c.sbDown n
  | .mmode => { c with sys := { c.sys with mmode := c.sys.amode } }
  | .nextWait n => c.writeQ n true 0
  | .nextDone n _ v => c.writeQ n false v
  | .growWait _ _ _ => c
  | .growDone d k bound refused _ => (c.writeS d bound).writeS k refused

/-- Is the effect an array commit? Commits land before every other landing of their cycle (R291). -/
def Eff.isCommit : Eff → Bool
  | .commit _ _ _ => true
  | _ => false

/-- Is it a scoreboard decrement? -/
def Eff.isSb : Eff → Bool
  | .sb _ => true
  | _ => false

/-- Does the effect change an accumulator tile? -/
def Eff.isTile : Eff → Bool
  | .commit _ _ _ => true
  | .acc _ => true
  | .accClear _ => true
  | _ => false

/-- Is the effect a front change (R345)? -/
def Eff.isFront : Eff → Bool
  | .front _ _ => true
  | _ => false

end Sys2Proof.Machine
end

