-- ==== Sys2Proof/Machine/Rings.lean ====
section
/-! DEFINITION. Rings, their records, the status registers and completion records (R392, R393, R404 to R409). -/
namespace Sys2Proof.Machine

/-! ### Entries -/

/-- A field of a record: first byte, number of bytes, value. -/
abbrev RecField := Nat × Nat × Nat

/-- The 64 bytes of an entry with the given fields, little-endian, every other byte zero (R406). -/
def entryBytes (fs : List RecField) : List Byte :=
  (List.range 64).map fun i =>
    match fs.find? fun f => decide (f.1 ≤ i) && decide (i < f.1 + f.2.1) with
    | some f => BitVec.ofNat 8 (f.2.2 / 256 ^ (i - f.1))
    | none => 0

/-- A record before it has its place on a ring: TYPE, source kind, CORE, TASK, and the payload of each entry. -/
structure Record where
  typ : Nat
  src : Nat
  core : Nat
  task : Nat
  ents : List (List RecField)

/-- CORE and TASK of a record that has none (R406). -/
def noneId : Nat := 0xFFFF

/-- Scheduler time in units of 1,024 cycles (R365). -/
def clock (s : State) : Nat := s.wall / 1024 % 2 ^ 32

/-- The entries of a record with sequence number `seq` at time `time`. -/
def Record.entries (r : Record) (seq time : Nat) : List (List Byte) :=
  r.ents.mapIdx fun i fs => entryBytes ([(0, 1, r.typ), (1, 1, i), (2, 1, r.ents.length), (3, 1, r.src), (4, 2, r.core), (6, 2, r.task), (8, 4, seq), (12, 4, time)] ++ fs)

/-! ### Indices (R404) -/

/-- Entries held. -/
def Ring.held (r : Ring) : Nat := (r.tail - r.head).toNat

/-- Ends of the device records of which the ring still holds an entry. -/
def Ring.kept (r : Ring) : List (BitVec 32) := r.ends.filter fun e => e != r.head && decide ((e - r.head).toNat ≤ r.held)

/-- A record has been written up to TAIL. -/
def Ring.close (r : Ring) : Ring := { r with seq := r.seq + 1, ends := r.kept ++ [r.tail] }

/-- Room for n more entries. -/
def Ring.room (r : Ring) (n : Nat) : Bool := decide (r.size ≠ 0) && decide (r.held + n ≤ 2 ^ r.size)

/-- Address of entry i. -/
def Ring.slot (r : Ring) (i : BitVec 32) : Nat := r.base + 64 * (i.toNat % 2 ^ r.size)

def Func.ring (f : Func) (r : Nat) : Ring := nth f.rings r Ring.reset

def onRing (s : State) (fn r : Nat) (g : Ring → Ring) : State := onFn s fn fun f => { f with rings := modifyNth f.rings r g }

/-- A saturating 32-bit count. -/
def sat32 (n : Nat) : Nat := min n (2 ^ 32 - 1)

/-! ### MSI-X (R392) -/

/-- Is a core of the function bound? -/
def running (s : State) (fn : Nat) : Bool := (allCores s).any fun c => c.seat.status != .free && c.seat.fn == fn

/-- Send a message, or hold it while no core of the function is bound. -/
def sendMsix (s : State) (fn v : Nat) : State :=
  if running s fn then { s with outbox := s.outbox ++ [.msix fn v] }
  else onFn s fn fun f => { f with msixHeld := f.msixHeld ++ [v] }

/-- Send the held messages of a function (R392). -/
def releaseMsix (s : State) (fn : Nat) : State :=
  match fnOf s fn with
  | none => s
  | some f => onFn { s with outbox := s.outbox ++ f.msixHeld.map fun v => Output.msix fn v } fn fun f => { f with msixHeld := [] }

/-! ### Device producers -/

/-- Write entries at TAIL, advance TAIL, send the ring's message (R404). -/
def writeEntries (s : State) (fn r : Nat) : List (List Byte) → State
  | [] => s
  | e :: es =>
    match fnOf s fn with
    | none => s
    | some f =>
      let ring := f.ring r
      writeEntries (onRing (writeSysAt s (ring.slot ring.tail) e) fn r fun g => { g with tail := g.tail + 1 }) fn r es

/-- A record of a function in reset is discarded and counted (R392). -/
def discardRecord (s : State) (fn r : Nat) : State := onRing s fn r fun g => { g with disc := min (g.disc + 1) 65535 }

/-- Put a record on a ring other than ring 2 if it fits, else count it in DROP; in reset it is discarded. The result also gives whether it needs no record of a drop, its SEQ and its first entry. -/
def pushRecord (s : State) (fn r : Nat) (rec : Record) : State × Bool × Nat × List Byte :=
  match fnOf s fn with
  | none => (s, true, 0, [])
  | some f =>
    let ring := f.ring r
    let es := rec.entries ring.seq.toNat (clock s)
    let first := nth es 0 []
    if f.resetting then (discardRecord s fn r, true, 0, first)
    else if ring.room es.length then
      (sendMsix (onRing (writeEntries s fn r es) fn r Ring.close) fn r, true, ring.seq.toNat, first)
    else (onRing s fn r fun g => { g with drop := sat32 (g.drop + 1) }, false, 0, first)

/-- A status bit a record sets: in CESTA or UESTA, and its number (R405). -/
structure StatusBit where
  ce : Bool
  bit : Nat

def setBitW (w : BitVec 64) (b : Nat) : BitVec 64 := w ||| BitVec.ofNat 64 (2 ^ b)

/-- Set a status bit (R405); `event` writes the event record of TYPE 4 that a bit going from 0 to 1 gives rise to. -/
def setStatus (event : State → Record → State) (s : State) (fn : Nat) (b : StatusBit) (seq : Nat) (first : List Byte) : State :=
  match fnOf s fn with
  | none => s
  | some f =>
    let was := if b.ce then f.cesta.getLsbD b.bit else f.uesta.getLsbD b.bit
    let s := onFn s fn fun f =>
      if b.ce then { f with cesta := setBitW f.cesta b.bit }
      else
        let log := !(f.uemsk.getLsbD b.bit) && !f.hdrTaken
        { f with uesta := setBitW f.uesta b.bit, hdrlog := if log then first else f.hdrlog, hdrTaken := f.hdrTaken || log }
    if was then s
    else event s { typ := 4, src := 4, core := noneId, task := noneId, ents := [[(16, 1, if b.ce then 1 else 0), (17, 1, b.bit), (20, 4, seq)]] }

/-- Emit a record and set its status bits; a bit going from 0 to 1 writes an event record of TYPE 4, and a dropped record sets UESTA bit 3 and writes a TYPE 9 record (R404, R405, R407). The count bounds the records that one record gives rise to. DEDUCED (log 27). -/
def emitN : Nat → State → Nat → Nat → Record → List StatusBit → State
  | 0, s, fn, r, rec, _ => (pushRecord s fn r rec).1
  | n + 1, s, fn, r, rec, sts =>
    let p := pushRecord s fn r rec
    let event := fun (s : State) (e : Record) => emitN n s fn 1 e []
    let s := sts.foldl (fun s b => setStatus event s fn b p.2.2.1 p.2.2.2) p.1
    if p.2.1 then s
    else if r = 0 then setStatus event s fn ⟨false, 3⟩ 0 p.2.2.2
    else
      let d := match fnOf s fn with
        | some f => (f.ring r).drop
        | none => 0
      emitN n s fn 0 { typ := 9, src := 4, core := noneId, task := noneId, ents := [[(16, 1, r), (20, 4, d)]] } [⟨false, 3⟩]

/-- Emit a record on a ring of a function. -/
def emit (s : State) (fn r : Nat) (rec : Record) (sts : List StatusBit) : State := emitN 4 s fn r rec sts

/-! ### The records of R407 -/

/-- The function a core's errors are reported to: the one its context belongs to, or whose partition it is in; the physical function where there is none. DESIGN CHOICE (log 51). -/
def ownerOf (s : State) (c : StreamCore) : Nat :=
  if c.seat.status != .free then c.seat.fn else ((s.fns.find? fun f => f.cores.getLsbD c.seat.cid).map fun f => f.num).getD 0

/-- TYPE 3: an event of the scratchpad or tap store of a core (R30, R34). -/
def emitSoft (s : State) (c : StreamCore) (event bank row off count : Nat) : State :=
  emit s (ownerOf s c) 0
    { typ := 3, src := 0, core := c.seat.cid, task := if c.seat.status == .free then noneId else c.seat.task, ents := [[(16, 1, event), (17, 1, bank), (20, 4, row), (24, 8, off), (32, 4, count)]] }
    (match event with
    | 0 => [⟨true, 0⟩]
    | 1 => [⟨true, 1⟩]
    | 2 => [⟨true, 2⟩]
    | 5 => [⟨true, 0⟩]
    | _ => [⟨false, 0⟩])

/-- TYPE 8: a walk met a bad entry (R56). -/
def emitBadEntry (s : State) (fn core task stage level addr entry : Nat) : State :=
  emit s fn 0 { typ := 8, src := 5, core := core, task := task, ents := [[(16, 1, stage), (17, 1, level), (24, 10, addr), (40, 8, entry)]] } []

/-- TYPE 4 on the function's error ring and TYPE 3 on the physical function's event ring, which is the host's: a quota refusal (R74). DESIGN CHOICE (log 27). -/
def emitQuota (s : State) (fn core task addr : Nat) : State :=
  match fnOf s fn with
  | none => s
  | some f =>
    let pay : List RecField := [(16, 10, addr), (32, 8, f.quota), (40, 8, f.qused)]
    let s := emit s fn 0 { typ := 4, src := 5, core := core, task := task, ents := [pay] } [⟨false, 2⟩]
    emit s 0 1 { typ := 3, src := 5, core := core, task := task, ents := [pay] } []

/-- TYPE 5: a launch refused (R356). -/
def emitLaunchRefused (s : State) (fn num queue tblk : Nat) : State :=
  emit s fn 0 { typ := 5, src := 4, core := noneId, task := noneId, ents := [[(16, 1, num), (17, 1, queue), (24, 10, tblk)]] } [⟨false, 4⟩]

/-- TYPE 6: an overrun or a discarded policy-bank write (R369, R371). -/
def emitPolicy (s : State) (fn what kind : Nat) : State :=
  match fnOf s fn with
  | none => s
  | some f =>
    emit s fn 0 { typ := 6, src := 4, core := noneId, task := noneId, ents := [[(16, 1, what), (17, 1, kind), (20, 4, f.overruns)]] }
      (if what = 0 then [⟨true, 3⟩] else [])

/-- TYPE 7: a report at EXIT (R223). -/
def emitExitReport (s : State) (c : StreamCore) (code detail : Nat) (tval : Word) : State :=
  emit s c.seat.fn 0 { typ := 7, src := 0, core := c.seat.cid, task := c.seat.task, ents := [[(16, 1, code), (17, 1, detail), (24, 8, tval.toNat)]] } []

/-- TYPE 10: the context pool has no extent of the length (R387). -/
def emitPoolFull (s : State) (fn task len largest : Nat) : State :=
  emit s fn 0 { typ := 10, src := 4, core := noneId, task := task, ents := [[(24, 8, len), (32, 8, largest)]] } [⟨false, 5⟩]

/-- TYPE 11: a malformed host entry (R410). -/
def emitMalformed (s : State) (fn ring index : Nat) : State :=
  emit s fn 0 { typ := 11, src := if ring = 7 then 4 else 5, core := noneId, task := noneId, ents := [[(16, 1, ring), (20, 4, index)]] } []

/-- TYPE 12: a fabric request refused (R415). DEDUCED (log 22). -/
def emitFabricRefused (s : State) (port device need pa : Nat) : State :=
  emit s 0 0 { typ := 12, src := 7, core := port, task := noneId, ents := [[(16, 2, device), (18, 1, need), (24, 8, pa)]] } []

/-- TYPE 2: a context killed (R391). `how` is as R407 codes it. -/
def emitKill (s : State) (c : StreamCore) (how cause tret tval : Nat) : State :=
  let y := c.sys
  let lv := fun (n : Nat) (w : Word) => if n ≤ y.tl then w.toNat else 0
  emit s c.seat.fn 0
    { typ := 2, src := 0, core := c.seat.cid, task := c.seat.task
      ents := [[(16, 1, y.tl), (17, 1, c.seat.member), (18, 1, how), (24, 8, cause), (32, 8, tret), (40, 8, tval)],
        [(16, 8, lv 1 y.tcause1), (24, 8, lv 1 y.tret1), (32, 8, lv 1 y.tval1), (40, 8, lv 2 y.tcause2), (48, 8, lv 2 y.tret2), (56, 8, lv 2 y.tval2)]] }
    [⟨false, 1⟩]

/-- TYPE 1: a command completed with error (R326, R407). -/
def emitCommandError (s : State) (c : StreamCore) (src unit tag code detail0 detail1 : Nat) : State :=
  emit s c.seat.fn 0
    { typ := 1, src := src, core := unit, task := c.seat.task, ents := [[(16, 1, tag), (17, 1, code), (24, 8, detail0), (32, 10, detail1)]] } []

/-! ### Completions (R409) -/

/-- Remove a task whose completion record has been written (R356). -/
def dropTask (s : State) (fn task : Nat) : State :=
  onFn s fn fun f => { f with tasks := f.tasks.filter fun t => t.num != task, queues := f.queues.map fun q => q.filter fun n => n != task }

/-- Write a completion entry with its SEQ and TIME, which ends the task's life. -/
def writeCompletion (s : State) (fn : Nat) (e : List Byte) : State :=
  match fnOf s fn with
  | none => s
  | some f =>
    let ring := f.ring 2
    let b := slice e 0 8 ++ leBytes 4 ring.seq.toNat ++ leBytes 4 (clock s) ++ slice e 16 48
    let s := sendMsix (onRing (writeEntries s fn 2 [b]) fn 2 Ring.close) fn 2
    dropTask s fn (leNat (slice e 6 2))

/-- Write waiting completions while ring 2 has room (R404). -/
def drainCompletions : Nat → State → Nat → State
  | 0, s, _ => s
  | n + 1, s, fn =>
    match fnOf s fn with
    | none => s
    | some f => match f.waitingDone with
      | [] => s
      | e :: es => if (f.ring 2).room 1 then drainCompletions n (writeCompletion (onFn s fn fun f => { f with waitingDone := es }) fn e) fn else s

/-- Offer a completion entry to ring 2; one that finds no room waits, and the first to wait is announced by an event record of TYPE 6 (R404). -/
def offerCompletion (s : State) (fn : Nat) (e : List Byte) : State :=
  match fnOf s fn with
  | none => s
  | some f =>
    if f.resetting then dropTask (discardRecord s fn 2) fn (leNat (slice e 6 2))
    else if f.waitingDone.isEmpty && (f.ring 2).room 1 then writeCompletion s fn e
    else
      let s := onFn s fn fun f => { f with waitingDone := f.waitingDone ++ [e] }
      if f.waitingDone.isEmpty then
        emit s fn 1 { typ := 6, src := 4, core := noneId, task := noneId, ents := [[(16, 4, 1), (20, 1, if (f.ring 2).size = 0 then 1 else 0)]] } []
      else s

end Sys2Proof.Machine
end

