-- ==== Sys2Proof/Machine/Tasks.lean ====
section
/-! DEFINITION. Tasks, scheduler events, completed commands, freed cores, kill (R308, R326, R356 to R361, R390, R391). -/
namespace Sys2Proof.Machine

/-! ### Events (R360, R361) -/

def raiseFault (s : State) (fn : Nat) (e : Event) : State :=
  let d := draw s
  onFn d.2 fn fun f => { f with faults := f.faults ++ [e], decideDue := s.wall + d.1 }
def raiseDispatch (s : State) (fn : Nat) (e : Event) : State :=
  let d := draw s
  onFn d.2 fn fun f => { f with dispatchFlag := some e, decideDue := s.wall + d.1 }
/-- TIMER and CROWD merge, keeping the larger KIND and its latest event. -/
def raisePreempt (s : State) (fn : Nat) (e : Event) : State :=
  let d := draw s
  onFn d.2 fn fun f => { f with
    preemptFlag := match f.preemptFlag with
    | some p => if p.kind ≤ e.kind then some e else some p
    | none => some e
    decideDue := s.wall + d.1 }

/-- Is the core one of the partition's? -/
def Func.holds (f : Func) (cid : Nat) : Bool := f.cores.getLsbD cid

/-- A core that a bind may take. One whose second bank is marked failed while nothing is bound to it stays so until the tick group next bound to it has been saved at a TICK (R34). DESIGN CHOICE (log 57). -/
def StreamCore.isFree (c : StreamCore) : Bool := c.seat.status == .free && !c.seat.withdrawn

/-- Free cores of a partition. -/
def freeCores (s : State) (f : Func) : List StreamCore := (allCores s).filter fun c => f.holds c.seat.cid && c.isFree

/-- A task becomes ready, or returns to its queue: ARRIVE, or CROWD while no partition core is free (R360). -/
def raiseArrive (s : State) (fn : Nat) (t : Task) : State :=
  match fnOf s fn with
  | none => s
  | some f =>
    if (freeCores s f).isEmpty then raisePreempt s fn { kind := 4, core := 0, task := t.num, detail := 0, queue := t.queue }
    else raiseDispatch s fn { kind := 1, core := 0, task := t.num, detail := 0, queue := t.queue }

/-- Cores become free (R360). -/
def raiseFree (s : State) (fn core task : Nat) : State := raiseDispatch s fn { kind := 2, core := core, task := task, detail := 0, queue := 0 }

/-! ### Work identifiers (R152 to R154) -/

/-- Identifiers of the range. -/
def Task.total (t : Task) : Nat := (t.counts.take t.fields).foldl (· * ·) 1

/-- Identifiers not yet delivered, those given back among them. -/
def Task.undelivered (t : Task) : Nat := t.total - t.delivered + t.returned.length

/-- The number of the identifier delivered next, and the task once it has been. -/
def Task.deliver (t : Task) : Option (Nat × Task) :=
  match t.returned with
  | k :: ks => some (k, { t with returned := ks })
  | [] => if t.total ≤ t.delivered then none else some (t.delivered, { t with delivered := t.delivered + 1 })

/-- Identifier number k of the issue order (R152, R153). -/
def identifier : List Nat → List Nat → Nat → Nat
  | w :: ws, c :: cs, k => k % c + 2 ^ w * identifier ws cs (k / c)
  | _, _, _ => 0

/-- Count of the top field, C(F−1). -/
def Task.topCount (t : Task) : Nat := nth t.counts (t.fields - 1) 1

/-- The count of the top field raised, unless it would exceed its width (R158). -/
def Task.raised (t : Task) (amount : Nat) : Option Task :=
  if t.topCount + amount ≤ 2 ^ nth t.widths (t.fields - 1) 0 then some { t with counts := modifyNth t.counts (t.fields - 1) fun _ => t.topCount + amount } else none

/-- The count of the top field before a raise that is taken back. -/
def Task.lowered (t : Task) (amount : Nat) : Task := { t with counts := modifyNth t.counts (t.fields - 1) fun _ => t.topCount - amount }

def Task.identifierOf (t : Task) (k : Nat) : Word := BitVec.ofNat 64 (identifier (t.widths.take t.fields) (t.counts.take t.fields) k)

/-- The WIDR of a task (R154). -/
def Task.widr (t : Task) : Word :=
  BitVec.ofNat 64 (((List.range 6).map fun j => nth t.widths j 0 * 2 ^ (7 * j)).foldl (· + ·) 0 + t.fields * 2 ^ 42)

/-! ### Cores of a task -/

/-- Cores bound to a task. -/
def coresOfTask (s : State) (fn task : Nat) : List StreamCore := (allCores s).filter fun c => c.seat.status != .free && c.seat.fn == fn && c.seat.task == task

def Seat.live (p : Seat) : Bool := p.status == .live
/-- Exited or killed. -/
def Seat.ended (p : Seat) : Bool := p.status == .exited || p.status == .killed

/-- Has the core no engine command, no scoreboarded access and no store that waits for its page or for its boundary? -/
def StreamCore.drained (c : StreamCore) : Bool := c.dev.cmds.isEmpty && c.dev.vars.isEmpty && c.dev.late.isEmpty && c.dev.pend.isEmpty

/-! ### Freeing cores -/

/-- A core after its context has left it: nothing is bound to it, and its registers and stores hold what they held, until a context is put in place or a new owner's is (R203, R223, R390, R412). -/
def StreamCore.leave (c : StreamCore) : StreamCore :=
  let r := StreamCore.reset c.seat.cid
  { c with
    seat := { r.seat with withdrawn := c.seat.withdrawn || c.sp.degraded }
    pipe := r.pipe
    jobs := []
    sp := { c.sp with locks := [], tentative := Tentative.empty }
    dev := r.dev }

/-- A core cleared for a context: its registers and stores hold nothing, what belongs to the hardware stays (R34, R203, R412). A berm record still pending is lost: the manual gives it no place in a context record. DESIGN CHOICE (log 49). -/
def StreamCore.vacate (c : StreamCore) : StreamCore :=
  let r := StreamCore.reset c.seat.cid
  { r with
    seat := { r.seat with withdrawn := c.seat.withdrawn || c.sp.degraded }
    tapBanks := c.tapBanks
    sp := { r.sp with erased := c.sp.erased, failedBanks := c.sp.failedBanks, log := c.sp.log, counts := c.sp.counts, degraded := c.sp.degraded } }

/-- What a core still has under way when its context has left it belongs to no core any more: the window stores and export writes it sent, and its requests to the scheduler. -/
def orphan (cids : List Nat) (cid : Option Nat) : Option Nat := cid.bind fun x => if cids.contains x then none else some x

/-- Free a list of cores: their narrower writes are current everywhere, they no longer receive window stores or export writes, and a FREE event is raised (R360). DEDUCED (log 37). -/
def freeList (s : State) (fn task : Nat) (cids : List Nat) : State :=
  match cids with
  | [] => s
  | cid :: _ =>
    let s := cids.foldl settleAll s
    let s := onCores s fun c => if cids.contains c.seat.cid then c.leave else c
    let s := { s with
      windows := s.windows.map fun w => { w with cid := orphan cids w.cid, dest := w.dest.filter fun x => !cids.contains x }
      exports := s.exports.map fun w => { w with cid := orphan cids w.cid, dest := w.dest.filter fun x => !cids.contains x } }
    let s := onTask s fn task fun t => { t with reqs := t.reqs.map fun r => { r with cid := orphan cids r.cid } }
    raiseFree s fn cid task

/-- Free the cores of a tick group whose members have all ended and whose engine commands have completed. DEDUCED (log 37). -/
def reap (s : State) (fn task bench : Nat) : State :=
  let g := groupOf s fn task bench
  if g.all fun c => c.seat.ended && c.drained then freeList s fn task (g.map fun c => c.seat.cid) else s

/-! ### Commands that complete (R308, R309, R326) -/

/-- Do the locks of two commands exclude each other (R51)? -/
def Cmd.excludes (a b : Cmd) : Bool := (a.wlocks.any fun t => b.wlocks.contains t || b.rlocks.contains t) || a.rlocks.any fun t => b.wlocks.contains t

/-- Does a command's lock of a tile exclude a lock of it in the given mode? -/
def Cmd.bars (k : Cmd) (tile : Nat) (write : Bool) : Bool := k.wlocks.contains tile || (write && k.rlocks.contains tile)

/-- Grant locks in issue order, tile by tile: a command holds the lock of a tile from its issue, unless an earlier outstanding command's lock of that tile excludes it (R51). -/
def grantFrom (earlier : List Cmd) : List Cmd → List Lock
  | [] => []
  | k :: ks =>
    ((k.wlocks.map fun t => ({ cmd := k.uid, tile := t, write := true } : Lock)) ++ (k.rlocks.filter fun t => !k.wlocks.contains t).map fun t => ({ cmd := k.uid, tile := t, write := false } : Lock)).filter
        (fun l => !(earlier.any fun e => e.bars l.tile l.write))
      ++ grantFrom (earlier ++ [k]) ks

/-- The locks in force. -/
def StreamCore.regrant (c : StreamCore) : StreamCore := { c with sp := { c.sp with locks := grantFrom [] c.dev.cmds } }

/-- The command's tag becomes visible at the next unfrozen schedule cycle; its locks are released; consumers of its tag may start, and take its error (R51, R308, R309, R326). -/
def endCommand (c : StreamCore) (k : Cmd) (err : Bool) (insert : Option (Nat × List Tuple)) : StreamCore :=
  StreamCore.regrant { c with
    dev := { c.dev with
      cmds := (c.dev.cmds.filter fun x => x.uid != k.uid).map fun x =>
        if x.waits.contains k.uid then { x with waits := x.waits.filter fun w => w != k.uid, upstream := if err then some (x.upstream.getD k.tag) else x.upstream } else x
      tagDone := c.dev.tagDone ++ [{ uid := k.uid, tag := k.tag, err := err, insert := insert, wrote := k.wrote }] } }

/-- CORE of an engine's record: 16 × die + engine number; a hoist's number is the HOIST of the core, the scheduler has none (R40, R406). -/
def engineId (s : State) (c : StreamCore) (cls : Nat) : Nat :=
  match cls with
  | 1 => 16 * c.seat.die + 4 * (c.seat.cid / 16 % 4) + c.seat.cid % 16 / 4
  | 2 => 16 * c.seat.die + freeNow s % 8
  | 3 => 16 * c.seat.die + freeNow s % 4
  | _ => c.seat.cid

/-- Complete a command, with an error-ring record when it failed (R326). -/
def finishCommand (s : State) (cid : Nat) (k : Cmd) (err : Option CmdError) (insert : Option (Nat × List Tuple)) : State :=
  match coreOf s cid with
  | none => s
  | some c =>
    let s := match err with
      | none => s
      | some e => emitCommandError { s with draws := s.draws + 1 } c k.cls (engineId s c k.cls) k.tag e.code e.d0 e.d1
    let s := onCore s cid fun c => endCommand c k err.isSome insert
    reap s c.seat.fn c.seat.task c.seat.bench

/-! ### Completion of tasks (R357, R359) -/

/-- The completion entry of a task (R409). -/
def completionEntry (t : Task) (status : Nat) : List Byte :=
  entryBytes [(0, 1, 1), (1, 1, 0), (2, 1, 1), (3, 1, 4), (4, 2, noneId), (6, 2, t.num), (16, 2, t.name), (18, 1, status), (24, 8, min t.undelivered (2 ^ 64 - 1)),
    (32, 4, t.dispatches), (36, 4, t.accepted / 1024)]

/-- A LAUNCH.done whose task has completed ends; its tag is set in its order (R308, R325, R359). -/
def doneTag (s : State) (t : Task) (status : Nat) : State :=
  match t.doneTag with
  | none => s
  | some d => match (coreOf s d.1).bind fun c => c.dev.cmds.find? fun k => k.uid == d.2 with
    | none => s
    | some k =>
      let err : Option CmdError := if status = 0 then none else some { code := 16, d0 := status, d1 := t.num }
      onCore s d.1 fun c => { c with dev := { c.dev with cmds := c.dev.cmds.map fun x => if x.uid = k.uid then { x with stage := .finished err none, due := s.wall } else x } }

/-- End one task: its completion is offered, its LAUNCH.done ends. -/
def endTask (s : State) (fn : Nat) (t : Task) (status : Nat) : State :=
  let s := onTask s fn t.num fun t => { t with ended := some status, saved := [], edges := [] }
  doneTag (offerCompletion s fn (completionEntry t status)) t status

/-- Tasks that wait for `num`. -/
def dependents (s : State) (fn num : Nat) : List Task :=
  match fnOf s fn with
  | none => []
  | some f => f.tasks.filter fun t => t.ended.isNone && t.edges.contains num

/-- Complete a task: dependents become ready, or complete with an upstream error in their turn (R357). Edges point only at older tasks, so a chain is no longer than the number of live tasks. -/
def completeTask : Nat → State → Nat → Task → Nat → State
  | 0, s, fn, t, status => endTask s fn t status
  | n + 1, s, fn, t, status =>
    let ds := dependents s fn t.num
    let s := endTask s fn t status
    ds.foldl (fun s d =>
      if status = 0 then
        let es := d.edges.filter fun e => e != t.num
        let s := onTask s fn d.num fun d => { d with edges := d.edges.filter fun e => e != t.num }
        if es.isEmpty then raiseArrive s fn d else s
      else match taskOf s fn d.num with
        | some d => if d.ended.isNone then completeTask n s fn d 2 else s
        | none => s) s

/-! ### Kill (R390, R391) -/

/-- Has the access not been performed yet? -/
def VarOp.isOpen (v : VarOp) : Bool :=
  match v.stage with
  | .performed _ => false
  | _ => true

/-- The context of a core ends: its results in flight are discarded, and it counts as arrived at every later boundary (R111, R223, R390). Of a killed one, pending stores are discarded, and accesses that have issued but have not been performed are discarded too. An export write in flight has no landing in its owner any more, and still has those in the replicas. DESIGN CHOICE (log 56). -/
def StreamCore.endContext (c : StreamCore) (st : Status) : StreamCore :=
  { c with
    seat := { c.seat with status := st, stopped := false, arrivals := [], atBarrier := false }
    pipe := { c.pipe with flights := [], held1 := [], held2 := [], fmtrPend := [], fmtrHeld1 := [], fmtrHeld2 := [], overflow := [], loop := none, frozenAt := none, timeout := none, fetchFail := none, after := [], target := none, back := none }
    jobs := []
    dev := { c.dev with pend := if st = .killed then [] else c.dev.pend, fails := [], vars := if st = .killed then c.dev.vars.filter fun v => !v.isOpen else c.dev.vars } }

/-- The holder of the pair's exclusive mode gives it back when its context leaves (R295). -/
def releaseArray (s : State) (cid : Nat) : State :=
  match coreOf s cid with
  | none => s
  | some c =>
    if c.sys.amode = 2 then
      onCore (onCore s cid fun c => { c with sys := { c.sys with amode := 0, mmode := 0 } }) (pairOf cid) fun p =>
        if p.sys.amode = 3 then { p with sys := { p.sys with amode := 0, mmode := 0 } } else p
    else s

/-- Kill the context of a core, with its record (R391). What a TICK group of it has stored in other cores stands (R108). DEDUCED (log 15). DEDUCED (log 37). -/
def killCore (s : State) (cid how cause : Nat) (tret tval : Word) : State :=
  match coreOf s cid with
  | none => s
  | some c =>
    let s := emitKill s c how cause tret.toNat tval.toNat
    let s := onCore (releaseArray s cid) cid fun c => c.endContext .killed
    let s := onCores s fun c => { c with sp := c.sp.letStandOf cid }
    let s := onTask s c.seat.fn c.seat.task fun t => { t with killed := true }
    reap s c.seat.fn c.seat.task c.seat.bench

/-- A task is killed: every member, its binds not yet dispatched, its saved groups (R366, R390). It completes once its cores are free. DEDUCED (log 37). -/
def killTask (s : State) (fn : Nat) (t : Task) : State :=
  let members := (coresOfTask s fn t.num).filter fun c => c.seat.live
  let s := onTask s fn t.num fun t => { t with killReq := true, saved := [] }
  let waiting := (coresOfTask s fn t.num).filter fun c => c.seat.status == .loading
  let s := onFn s fn fun f => { f with binds := f.binds.filter fun b => b.task != t.num }
  let s := freeList s fn t.num (waiting.map fun c => c.seat.cid)
  members.foldl (fun s c => killCore s c.seat.cid 3 0 0 0) s

end Sys2Proof.Machine
end

