-- ==== Sys2Proof/Machine/Translate.lean ====
section
/-! DEFINITION. Table walks, runs and the translation of an access (R54 to R62, R65 to R76). -/
namespace Sys2Proof.Machine

/-! ### The owner directory (R76) -/

/-- The directory entry of a pooled PA; an index at or beyond DIRLEN reads with V clear. A base die may still hold it as cached. -/
def dirEntry (s : State) (pick pa : Nat) : Nat :=
  let i := (pa - 2 ^ 51) / 2 ^ 29
  if i < nth s.fabricRegs 1 0 then peekLe (if bit pick 2 then s.dirCache else s.mem) (nth s.fabricRegs 0 0 + 8 * i) 8 else 0

/-- Does the PA lie in a segment nobody owns? A directory entry with V and a reserved bit set owns it: the manual says nothing of such an entry (R76). DESIGN CHOICE (log 41). -/
def unowned (s : State) (pick pa : Nat) : Bool := isPooled pa && !bit (dirEntry s pick pa) 63

/-- First key under which the memory of other devices is held, and the keys of one device. -/
def remoteBase : Nat := 2 ^ 53
def remoteSpan : Nat := 2 ^ 52

/-- Where a pooled PA leads: the owner's segment RSEG, at its remote address; any other PA stands for itself. -/
def routed (s : State) (pick pa : Nat) : Nat :=
  if isPooled pa then
    let e := dirEntry s pick pa
    remoteBase + bits e 62 51 * remoteSpan + bits e 22 0 * 2 ^ 29 + pa % 2 ^ 29
  else pa

/-- The device that owns a routed location outside the package. -/
def remoteDevice (loc : Nat) : Option Nat := if remoteBase ≤ loc then some ((loc - remoteBase) / remoteSpan) else none

/-! ### Table entries (R56) -/

def entryValid (e : Nat) : Bool := bit e 63
def entryLeaf (e : Nat) : Bool := bit e 62
/-- PA of the page or table an entry names. -/
def entryFrame (e : Nat) : Nat := bits e 51 16 * 65536
def entryLc (e : Nat) : Nat := bits e 54 53

/-- Bytes of the page a leaf of a level maps (R55). -/
def leafBytes (level : Nat) : Nat := 2 ^ (16 + 13 * level)

/-- Is a valid entry a bad entry (R56)? `final` says that its frame is a PA. -/
def entryBad (final : Bool) (level e : Nat) : Bool :=
  bit e 52 || bits e 15 0 != 0 ||
    (if entryLeaf e then decide (3 ≤ level) || entryFrame e % leafBytes level != 0 || (final && !(frameOk (entryFrame e) (leafBytes level)))
    else decide (level = 0) || bits e 61 53 != 0)

/-- Index of a VA at a level (R55). An extent whose BASE + LENGTH passes 2^80 is accepted, and its addresses go on from 0 there. DESIGN CHOICE (log 52). -/
def entryIndex (level va : Nat) : Nat := va / leafBytes level % (if level = 4 then 4096 else 8192)

/-! ### Walks (R55, R66) -/

/-- What a walk of one stage comes to: a leaf with its level, the PA it was read at and its value; an absent page with the stage, the address being translated and the PA of the level-0 entry if the walk reached one; or a bad entry. -/
inductive WalkOut where
  | leaf (level pa e : Nat)
  | absent (stage addr : Nat) (slot : Option Nat)
  | bad (stage level addr entry : Nat)
  /-- a table lies in a migrating page, which holds the fetch of its entry (R72) -/
  | held

/-- What one entry makes of the walk; `below` goes on with the next table. -/
def walkEntry (stage : Nat) (final : Bool) (va level pa e : Nat) (below : Nat → WalkOut) : WalkOut :=
  if !entryValid e then .absent stage va (if level = 0 then some pa else none)
  else if entryBad final level e then .bad stage level va e
  else if entryLeaf e then .leaf level pa e
  else below (entryFrame e)

/-- Walk from a table of a level down. `place` gives the PA of a table entry, or how its own translation failed. DESIGN CHOICE (log 7). -/
def walkFrom (stage : Nat) (final : Bool) (img : List Host.Cell) (place : Nat → Except WalkOut Nat) (va : Nat) : Nat → Nat → WalkOut
  | 0, table => match place (table + 8 * entryIndex 0 va) with
    | .error w => w
    | .ok pa => walkEntry stage final va 0 pa (peekLe img pa 8) fun _ => .bad stage 0 va (peekLe img pa 8)
  | n + 1, table => match place (table + 8 * entryIndex (n + 1) va) with
    | .error w => w
    | .ok pa => walkEntry stage final va (n + 1) pa (peekLe img pa 8) fun t => walkFrom stage final img place va n t

/-- The address a leaf maps an address to. -/
def leafMap (level e va : Nat) : Nat := entryFrame e + va % leafBytes level

/-- The second stage of an IPA; `at_` places a PA in memory (R76). DEDUCED (log 19). -/
def walkSecond (img : List Host.Cell) (at_ : Nat → Nat) (root ipa : Nat) : WalkOut := walkFrom 2 true img (fun pa => .ok (at_ pa)) ipa 4 root

/-- Where the second stage places a first-stage table entry (R66, R72). The fetch sets no AC in the leaf that maps the table and asks no right or class of it: the manual does not say whether one does. DEDUCED (log 41). DESIGN CHOICE (log 41). -/
def placeSecond (img : List Host.Cell) (at_ : Nat → Nat) (root ipa : Nat) : Except WalkOut Nat :=
  match walkSecond img at_ root ipa with
  | .leaf level _ e => if bit e 55 then .error .held else .ok (at_ (leafMap level e ipa))
  | w => .error w

/-- A translated page: PA of the addressed byte, rights, declared class, MG, SP, the leaves used with the PA of each, and the IPA where there is a second stage (R57, R66). -/
structure Page where
  pa : Nat
  rd : Bool
  wr : Bool
  ex : Bool
  lc : Nat
  mg : Bool
  sp : Bool
  leaves : List (Nat × Nat)
  ipa : Option Nat
  /-- bytes of VA space that the leaves map together -/
  size : Nat
  /-- bytes that the last leaf maps -/
  leafSize : Nat

/-- The translation of an address through every stage. -/
inductive PageOut where
  | page (p : Page)
  | absent (stage addr : Nat) (slot : Option Nat)
  | bad (stage level addr entry : Nat)
  | held

/-- A walk that found no leaf. -/
def WalkOut.noPage : WalkOut → PageOut
  | .leaf _ _ _ => .held
  | .absent stage addr slot => .absent stage addr slot
  | .bad stage level addr e => .bad stage level addr e
  | .held => .held

/-- The page of one leaf. -/
def leafPage (level pa e va : Nat) : Page :=
  { pa := leafMap level e va, rd := bit e 61, wr := bit e 60, ex := bit e 59, lc := entryLc e, mg := bit e 55, sp := bit e 56, leaves := [(pa, e)], ipa := none, size := leafBytes level, leafSize := leafBytes level }

/-- Translate a VA for a function. A stage reads its tables as memory at device scope is now (R112), or as a cached walk may still hold them: bits 0 and 1 of `pick` (R69, R70). A table in a pooled segment without an owner is read at the place its invalid directory entry names: R76 speaks of accesses only. DESIGN CHOICE (log 41). -/
def translate (s : State) (f : Func) (pick va : Nat) : PageOut :=
  let now := devImage s
  let img := fun b => if bit pick b then f.walkOld else now
  let at_ := routed s pick
  if f.num = 0 then
    match walkFrom 1 true (img 0) (fun pa => .ok (at_ pa)) va 4 f.root1 with
    | .leaf level pa e => .page (leafPage level pa e va)
    | w => w.noPage
  else
    match walkFrom 1 false (img 0) (placeSecond (img 1) at_ f.root2) va 4 f.root1 with
    | .leaf level pa e =>
      let ipa := leafMap level e va
      (match walkSecond (img 1) at_ f.root2 ipa with
      | .leaf level2 pa2 e2 =>
        let q := leafPage level2 pa2 e2 ipa
        .page { q with rd := q.rd && bit e 61, wr := q.wr && bit e 60, ex := q.ex && bit e 59, lc := max q.lc (entryLc e), leaves := [(pa, e), (pa2, e2)], ipa := some ipa, size := min (leafBytes level) q.size }
      | w => w.noPage)
    | w => w.noPage

/-- Effective class of a page for a core of a die (R57). -/
def Page.cls (p : Page) (die : Nat) : Nat := max p.lc (placement die p.pa)

/-! ### Accessed and dirty (R59, R66, R75) -/

/-- Set bits of byte 7 of the leaves used, where memory still holds a leaf of the same frame: 4 is AC, 2 is DI. DI is set also between a clear of it and the completed invalidation that re-arms it, where R75 lets the device leave it clear. Where the leaf lies in a table of a guest, this write of the hardware's own sets no DI in the leaf that maps the table. DEDUCED (log 41). DESIGN CHOICE (log 41). -/
def markLeaves (m : Nat) : List (Nat × Nat) → State → State
  | [], s => s
  | (pa, e) :: ls, s =>
    let now := peekLe (devImage s) pa 8
    let same := entryValid now && entryLeaf now && entryFrame now == entryFrame e
    let b := bits now 63 56
    markLeaves m ls (if same && b ||| m != b then writeSys s [(pa + 7, BitVec.ofNat 8 (b ||| m))] else s)

/-- Does the hardware set DI for the function (R411)? -/
def Func.tracksDirty (f : Func) : Bool := !f.fmode.getLsbD 3

/-- A write through a page sets DI in the leaf of every stage that its walk has used, before it becomes visible (R75). DEDUCED (log 41). -/
def dirtyLeaves (s : State) (fn : Nat) (ls : List (Nat × Nat)) : State := if (fnOf s fn).any Func.tracksDirty then markLeaves 2 ls s else s

/-- Is the leaf in which a write would set DI held with its table on a migrating page (R72)? -/
def dirtyHeld (s : State) (fn va : Nat) : Bool :=
  match (fnOf s fn).map fun f => f.tracksDirty && (match translate s f 0 va with
    | .held => true
    | _ => false) with
  | some b => b
  | none => false

/-! ### Resolution requests (R65, R410) -/

/-- Raise a fault-resolution request; under FMODE bit 0 it goes to ring 4. The hardware resolver answers it no earlier than the next wall cycle, so that all it serves on a cycle has reached it before that cycle's host write of RFCOUNT (R412). -/
def raiseRequest (s : State) (fn : Nat) (r : Resolution) : State × Nat :=
  match fnOf s fn with
  | none => (s, 0)
  | some f =>
    let d := draw s
    let r := { r with id := f.nextReq, due := s.wall + 1 + d.1 }
    let s := onFn d.2 fn fun f => { f with nextReq := f.nextReq + 1, resolutions := f.resolutions ++ [r] }
    (if f.fmode.getLsbD 0 then
      emit s fn 4 { typ := 1, src := 5, core := r.cid, task := r.task
                    ents := [[(16, 8, r.id), (24, 10, r.va), (34, 1, r.stage), (35, 1, r.need), (36, 1, r.cond), (37, 1, r.ext), (38, 1, r.lcreq)]] } []
    else s, r.id)

/-! ### Extents and runs (R58, R60) -/

/-- An extent descriptor (R58). -/
def extOf (d : Entry256) : Ext :=
  let n := d.toNat
  { declared := true, base := bits n 255 176, len := bits n 175 128, rd := bit n 127, wr := bit n 126, at_ := bit n 125, lcreq := bits n 123 122, perAccess := bit n 124 }

/-- Needs of an access, as R410 codes them; bit 4 says that nothing will be written after all. -/
def needRead : Nat := 1
def needWrite : Nat := 2
def needAtomic : Nat := 4
def needFetch : Nat := 8

def needWithout : Nat := 16

/-- Does the access write, so that it sets DI (R75)? -/
def needDirties (need : Nat) : Bool := (bit need 1 || bit need 2) && !bit need 4

def Page.grants (p : Page) (need : Nat) : Bool :=
  (!bit need 0 || p.rd) && (!bit need 1 || p.wr) && (!bit need 2 || (p.rd && p.wr)) && (!bit need 3 || p.ex)

/-- Stage and address that a request of condition rights or class names: the first stage with the VA where that stage's own leaf has the fault, else the second with the IPA. DESIGN CHOICE (log 52). -/
def Page.faultPlace (p : Page) (va : Nat) (first : Bool) : Nat × Nat :=
  match p.ipa with
  | some ipa => if first then (1, va) else (2, ipa)
  | none => (1, va)

/-- The page as the first stage alone would have it. -/
def Page.firstStage (p : Page) : Page :=
  let e := (p.leaves.head?.map fun l => l.2).getD 0
  { p with rd := bit e 61, wr := bit e 60, ex := bit e 59, lc := entryLc e }

/-- An extent's own needs at dispatch (R59). -/
def Ext.need (x : Ext) : Nat := (if x.rd then 1 else 0) + (if x.wr then 2 else 0) + if x.at_ then 4 else 0

def DevView.extent (d : DevView) (x : Nat) : Ext := if x = 16 then d.code else nth d.exts x Ext.none

/-- The run that holds a VA of an extent. -/
def DevView.runAt (d : DevView) (x va : Nat) : Option Run := d.runs.find? fun r => r.ext == x && decide (r.va ≤ va) && decide (va < r.va + r.len)

/-- The leaves that map the page of a VA in a run, as the walk that made the run found them. -/
def Run.leavesAt (r : Run) (va : Nat) : List (Nat × Nat) := nth r.leaves (r.len / 65536 - 1 - (va - r.va) / 65536) []

/-- How one page of an access fares. -/
inductive Look where
  | at_ (pa : Nat)
  /-- held on a migrating page (R72) -/
  | hold
  | request (id : Nat)
  | refused (detail : Nat)
deriving DecidableEq, Repr

/-- TVAL of a device-memory access (R62). -/
def xoWord (x : Nat) (off : Int) : Word := BitVec.ofNat 64 (x % 256 * 2 ^ 56 + lowBits 48 off)

/-! ### Walking an extent (R59 to R61) -/

/-- Why a page fails dispatch: 0 absent, 1 rights, 2 class, 3 bad entry (R365); 4 says that the walk is held on a migrating page (R72). -/
abbrev DispatchFail := Nat × Nat

/-- Put a page at the end of a list of runs of one walk, or open a new run. -/
def addPage (ext : Nat) (code : Bool) (va : Nat) (st : RunState) (pa cls : Nat) (ex sp mg : Bool) (leaves : List (Nat × Nat)) (rs : List Run) : List Run :=
  let fresh : Run := { ext := ext, va := va, len := 65536, pa := pa, cls := cls, ex := ex, sp := sp, mg := mg, st := st, marked := false, refuse := none, leaves := [leaves] }
  match rs with
  | r :: rest =>
    let joins := r.ext == ext && r.va + r.len == va && r.st == st && r.refuse.isNone && !r.marked &&
      (if st == .present then r.pa + r.len == pa && r.cls == cls && r.mg == mg && r.sp == sp && (!code || r.ex == ex) else true)
    if joins then { r with len := r.len + 65536, leaves := leaves :: r.leaves } :: rest else fresh :: rs
  | [] => [fresh]

/-- Pages of an extent. -/
def Ext.pages (x : Ext) : List Nat :=
  if x.len = 0 then [] else (List.range ((x.base + x.len - 1) / 65536 + 1 - x.base / 65536)).map fun i => (x.base / 65536 + i) * 65536

/-- Walk the pages of an operand extent for cores of the given die (R59): the runs, newest first, or the failing page, for its rights where it lacks one and lies outside LCREQ too (DESIGN CHOICE, log 52). A page that would open run number `limit + 1` ends the walk with `none`. -/
def walkExtent (fn core task die ext : Nat) (x : Ext) (limit : Nat) : List Nat → List Run → State → Except DispatchFail (Option (List Run)) × State
  | [], rs, s => (.ok (some rs), s)
  | va :: vas, rs, s =>
    match fnOf s fn with
    | none => (.ok (some rs), s)
    | some f =>
      let s := { s with draws := s.draws + 1 }
      let fail := fun (cond : Nat) => (Except.error (va / 65536 - x.base / 65536, cond) : Except DispatchFail (Option (List Run)))
      match translate s f (freeNow { s with draws := s.draws - 1 }) va with
      | .absent _ _ _ => (fail 0, s)
      | .held => (fail 4, s)
      | .bad stage level addr entry => (fail 3, emitBadEntry s fn core task stage level addr entry)
      | .page p =>
        let s := markLeaves 4 p.leaves s
        if !p.grants x.need then (fail 1, s)
        else if x.lcreq < p.cls die then (fail 2, s)
        else
          let rs := addPage ext false va .present p.pa (p.cls die) p.ex p.sp p.mg p.leaves rs
          if limit < rs.length then (.ok none, s) else walkExtent fn core task die ext x limit vas rs s

/-- Walk the code extent: absent and bad pages enter the table (R61). A page that would open the 17th code run ends the walk with `none` (R60). DEDUCED (log 17). -/
def walkCode (fn core task die : Nat) (x : Ext) : List Nat → List Run → State → Except DispatchFail (Option (List Run)) × State
  | [], rs, s => (.ok (some rs), s)
  | va :: vas, rs, s =>
    match fnOf s fn with
    | none => (.ok (some rs), s)
    | some f =>
      let pick := freeNow s
      let s := { s with draws := s.draws + 1 }
      let next := fun (rs : List Run) (s : State) => if 16 < rs.length then (Except.ok none, s) else walkCode fn core task die x vas rs s
      match translate s f pick va with
      | .absent _ _ _ => next (addPage 16 true va .absent 0 0 false false false [] rs) s
      | .held => (.error (va / 65536 - x.base / 65536, 4), s)
      | .bad stage level addr entry => next (addPage 16 true va .bad 0 0 false false false [] rs) (emitBadEntry s fn core task stage level addr entry)
      | .page p =>
        let s := markLeaves 4 p.leaves s
        if !p.grants x.need then (.error (va / 65536 - x.base / 65536, 1), s)
        else if x.lcreq < p.cls die then (.error (va / 65536 - x.base / 65536, 2), s)
        else next (addPage 16 true va .present p.pa (p.cls die) p.ex p.sp p.mg p.leaves rs) s

/-- Walk a marked run again (R71): pages that no longer satisfy R59 refuse their accesses. Where the walk of a page is held on a migrating page there is no result yet (R72). -/
def rewalkPages (fn core task die ext : Nat) (x : Ext) : List Nat → List Run → State → Option (List Run) × State
  | [], rs, s => (some rs, s)
  | va :: vas, rs, s =>
    match fnOf s fn with
    | none => (some rs, s)
    | some f =>
      let pick := freeNow s
      let s := { s with draws := s.draws + 1 }
      let refuse := fun (d : Nat) (s : State) =>
        ({ ext := ext, va := va, len := 65536, pa := 0, cls := 0, ex := false, sp := false, mg := false, st := if d = 5 then .bad else .absent
           marked := false, refuse := some d, leaves := [[]] } :: rs, s)
      let r := match translate s f pick va with
        | .absent _ _ _ => some (refuse 0 s)
        | .held => none
        | .bad stage level addr entry => some (refuse 5 (emitBadEntry s fn core task stage level addr entry))
        | .page p =>
          if !p.grants x.need then some (refuse 1 s)
          else if x.lcreq < p.cls die then some (refuse 2 s)
          else some (addPage ext (ext == 16) va .present p.pa (p.cls die) p.ex p.sp p.mg p.leaves rs, markLeaves 4 p.leaves s)
      match r with
      | none => (none, s)
      | some r => rewalkPages fn core task die ext x vas r.1 r.2

/-! ### Accesses (R62, R65, R71, R72) -/

/-- A pooled segment without an owner refuses the access; one with an owner is reached there (R76). -/
def lookOwned (s : State) (pick pa : Nat) : Look := if unowned s pick pa then .refused 4 else .at_ (routed s pick pa)

/-- The pages an access of n bytes meets: first VA and bytes of each. -/
def pieces (va n : Nat) : List (Nat × Nat) :=
  if va % 65536 + n ≤ 65536 then [(va, n)] else [(va, 65536 - va % 65536), (va + (65536 - va % 65536), n - (65536 - va % 65536))]

/-- Extent of a promised load, and the first VA of each page it meets. -/
def Promise.places (q : Promise) (d : DevView) : Nat × List Nat :=
  let x := bits q.xo.toNat 63 56
  (x, (pieces ((d.extent x).base + bits q.xo.toNat 47 0) q.n).map fun p => p.1)

/-- What a promised load that was held becomes once a run has been walked again: it goes on, stays held on a migrating page or for another run, or fails (R63, R71, R72). -/
def Promise.rewalked (q : Promise) (arrive : Nat) (d : DevView) : Promise :=
  let rs := (q.places d).2.filterMap (d.runAt (q.places d).1)
  if rs.any fun r => r.refuse.isSome then { q with held := false, failed := true }
  else if q.held && rs.all fun r => !r.mg && !r.marked then { q with held := false, arrive := arrive } else q

/-- The scheduler begins to walk a marked run of a core again; how long that takes is not given (R71). -/
def startWalk (s : State) (cid : Nat) (r : Run) : State :=
  let d := draw s
  onCore d.2 cid fun c =>
    if c.dev.walks.any fun w => w.ext == r.ext && w.va == r.va then c
    else { c with dev := { c.dev with walks := c.dev.walks ++ [{ ext := r.ext, va := r.va, due := s.wall + d.1 }] } }

/-- The walk of a marked run of a core comes to its end (R71). One that a migration holds goes on until the leaf is replaced, and with it the freeze (R72). The runs it splits into are kept, also beyond the 256 and 16 that R60 lets a dispatch make: the manual says nothing of them. DESIGN CHOICE (log 19). -/
def rewalkRun (s : State) (cid : Nat) (r : Run) : State :=
  match coreOf s cid with
  | none => s
  | some c =>
    let w := rewalkPages c.seat.fn cid c.seat.task c.seat.die r.ext (c.dev.extent r.ext) ((List.range (r.len / 65536)).map fun i => r.va + 65536 * i) [] s
    let others := c.dev.walks.filter fun x => x.ext != r.ext || x.va != r.va
    match w.1 with
    | none => onCore { s with draws := w.2.draws } cid fun c => { c with dev := { c.dev with walks := others ++ [{ ext := r.ext, va := r.va, due := s.wall + 1 }] } }
    | some rs =>
    let d := draw w.2
    let view := { c.dev with runs := (c.dev.runs.filter fun x => x != r) ++ rs.reverse }
    let redo := fun (f : Flight) => { f with late := f.late.map fun q => if q.held then q.rewalked (s.wall + d.1) view else q }
    onCore d.2 cid fun c => { c with
      dev := { c.dev with runs := view.runs, walks := others }
      pipe := { c.pipe with flights := c.pipe.flights.map redo, held1 := c.pipe.held1.map redo, held2 := c.pipe.held2.map redo } }

/-- Look up one page of an access of a core through an extent; one that meets a marked run waits for its walk (R62, R65, R71, R72). A page that lacks a right and lies outside LCREQ is reported for its rights: the manual gives the two no order. DESIGN CHOICE (log 52). A write that is refused because its segment has no owner still sets DI, and AC, in the leaves of its page: the manual speaks of the first write only (R75, R76). DESIGN CHOICE (log 41). -/
def lookPage (s : State) (c : StreamCore) (x va need : Nat) : Look × State :=
  let pick := freeNow s
  let e := c.dev.extent x
  if !e.perAccess then
    match c.dev.runAt x va with
    | none => (.refused 0, s)
    | some r =>
      if r.marked then (.hold, startWalk s c.seat.cid r)
      else match r.refuse with
      | some d => (.refused d, s)
      | none => if r.mg || (needDirties need && dirtyHeld s c.seat.fn va) then (.hold, s)
        else (lookOwned s pick (r.pa + (va - r.va)), if needDirties need then dirtyLeaves s c.seat.fn (r.leavesAt va) else s)
  else
    match fnOf s c.seat.fn with
    | none => (.refused 0, s)
    | some f =>
      let s := { s with draws := s.draws + 1 }
      let ask := fun (place : Nat × Nat) (cond : Nat) =>
        let r := raiseRequest s f.num { id := 0, access := va, va := place.2, stage := place.1, need := need % 16, cond := cond, ext := if x = 16 then 0xFF else x, lcreq := e.lcreq, cid := c.seat.cid, task := c.seat.task, die := c.seat.die, due := 0 }
        (Look.request r.2, r.1)
      match translate s f pick va with
      | .bad stage level addr entry => (.refused 5, emitBadEntry s f.num c.seat.cid c.seat.task stage level addr entry)
      | .absent stage addr _ => ask (stage, addr) 0
      | .held => (.hold, s)
      | .page p =>
        let s' := markLeaves (if needDirties need && f.tracksDirty then 6 else 4) p.leaves s
        if p.mg then (.hold, s)
        else if !p.grants need then ask (p.faultPlace va (!p.firstStage.grants need)) 1
        else if e.lcreq < p.cls c.seat.die then ask (p.faultPlace va (decide (e.lcreq < p.firstStage.lc))) 2
        else (lookOwned s pick p.pa, s')

/-- An access of a core: the PA of each byte, or why it does not proceed. -/
abbrev Access := Except Look (List Nat)

def lookPieces (c : StreamCore) (x need : Nat) : List (Nat × Nat) → State → Access × State
  | [], s => (.ok [], s)
  | (va, n) :: ps, s =>
    let r := lookPage s c x va need
    match r.1 with
    | .at_ pa =>
      let rest := lookPieces c x need ps r.2
      (rest.1.map fun l => (List.range n).map (pa + ·) ++ l, rest.2)
    | l => (.error l, r.2)

/-- Translate an access of up to 64 KiB at an offset of an extent. -/
def access (s : State) (c : StreamCore) (x off n need : Nat) : Access × State := lookPieces c x need (pieces ((c.dev.extent x).base + off) n) s

/-- The leaves that an access which has found its pages has gone through, from the states before and after its look-up (R75). -/
def usedLeaves (before after : State) (c : StreamCore) (x off n : Nat) : List (Nat × Nat) :=
  let e := c.dev.extent x
  ((pieces (e.base + off) n).mapIdx fun k p =>
    if !e.perAccess then (((coreOf after c.seat.cid).bind fun c => c.dev.runAt x p.1).map fun r => r.leavesAt p.1).getD []
    else match (fnOf before c.seat.fn).map fun f => translate before f (Config.freeNat (before.draws + k)) p.1 with
      | some (.page q) => q.leaves
      | _ => []).flatten

/-- The PA of one byte of an extent, where it has one, without an access being made. -/
def placeOf (s : State) (c : StreamCore) (x off : Nat) : Option Nat :=
  let e := c.dev.extent x
  let va := e.base + off
  if !e.perAccess then (c.dev.runAt x va).map fun r => routed s 0 (r.pa + (va - r.va))
  else match (fnOf s c.seat.fn).map fun f => translate s f 0 va with
    | some (.page p) => some (routed s 0 p.pa)
    | _ => none

end Sys2Proof.Machine
end

