-- ==== Sys2Proof/Machine/DevOps.lean ====
section
/-! DEFINITION. What a core reads of device memory, how its stores become current, and how its accesses are performed (R105 to R118, R129, R312 to R314). -/
namespace Sys2Proof.Machine

/-! ### The overlay and the snapshot (R105 to R107) -/

/-- Stores as bytes by location, in program order. -/
def bytesOfStores (s : State) (c : StreamCore) (ps : List PendStore) : List (Nat × Byte) :=
  (sortBy (fun a b => decide (a.seq < b.seq)) ps).flatMap fun p =>
    (p.bytes.mapIdx fun i b => (placeOf s c p.x (p.off + i)).map fun pa => (pa, b)).filterMap id

/-- Own stores not yet current, published or not. -/
def DevView.stores (d : DevView) : List PendStore := (d.late.map fun l => l.1) ++ d.pend

/-- Own pending stores issued before `seq` as bytes by location, in program order. -/
def pendBytes (s : State) (c : StreamCore) (seq : Nat) : List (Nat × Byte) := bytesOfStores s c (c.dev.stores.filter fun p => decide (p.seq < seq))

/-- The newest own write to a location that is newer than the snapshot: the last in program order. DEDUCED (log 45). -/
def newestOwn (snapStamp seq pa : Nat) : List OwnWrite → Option OwnWrite
  | [] => none
  | w :: ws =>
    let r := newestOwn snapStamp seq pa ws
    if w.pa = pa && decide (snapStamp < w.stamp) && decide (w.seq < seq) then
      (match r with
      | some v => if w.seq ≤ v.seq then some v else some w
      | none => some w)
    else r

/-- The last of a list of writes to a location. -/
def lastWrite (pa : Nat) : List (Nat × Byte) → Option Byte
  | [] => none
  | w :: ws => match lastWrite pa ws with
    | some b => some b
    | none => if w.1 = pa then some w.2 else none

/-- What a plain load of one location, at place `seq` in program order, returns (R106). A STD.REL of the core that has issued but has not been performed has released no value yet: DESIGN CHOICE (log 53). DEDUCED (log 45). -/
def plainByte (s : State) (c : StreamCore) (seq pa : Nat) : Byte :=
  match lastWrite pa (pendBytes s c seq) with
  | some b => b
  | none => match newestOwn c.dev.snapStamp seq pa c.dev.own with
    | some w => w.val
    | none => peek c.dev.snap pa

/-- What a plain load that issues now reads (R106). -/
def DevView.asRead (d : DevView) : LoadView := { snap := d.snap, snapStamp := d.snapStamp, own := d.own, pend := d.stores }

/-- The core as it stood when a load issued. -/
def LoadView.onto (w : LoadView) (c : StreamCore) : StreamCore :=
  { c with dev := { c.dev with snap := w.snap, snapStamp := w.snapStamp, own := w.own, pend := w.pend, late := [] } }

/-- Refresh the snapshot: the overlay keeps pending stores only (R107). -/
def StreamCore.refresh (c : StreamCore) (view : List Host.Cell) (stamp : Nat) : StreamCore :=
  { c with dev := { c.dev with snap := view, snapStamp := stamp, own := [] } }

/-! ### Publication (R108, R113, R115, R126) -/

/-- The failure of an access (R129). -/
def addFailure (f : Failure) (s : State) (cid : Nat) : State := onCore s cid fun c => { c with dev := { c.dev with fails := c.dev.fails ++ [f] } }

/-- Make one store current at a scope. `keep` puts it into the core's overlay. A refused store is a failure; one whose page is under resolution, migrating or to be walked again is performed when that ends (R65, R71, R72). DEDUCED (log 29). -/
def publishOne (cid scope : Nat) (keep : Bool) (p : PendStore) (s : State) : State :=
  match coreOf s cid, p.req with
  | none, _ => s
  | some _, some q => onCore s cid fun c => { c with dev := { c.dev with late := c.dev.late ++ [(p, some q, scope)] } }
  | some c, none =>
    let r := access s c p.x p.off p.bytes.length needWrite
    match r.1 with
    | .ok pas =>
      let ws := pas.zip p.bytes
      let s := writeScoped r.2 cid p.seq scope ws
      if keep then onCore s cid fun c => { c with dev := { c.dev with own := c.dev.own ++ ws.map fun w => { seq := p.seq, stamp := s.stamp, pa := w.1, val := w.2 } } }
      else s
    | .error (.refused d) => addFailure { seq := p.seq, cause := 0x0E, detail := d, tval := xoWord p.x p.off, sb := none } r.2 cid
    | .error (.request q) => onCore r.2 cid fun c => { c with dev := { c.dev with late := c.dev.late ++ [(p, some q, scope)] } }
    | .error _ => onCore r.2 cid fun c => { c with dev := { c.dev with late := c.dev.late ++ [(p, none, scope)] } }

/-- Publish the pending stores of a core that satisfy `which`, in program order. -/
def publish (s : State) (cid scope : Nat) (keep : Bool) (which : PendStore → Bool) : State :=
  match coreOf s cid with
  | none => s
  | some c =>
    let out := c.dev.pend.filter which
    let s := onCore s cid fun c => { c with dev := { c.dev with pend := c.dev.pend.filter fun p => !which p } }
    out.foldl (fun s p => publishOne cid scope keep p s) s

/-! ### Performing an access (R113 to R116, R129, R312 to R314) -/

/-- The atomic's new value: none where it writes nothing (R314). -/
def atomResult (sub w : Nat) (sg : Bool) (old a b : Nat) : Option Nat :=
  match sub with
  | 0 => some ((old + a) % 2 ^ w)
  | 1 => some (old &&& a)
  | 2 => some (old ||| a)
  | 3 => some (old ^^^ a)
  | 4 => some (if asInt w sg a < asInt w sg old then a else old)
  | 5 => some (if asInt w sg old < asInt w sg a then a else old)
  | 6 => some a
  | _ => if old = b then some a else none

/-- Can the path to the location carry the atomic (R129)? SUB 8 stands for CAS128. DESIGN CHOICE (log 9). -/
def carried (s : State) (pa sub : Nat) : Bool :=
  if isHost pa then s.hostAtomics && (sub == 0 || sub == 6 || sub == 7 || sub == 8)
  else match remoteDevice pa with
    | some d => !s.poolAtomics.contains (d, sub)
    | none => true

/-- The outcome of trying to perform an access. -/
inductive Done where
  /-- performed; the value to land -/
  | value (v : Nat)
  | notCarried
  | look (l : Look)

/-- The set a release publishes, at its scope (R113). -/
def releaseSet (s : State) (cid scope seq : Nat) : State := publish s cid scope true fun p => decide (p.seq < seq)

/-- Replace each of several bytes by the last of a list of writes to it (R114). -/
def overBytes (ws : List (Nat × Byte)) (pas : List Nat) (bs : List Byte) : List Byte := (pas.zip bs).map fun x => (lastWrite x.1 ws).getD x.2

/-- Replace each of several bytes by the core's pending stores to it (R114). -/
def overPending (s : State) (c : StreamCore) (seq : Nat) (pas : List Nat) (bs : List Byte) : List Byte := overBytes (pendBytes s c seq) pas bs

/-- What right the access needs; an atomic sets DI only once it is known to write (R75, R314). -/
def VarOp.need (v : VarOp) : Nat :=
  match v.kind with
  | .release => needWrite
  | .atom _ => needAtomic + needWithout
  | .cas128 => needAtomic + needWithout
  | _ => needRead

/-- SUB of an atomic, 8 for CAS128; none for another access. -/
def VarKind.sub? : VarKind → Option Nat
  | .atom sub => some sub
  | .cas128 => some 8
  | _ => none

/-! ### The order of a core's accesses (R103, R113 to R117) -/


/-- Does it refresh the snapshot (R114, R116)? -/
def VarOp.acquires (v : VarOp) : Bool := v.kind == .acquire || (v.kind.sub?.isSome && (v.ord == 1 || v.ord == 3))

/-- Does it publish (R113, R116)? -/
def VarOp.releases (v : VarOp) : Bool := v.kind == .release || (v.kind.sub?.isSome && (v.ord == 2 || v.ord == 3))

def VarOp.writes (v : VarOp) : Bool := v.kind == .release || v.kind.sub?.isSome

/-- Do two accesses of the core share a byte, as their extents place them? -/
def StreamCore.overlap (c : StreamCore) (u v : VarOp) : Bool :=
  let a := (c.dev.extent u.x).base + u.off
  let b := (c.dev.extent v.x).base + v.off
  decide (a < b + v.n) && decide (b < a + u.n)

/-- Does an earlier access that has not been performed keep a later one from being performed? An acquire does; a write does where the later one releases; any access does that shares a byte with it. A plain load's value is fixed at its issue, so that it neither waits nor is waited for. DEDUCED (log 12). -/
def StreamCore.bars (c : StreamCore) (u v : VarOp) : Bool :=
  decide (u.seq < v.seq) && u.isOpen && u.kind != .load && v.kind != .load && (u.acquires || (v.releases && u.writes) || c.overlap u v)

def StreamCore.mayPerform (c : StreamCore) (v : VarOp) : Bool := !(c.dev.vars.any fun u => c.bars u v)

/-- The access that must be performed first before v can be: v itself where nothing bars it. -/
def StreamCore.firstBar (c : StreamCore) : Nat → VarOp → VarOp
  | 0, v => v
  | n + 1, v => match c.dev.vars.find? fun u => c.bars u v with
    | some u => c.firstBar n u
    | none => v

/-- A published store issued before `seq` is not current yet: nothing after it in a release is (R113, R116). -/
def StreamCore.lateBefore (c : StreamCore) (seq : Nat) : Bool := c.dev.late.any fun l => decide (l.1.seq < seq)

/-- A published store issued before `seq` to one of the locations is not current yet (R115). -/
def lateOver (s : State) (c : StreamCore) (seq : Nat) (pas : List Nat) : Bool :=
  (bytesOfStores s c ((c.dev.late.map fun l => l.1).filter fun p => decide (p.seq < seq))).any fun w => pas.contains w.1

/-- Is a page of the range held for the table in which a write would set DI (R72)? -/
def rangeHeld (s : State) (c : StreamCore) (x off n : Nat) : Bool :=
  (pieces ((c.dev.extent x).base + off) n).any fun p => dirtyHeld s c.seat.fn p.1

/-- Own writes that have become current (R105). -/
def keepOwn (s : State) (cid seq : Nat) (ws : List (Nat × Byte)) : State :=
  onCore s cid fun c => { c with dev := { c.dev with own := c.dev.own ++ ws.map fun w => { seq := seq, stamp := s.stamp, pa := w.1, val := w.2 } } }

/-- What an atomic writes, given what its location holds (R314, R327): none where it writes nothing. -/
def VarOp.newValue (v : VarOp) (old : Nat) : Option Nat :=
  match v.kind with
  | .atom sub => atomResult sub (8 * v.n) v.sg old (v.a.toNat % 2 ^ (8 * v.n)) (v.b.toNat % 2 ^ (8 * v.n))
  | _ => if old = v.c then some (v.b.toNat * 2 ^ 64 + v.a.toNat) else none

/-- An atomic on bytes whose places are known, reached through the given leaves (R115, R116). The pending stores that overlap its bytes are published just before it, at system scope: the manual does not say at which. DESIGN CHOICE (log 29). -/
def performAtomic (s : State) (cid : Nat) (v : VarOp) (pas : List Nat) (leaves : List (Nat × Nat)) : Done × State :=
  let s := if v.releases then releaseSet s cid v.scope v.seq else s
  match coreOf s cid with
  | none => (.value 0, s)
  | some c =>
    let s := publish s cid 4 true fun p => decide (p.seq < v.seq) && (List.range p.bytes.length).any fun i => match placeOf s c p.x (p.off + i) with
      | some pa => pas.contains pa
      | none => false
    let old := leNat (pas.map fun pa => peek (homeImage s) pa)
    let new := v.newValue old
    let waits := match coreOf s cid with
      | some c => (v.releases && c.lateBefore v.seq) || lateOver s c v.seq pas
      | none => false
    if waits || (new.isSome && rangeHeld s c v.x v.off v.n) then (.look .hold, s)
    else
      let s := match new with
        | none => s
        | some x =>
          let ws := pas.zip (leBytes v.n x)
          keepOwn (writeSys (dirtyLeaves s c.seat.fn leaves) ws) cid v.seq ws
      let s := if v.acquires then
          let view := takeView s cid v.scope
          onCore view.2 cid fun c => c.refresh view.1 view.2.stamp
        else s
      (.value old, s)

/-- Perform a scoreboarded access of a core. What a release publishes and its own value become current at one moment, so that no agent sees the one without the other (R113). DESIGN CHOICE (log 29). -/
def perform (s0 : State) (cid : Nat) (v : VarOp) : Done × State :=
  match coreOf s0 cid with
  | none => (.value 0, s0)
  | some c =>
    let r := access s0 c v.x v.off v.n v.need
    match r.1 with
    | .error l => (.look l, r.2)
    | .ok pas =>
      let s := r.2
      match v.kind with
      | .load =>
        let c := match v.view with
          | some w => w.onto c
          | none => c
        (.value (v.fixed.getD (leNat (pas.map fun pa => plainByte s c v.seq pa))), s)
      | .acquire =>
        let view := takeView s cid v.scope
        let val := leNat (overPending view.2 c v.seq pas (pas.map fun pa => peek view.1 pa))
        (.value val, onCore view.2 cid fun c => c.refresh view.1 view.2.stamp)
      | .release =>
        let s := releaseSet s cid v.scope v.seq
        if ((coreOf s cid).map fun c => c.lateBefore v.seq).getD false then (.look .hold, s)
        else
          let ws := pas.zip (leBytes v.n v.a.toNat)
          (.value 0, keepOwn (writeScoped s cid v.seq v.scope ws) cid v.seq ws)
      | k =>
        if (pas.head?.map fun pa => carried s pa (k.sub?.getD 8)).getD true then performAtomic s cid v pas (usedLeaves s0 s c v.x v.off v.n) else (.notCarried, s)

/-- The register writes of a landing value. -/
def landValue (v : VarOp) (x : Nat) (c : StreamCore) : StreamCore :=
  match v.kind with
  | .release => c
  | .cas128 => (c.writeS v.d (BitVec.ofNat 64 x)).writeS (v.d + 1) (BitVec.ofNat 64 (x / 2 ^ 64))
  | _ => c.writeS v.d (ext64 (8 * v.n) v.sg x)

/-- A scoreboarded access leaves: its scoreboard goes down. -/
def StreamCore.varDone (c : StreamCore) (v : VarOp) : StreamCore :=
  let c := { c with dev := { c.dev with vars := c.dev.vars.filter fun w => w.seq != v.seq } }
  match v.sb with
  | some n => c.sbDown n
  | none => c

/-- A scoreboarded access fails: it waits for its report, which releases the scoreboard (R65, R129). -/
def failVar (s : State) (cid : Nat) (v : VarOp) (cause detail : Nat) : State :=
  let s := onCore s cid fun c => { c with dev := { c.dev with vars := c.dev.vars.filter fun w => w.seq != v.seq } }
  let s := match coreOf s cid with
    | some c => if c.seat.live then addFailure { seq := v.seq, cause := cause, detail := detail, tval := xoWord v.x v.off, sb := v.sb } s cid else s
    | none => s
  match coreOf s cid with
  | some c => reap s c.seat.fn c.seat.task c.seat.bench
  | none => s

/-- Change the stage of an access. -/
def setStage (s : State) (cid : Nat) (v : VarOp) (st : VarStage) : State :=
  onCore s cid fun c => { c with dev := { c.dev with vars := c.dev.vars.map fun w => if w.seq = v.seq then { w with stage := st } else w } }

/-- Land a scoreboarded access: a performed value is written, another is performed first (R174, R176). A context that has ended takes no result (R223, R390). DEDUCED (log 29). -/
def landVar (s : State) (cid : Nat) (v : VarOp) : State :=
  let fin := fun (x : Nat) (s : State) =>
    let s := onCore s cid fun c => (if c.seat.live then landValue v x c else c).varDone v
    match coreOf s cid with
    | some c => reap s c.seat.fn c.seat.task c.seat.bench
    | none => s
  match v.stage with
  | .performed x => fin x s
  | _ =>
    let r := perform s cid v
    match r.1 with
    | .value x => fin x r.2
    | .notCarried => failVar r.2 cid v 0x0F 0
    | .look (.refused d) => failVar r.2 cid v 0x0E d
    | .look (.request q) => setStage r.2 cid v (.resolving (some q))
    | .look _ => setStage r.2 cid v (.resolving none)

/-- Perform a scoreboarded access before its result lands; it lands at a time of its own (R115, R176). DEDUCED (log 29). -/
def performVar (s : State) (cid : Nat) (v : VarOp) : State :=
  let r := perform s cid v
  let d := draw r.2
  let later := fun (n : Nat) (st : VarStage) =>
    onCore d.2 cid fun c => { c with dev := { c.dev with vars := c.dev.vars.map fun w => if w.seq = v.seq then { w with stage := st, due := s.wall + n + d.1 } else w } }
  match r.1 with
  | .value x => later 0 (.performed x)
  | .notCarried => failVar r.2 cid v 0x0F 0
  | .look (.refused k) => failVar r.2 cid v 0x0E k
  | .look (.request q) => later 1 (.resolving (some q))
  | .look _ => later 1 (.resolving none)

/-- Is access number `seq` of a core still to be performed? -/
def stillOpen (s : State) (cid seq : Nat) : Bool := ((coreOf s cid).map fun c => c.dev.vars.any fun v => v.seq == seq && v.isOpen).getD false

/-- Perform now the accesses of a core that satisfy `which`, each after what bars it; false where one of them cannot be performed yet. -/
def forceVars (cid : Nat) (which : VarOp → Bool) : Nat → State → Bool × State
  | 0, s => (false, s)
  | n + 1, s => match (coreOf s cid).bind fun c => (c.dev.vars.find? fun v => v.isOpen && which v).map fun v => c.firstBar c.dev.vars.length v with
    | none => (true, s)
    | some u => match u.stage with
      | .resolving (some _) => (false, s)
      | _ =>
        let t := performVar s cid u
        if stillOpen t cid u.seq then (false, t) else forceVars cid which n t

/-- The acquires a core issued before `seq` are performed before a plain load at that place issues (R117). DEDUCED (log 12). -/
def forceAcquires (s : State) (cid seq : Nat) : Bool × State :=
  match coreOf s cid with
  | none => (true, s)
  | some c => forceVars cid (fun v => v.acquires && decide (v.seq < seq)) (c.dev.vars.length + 1) s

end Sys2Proof.Machine
end

