-- ==== Sys2Proof/Machine/PolicyCode.lean ====
section
/-! DEFINITION. The encoding of policy bytecodes (R364) and the field checks whose failure is reason 2 of R368. -/
namespace Sys2Proof.Machine

/-- OP, D, A, BI and B of a bytecode (R364). -/
structure TchFields where
  op : BitVec 6
  d : BitVec 4
  a : BitVec 4
  bi : Bool
  b : BitVec 16
deriving DecidableEq, Repr

/-- The 32 bits of a bytecode: bit 16 is reserved and zero. -/
def tchWord (t : TchFields) : BitVec 32 := t.op ++ t.d ++ t.a ++ BitVec.ofBool t.bi ++ 0#1 ++ t.b

def tchFieldsOf (w : BitVec 32) : TchFields :=
  { op := w.extractLsb' 26 6, d := w.extractLsb' 22 4, a := w.extractLsb' 18 4, bi := w.getLsbD 17, b := w.extractLsb' 0 16 }

/-- The fields a policy bytecode is written with (R364). -/
def tchFields? : Instr → Option TchFields
  | .tchMov d bi b => some { op := 0x00, d := d, a := 0, bi := bi, b := b }
  | .tchAdd d a bi b => some { op := 0x01, d := d, a := a, bi := bi, b := b }
  | .tchSub d a bi b => some { op := 0x02, d := d, a := a, bi := bi, b := b }
  | .tchAnd d a bi b => some { op := 0x03, d := d, a := a, bi := bi, b := b }
  | .tchOr d a bi b => some { op := 0x04, d := d, a := a, bi := bi, b := b }
  | .tchXor d a bi b => some { op := 0x05, d := d, a := a, bi := bi, b := b }
  | .tchShl d a bi b => some { op := 0x06, d := d, a := a, bi := bi, b := b }
  | .tchShr d a bi b => some { op := 0x07, d := d, a := a, bi := bi, b := b }
  | .tchMin d a bi b => some { op := 0x08, d := d, a := a, bi := bi, b := b }
  | .tchMax d a bi b => some { op := 0x09, d := d, a := a, bi := bi, b := b }
  | .tchMul d a bi b => some { op := 0x0A, d := d, a := a, bi := bi, b := b }
  | .tchLui d imm => some { op := 0x0B, d := d, a := 0, bi := true, b := imm }
  | .tchCeq d a bi b => some { op := 0x10, d := d, a := a, bi := bi, b := b }
  | .tchClt d a bi b => some { op := 0x11, d := d, a := a, bi := bi, b := b }
  | .tchClts d a bi b => some { op := 0x12, d := d, a := a, bi := bi, b := b }
  | .tchBz a off => some { op := 0x18, d := 0, a := a, bi := true, b := 0#8 ++ off }
  | .tchBnz a off => some { op := 0x19, d := 0, a := a, bi := true, b := 0#8 ++ off }
  | .tchJmp off => some { op := 0x1A, d := 0, a := 0, bi := true, b := 0#8 ++ off }
  | .tchLoopn d len n => some { op := 0x1B, d := d, a := 0, bi := true, b := 0#4 ++ len ++ n }
  | .tchQrd d a f => some { op := 0x20, d := d, a := a, bi := true, b := f }
  | .tchCrd d a f => some { op := 0x21, d := d, a := a, bi := true, b := f }
  | .tchErd d f => some { op := 0x22, d := d, a := 0, bi := true, b := f }
  | .tchPrd d f => some { op := 0x23, d := d, a := 0, bi := true, b := f }
  | .tchFreeb d a => some { op := 0x24, d := d, a := a, bi := false, b := 0 }
  | .tchBind a b => some { op := 0x30, d := 0, a := a, bi := false, b := 0#12 ++ b }
  | .tchPreempt a => some { op := 0x31, d := 0, a := a, bi := false, b := 0 }
  | .tchKill a => some { op := 0x32, d := 0, a := a, bi := false, b := 0 }
  | .tchRefill a bi b => some { op := 0x33, d := 0, a := a, bi := bi, b := b }
  | .tchDefer a => some { op := 0x34, d := 0, a := a, bi := false, b := 0 }
  | .tchPrio a bi b => some { op := 0x35, d := 0, a := a, bi := bi, b := b }
  | .tchEnd => some { op := 0x3F, d := 0, a := 0, bi := false, b := 0 }
  | _ => none

/-- A register operand leaves B[15:4] zero (R364). -/
def tchB (bi : Bool) (b : BitVec 16) : Bool := bi || decide (b.toNat < 16)

/-- Field numbers, offsets and lengths R364 and R365 list. -/
def tchOk : Instr → Bool
  | .tchMov _ bi b => tchB bi b
  | .tchAdd _ _ bi b => tchB bi b
  | .tchSub _ _ bi b => tchB bi b
  | .tchAnd _ _ bi b => tchB bi b
  | .tchOr _ _ bi b => tchB bi b
  | .tchXor _ _ bi b => tchB bi b
  | .tchShl _ _ bi b => tchB bi b
  | .tchShr _ _ bi b => tchB bi b
  | .tchMin _ _ bi b => tchB bi b
  | .tchMax _ _ bi b => tchB bi b
  | .tchMul _ _ bi b => tchB bi b
  | .tchCeq _ _ bi b => tchB bi b
  | .tchClt _ _ bi b => tchB bi b
  | .tchClts _ _ bi b => tchB bi b
  | .tchLoopn _ len _ => decide (len ≠ 0)
  | .tchQrd _ _ f => decide (f.toNat < 9)
  | .tchCrd _ _ f => decide (f.toNat < 5)
  | .tchErd _ f => decide (f.toNat < 5)
  | .tchPrd _ f => decide (f.toNat < 4)
  | .tchRefill _ bi b => tchB bi b
  | .tchPrio _ bi b => tchB bi b
  | _ => true

/-- The bytecode an OP names, before its fields are checked; reserved OPs name none. -/
def tchNamed (t : TchFields) : Option Instr :=
  match t.op.toNat with
  | 0x00 => some (.tchMov t.d t.bi t.b)
  | 0x01 => some (.tchAdd t.d t.a t.bi t.b)
  | 0x02 => some (.tchSub t.d t.a t.bi t.b)
  | 0x03 => some (.tchAnd t.d t.a t.bi t.b)
  | 0x04 => some (.tchOr t.d t.a t.bi t.b)
  | 0x05 => some (.tchXor t.d t.a t.bi t.b)
  | 0x06 => some (.tchShl t.d t.a t.bi t.b)
  | 0x07 => some (.tchShr t.d t.a t.bi t.b)
  | 0x08 => some (.tchMin t.d t.a t.bi t.b)
  | 0x09 => some (.tchMax t.d t.a t.bi t.b)
  | 0x0A => some (.tchMul t.d t.a t.bi t.b)
  | 0x0B => some (.tchLui t.d t.b)
  | 0x10 => some (.tchCeq t.d t.a t.bi t.b)
  | 0x11 => some (.tchClt t.d t.a t.bi t.b)
  | 0x12 => some (.tchClts t.d t.a t.bi t.b)
  | 0x18 => some (.tchBz t.a (t.b.extractLsb' 0 8))
  | 0x19 => some (.tchBnz t.a (t.b.extractLsb' 0 8))
  | 0x1A => some (.tchJmp (t.b.extractLsb' 0 8))
  | 0x1B => some (.tchLoopn t.d (t.b.extractLsb' 4 8) (t.b.extractLsb' 0 4))
  | 0x20 => some (.tchQrd t.d t.a t.b)
  | 0x21 => some (.tchCrd t.d t.a t.b)
  | 0x22 => some (.tchErd t.d t.b)
  | 0x23 => some (.tchPrd t.d t.b)
  | 0x24 => some (.tchFreeb t.d t.a)
  | 0x30 => some (.tchBind t.a (t.b.extractLsb' 0 4))
  | 0x31 => some (.tchPreempt t.a)
  | 0x32 => some (.tchKill t.a)
  | 0x33 => some (.tchRefill t.a t.bi t.b)
  | 0x34 => some (.tchDefer t.a)
  | 0x35 => some (.tchPrio t.a t.bi t.b)
  | 0x3F => some .tchEnd
  | _ => none

/-- A bytecode word decodes when its OP is listed, its fields are allowed, and every bit the form does not use is zero: reason 2 of R368 otherwise. -/
def decodePolicy (w : BitVec 32) : Option Instr :=
  match tchNamed (tchFieldsOf w) with
  | none => none
  | some i => match tchFields? i with
    | none => none
    | some t => if tchOk i && tchWord t == w then some i else none

end Sys2Proof.Machine
end

