-- ==== Sys2Proof/WellFormed.lean ====
section
/-! DEFINITION. Well-formed instructions: the operand values an encoding admits (R180 reason 4, R368 reason 2). -/
namespace Sys2Proof

/-- A syllable whose fields R180 allows, a bytecode whose fields R368 allows, or an event. -/
def Instr.wf (i : Instr) : Bool := Machine.fieldsOk i && Machine.tchOk i

end Sys2Proof
end

