-- ==== Sys2Proof/Machine/Ops.lean ====
section
/-! DEFINITION. Issue of a syllable and of a group, landings, taking a trap and returning from one (R63, R64, R109, R161, R169 to R185, R222, R227, R234, R372 to R385). -/
namespace Sys2Proof.Machine

/-! ### Small operations on the core at turn -/

/-- Change the core at turn. -/
def State.onCore (s : State) (f : StreamCore → StreamCore) : State := { s with core := f s.core }

/-- Change its sequencer. -/
def State.onPipe (s : State) (f : Pipe → Pipe) : State := s.onCore fun c => { c with pipe := f c.pipe }

/-- Put a result in flight that lands n schedule cycles from now (R173). -/
def State.fly (s : State) (n : Nat) (e : Eff) : State :=
  s.onPipe fun p => { p with flights := p.flights ++ [{ due := p.cyc + n, seq := p.seq, eff := e, late := none }] }

/-! ### Arrival at a boundary (R9, R108, R111) -/

/-- The kind of the member's arrival at the next boundary. -/
def Seat.arrival (p : Seat) : Option Arrival := p.arrivals.head?

/-- Has every member arrived that has not ended? -/
def groupArrived (g : List StreamCore) : Bool :=
  (g.any fun c => c.seat.live) && g.all fun c => !c.seat.live || c.seat.arrival.isSome

/-- Have all of them arrived by TICK? -/
def groupTicks (g : List StreamCore) : Bool := g.all fun c => !c.seat.live || c.seat.arrival == some .tick

/-- Must what a member issued at place `seq` wait until its boundary turns out to be a TICK? What a TICK group asks of device memory and of the engines does, since on a mixed boundary it has asked for nothing (R108, R374). DEDUCED (log 15). -/
def heldBack (s : State) (c : StreamCore) (seq : Nat) : Bool :=
  match c.pipe.back with
  | some b => decide (b.seq ≤ seq) && !(groupArrived (matesOf s c) && groupTicks (matesOf s c))
  | none => false

/-- A result of the TICK group that has arrived lands when its boundary completes, its array commits never (R9, R108, R292). -/
def Pipe.waits (p : Pipe) (f : Flight) : Bool :=
  match p.back with
  | some b => decide (b.seq ≤ f.seq)
  | none => false

/-! ### Landing (R173, R291) -/

/-- Does a result wait for the scheduler's answer? -/
def Eff.asks : Eff → Bool
  | .nextWait _ => true
  | .growWait _ _ _ => true
  | _ => false

/-- The answer to a request that a result waits for, and the task after it (R156, R158, R225). -/
def Task.answer (t : Task) : Eff → Eff × Task
  | .nextWait phys =>
    (match t.deliver with
    | some (k, t') => (.nextDone phys k (t.identifierOf k), t')
    | none => (.qreg phys true 0, t))
  | .growWait d c amount =>
    (match t.raised amount.toNat with
    | some t' => (.growDone d c (BitVec.ofNat 64 (t'.topCount - 1)) 0 amount.toNat, t')
    | none => (.growDone d c (BitVec.ofNat 64 (t.topCount - 1)) 1 0, t))
  | e => (e, t)

/-- A request as its task sees it once the member has ended: what it asked for is done all the same. -/
def Request.alone (r : Request) (t : Task) : Task :=
  (t.answer (match r.amount with
    | none => .nextWait 0
    | some n => .growWait 0 0 n)).2

/-- NEXT identifiers and GROW raises that are due without having been served are served now, in the order in which requests reached the scheduler (R156, R157). DEDUCED (log 46). -/
def serveRequest (s : State) (fn task : Nat) (r : Request) : State :=
  match taskOf s fn task with
  | none => s
  | some t =>
    let waits := fun (f : Flight) => f.seq == r.seq && f.eff.asks
    match (r.cid.bind (coreOf s)).bind fun c => ((c.pipe.flights ++ c.pipe.held1 ++ c.pipe.held2).find? waits).map fun f => (c.seat.cid, f) with
    | none => onTask s fn task r.alone
    | some (cid, f) =>
      let a := t.answer f.eff
      let upd := fun (l : List Flight) => l.map fun g => if waits g then { g with eff := a.1 } else g
      Machine.onCore (onTask s fn task fun _ => a.2) cid fun c =>
        { c with pipe := { c.pipe with flights := upd c.pipe.flights, held1 := upd c.pipe.held1, held2 := upd c.pipe.held2 } }

/-- Serve the requests of a task up to and including the one of the given core and issue number. DEDUCED (log 46). -/
def serveUpTo (fn task : Nat) (cid : Option Nat) (seq : Nat) : List Request → State → State
  | [], s => s
  | r :: rs, s =>
    let s := onTask (serveRequest s fn task r) fn task fun t => { t with reqs := t.reqs.erase r }
    if r.cid = cid && r.seq = seq then s else serveUpTo fn task cid seq rs s

/-- Serve the requests of the core at turn that are due to land. DEDUCED (log 46). -/
def serveDue (s : State) : State :=
  (s.core.pipe.flights.filter fun f => decide (f.due ≤ s.core.pipe.cyc) && f.eff.asks).foldl (fun s f =>
    match taskOf s s.core.seat.fn s.core.seat.task with
    | some t => serveUpTo s.core.seat.fn s.core.seat.task (some s.core.seat.cid) f.seq t.reqs s
    | none => s) s

/-- Results due on this schedule cycle. -/
def Pipe.due (p : Pipe) : List Flight := p.flights.filter fun f => decide (f.due ≤ p.cyc) && !p.waits f

/-- Has the access a result that is written to a register (R174, R222)? DEDUCED (log 36). -/
def VarKind.result : VarKind → Bool
  | .release => false
  | _ => true

/-- The least issue number of a list of accesses. -/
def oldestSeq (vs : List VarOp) : Option Nat :=
  vs.foldl (fun m v => some (match m with
    | some n => min n v.seq
    | none => v.seq)) none

/-- The scoreboarded accesses that have come and have not left yet. -/
def StreamCore.come (c : StreamCore) (wall : Nat) : List VarOp := c.dev.vars.filter fun v => decide (v.due ≤ wall) && !v.isOpen

/-- Does a result land now: is it due, and no scoreboarded result of an earlier issue still to land on this cycle (R173)? A release has no result. Array commits come first (R291). -/
def StreamCore.landsNow (c : StreamCore) (wall : Nat) (f : Flight) : Bool :=
  decide (f.due ≤ c.pipe.cyc) && !c.pipe.waits f && (f.eff.isCommit || match oldestSeq ((c.come wall).filter fun v => v.kind.result) with
    | some n => decide (f.seq ≤ n)
    | none => true)

/-! ### Promised loads (R63, R64) -/

/-- Wall cycles after which a freeze on a promised load is abandoned (R64). -/
def timeoutCycles : Nat := 2 ^ 26

/-- Is the data of a promised load late on a wall cycle, given when the present freeze began? Data that comes during the freeze is there from the next wall cycle on, data that was there when it began from the start, and none once the freeze has reached its limit (R63, R64). Neither waits for the core to run: a core that its budget has stopped is past the freeze once the data has come (R385). DEDUCED (log 30). -/
def Promise.late (q : Promise) (frozenAt : Option Nat) (wall : Nat) : Bool :=
  q.failed || q.held || (!q.arrived && match frozenAt with
    | none => decide (wall < q.arrive)
    | some t => decide (t < q.arrive) && (decide (wall ≤ q.arrive) || decide (t + timeoutCycles ≤ q.arrive)))

/-- A promised load whose data has not come by its schedule cycle (R63). DEDUCED (log 30). -/
def Pipe.blocked (p : Pipe) (wall : Nat) : Option (Flight × Promise) :=
  (p.due.filterMap fun f => f.late.map fun q => (f, q)).find? fun x => x.2.late p.frozenAt wall

/-- The tiles as an ACCRD of this schedule cycle reads them (R124, R291). DEDUCED (log 28). -/
def StreamCore.tilesRead (c : StreamCore) : Store 32 := c.pipe.tilesBefore.getD c.regs.m

/-- The order in which results of one schedule cycle land: array commits, then the others in issue order, also those that an RTE has put back (R173, R275, R291, R343). -/
def landingOrder (d : List Flight) : List Flight :=
  (d.filter fun f => f.eff.isCommit) ++ sortBy (fun a b => decide (a.seq < b.seq)) (d.filter fun f => !f.eff.isCommit)

/-- Apply the results that land now (R173, R291). -/
def landDue (s : State) : State :=
  let s := serveDue s
  let lands := s.core.landsNow s.wall
  let d := s.core.pipe.flights.filter lands
  let order := landingOrder d
  let s := s.onPipe fun p => { p with flights := p.flights.filter fun f => !lands f }
  let s := if d.any fun f => f.eff.isTile then s.onCore fun c => { c with pipe := { c.pipe with tilesBefore := some (c.tilesRead) } } else s
  let s := s.onCore fun c => order.foldl (fun c f => c.apply f.eff) c
  s.onCore fun c =>
    { c with jobs := if c.jobs.isEmpty then c.jobs else c.jobs.filter fun j =>
        (c.pipe.flights ++ c.pipe.held1 ++ c.pipe.held2).any fun f => match f.eff with
          | .commit u _ _ => u == j.uid
          | _ => false }

/-! ### Taking a trap (R372 to R374) -/

/-- The TCAUSE word (R232). -/
def causeWord (t : Trap) : Word := BitVec.ofNat 64 (t.detail % 256 * 2 ^ 24 + t.pos % 16 * 2 ^ 20 + t.cls % 16 * 2 ^ 16 + t.code % 256)

/-- Results due after this cycle, held with their offsets (R374). -/
def Pipe.heldNow (p : Pipe) : List Flight := p.flights.map fun f => { f with due := f.due - p.cyc }

/-- Bank the trap at level n, hold the results in flight, suspend an active nest, and point the sequencer at the handler (R372). Causes that were due on the group and have been passed over are not recorded (R382). DEDUCED (log 1). -/
def StreamCore.enterTrap (c : StreamCore) (t : Trap) (n : Nat) : StreamCore :=
  let y := c.sys
  let p := c.pipe
  let g := BitVec.ofNat 64 p.glen
  { c with
    sys := if n = 1 then { y with tl := 1, tcause1 := causeWord t, tret1 := p.pc.setWidth 64, tval1 := t.tval, tglen1 := g }
      else { y with tl := 2, tcause2 := causeWord t, tret2 := p.pc.setWidth 64, tval2 := t.tval, tglen2 := g }
    pipe := { p with
      flights := []
      held1 := if n = 1 then p.heldNow else p.held1
      held2 := if n = 1 then p.held2 else p.heldNow
      fmtrPend := []
      fmtrHeld1 := if n = 1 then p.fmtrPend else p.fmtrHeld1
      fmtrHeld2 := if n = 1 then p.fmtrHeld2 else p.fmtrPend
      cache := []
      reads := []
      claimPaid := false
      loop := p.loop.map fun l => match l.susp with
        | some _ => l
        | none => { l with susp := some p.pc, rotw := y.rotw }
      pc := y.tvec.setWidth 80
      overflow := []
      timeout := none
      nextIssue := p.cyc + 4
      gpos := 0
      glen := 1
      target := none
      after := []
      mark := .trapped t } }

/-- An uncorrectable read that traps is reported to the error ring as well (R30, R34). -/
def reportLost (t : Trap) (s : State) : State :=
  if t.code = 0x23 then
    let g := t.tval.toNat / 64
    emitSoft s s.core 3 (g % 16) (g / 16) t.tval.toNat (s.core.sp.counts.get (g % 16)).toNat
  else if t.code = 0x1C then
    -- the sample read that holds the error, from the lag TVAL names downwards
    let at_ := ((s.core.sig (t.tval.toNat / 2 ^ 56)).bind fun g => (g.samples.take (t.tval.toNat % 2 ^ 56 + 1)).reverse.findSome? fun x => x.bad).getD (0, 0)
    emitSoft s s.core 6 at_.1 at_.2 t.tval.toNat (s.core.tapBanks.counts.get at_.1).toNat
  else s

/-- Take a trap on the group at issue, or kill the context when it cannot be taken (R372, R377, R390). -/
def takeTrap (t : Trap) (s : State) : State :=
  let s := reportLost t s
  let c := s.core
  if c.sys.tl = 2 || c.sys.tvec = 0 then
    let how := if c.sys.tl = 2 then (if t.code = 8 && c.pipe.pc == c.sys.tvec.setWidth 80 then 2 else 0) else 1
    (killCore s c.seat.cid how (causeWord t).toNat (c.pipe.pc.setWidth 64) t.tval).onPipe fun p => { p with mark := .trapped t, gpos := 0, glen := 1 }
  else s.onCore fun c => c.enterTrap t (c.sys.tl + 1)

/-- A precise trap of the syllable at position `gpos`. -/
def State.trapHere (s : State) (cls code detail : Nat) (tval : Word) : Trap :=
  { code := code, detail := detail, pos := s.core.pipe.gpos, cls := cls, tval := tval }

/-- A trap that no single syllable causes (R380). -/
def groupTrap (code detail : Nat) (tval : Word) : Trap := { code := code, detail := detail, pos := 15, cls := 15, tval := tval }

/-! ### Illegal groups (R180, R181) -/

/-- A syllable of the group at issue: CLASS, STOP, and its instruction or why it is none. -/
structure Slot where
  cls : Nat
  stop : Bool
  ins : Except Reject Instr

def slotOf (i : Instr) : Slot :=
  match syl? i with
  | some y => { cls := y.cls, stop := y.h.stop, ins := .ok i }
  | none => { cls := 0, stop := true, ins := .ok i }

/-- The header of an instruction that is a syllable. -/
def hdr? (i : Instr) : Option Hdr := (syl? i).map Syl.h

/-- The slot limits of R170. -/
def classLimit (cls : Nat) : Nat := nth [2, 3, 1, 1, 1, 1, 1, 1, 1, 2] cls 16

/-- The control syllables of R170. -/
def isControl : Instr → Bool
  | .br _ _ | .brc _ _ | .call _ _ | .ret _ _ | .loop _ _ | .waitany _ _ | .waitall _ _ | .tick _ _ | .phase _ _ | .exit _ _ | .trap _ _ | .rte _ _ | .iflush _ _ => true
  | _ => false

def Slot.control (y : Slot) : Bool :=
  match y.ins with
  | .ok i => isControl i
  | .error _ => false

/-- SETFMT and FCFG are refused by the value they read at issue (R229, R337). CVT and CVTQ with .q: the part is below the ratio under FMTR, or counted modulo it (R299), so nothing is refused. -/
def dynamicOk (c : StreamCore) : Instr → Bool
  | .setfmt _ o => decide (bits (c.sreg o.a.toNat).toNat 63 12 = 0)
  | .fcfg _ o => if o.bsel.toNat = 1 then
      let w := c.sreg o.b.toNat
      decide (bits w.toNat 63 40 = 0) && frontCfgOk (w.setWidth 40)
    else true
  | _ => true

/-- Positions i of a list for which p holds of i and the element, as a mask. -/
def maskOf (n : Nat) (p : Nat → Bool) : Nat := ((List.range n).map fun i => if p i then 2 ^ i else 0).foldl (· + ·) 0

/-- The n-th slot's register use, placed in clusters, with its header. -/
def Slot.use (y : Slot) : RegUse × Hdr :=
  match y.ins with
  | .ok i => match hdr? i with
    | some h => (regUse i, h)
    | none => (RegUse.none, hdrOf true 0)
  | .error _ => (RegUse.none, hdrOf true 0)

/-- Vector and scalar registers a slot reads through the ports of R178. -/
def Slot.portReads (y : Slot) : List (RFile × Nat × Nat) :=
  let u := y.use
  let once := fun (l : List Nat) (r : Nat) => decide ((l.filter fun x => x == r).length = (u.1.reads.filter fun x => x.1 == .v && x.2 == r).length)
  (placed u.2 (u.1.reads.filter fun r => match r.1 with
    | .s => true
    | .v => !(once (u.1.claims ++ u.1.offPort) r.2)
    | _ => false)).eraseDups

/-- Slots whose port reads take a count past its limit (R178, R180 reason 6). -/
def portMask : Nat → List (RFile × Nat × Nat) → List Slot → Nat
  | _, _, [] => 0
  | i, seen, y :: ys =>
    let new := y.portReads.filter fun r => !seen.contains r
    let all := seen ++ new
    let beyond := (List.range 8).any (fun cl =>
        (new.any fun r => r.1 == .v && r.2.1 == cl) && decide (8 < (all.filter fun r => r.1 == .v && r.2.1 == cl).length))
      || ((new.any fun r => r.1 == .s) && decide (6 < (all.filter fun r => r.1 == .s).length))
    (if beyond then 2 ^ i else 0) + portMask (i + 1) all ys

def Slot.written (y : Slot) : List (RFile × Nat × Nat) := placed y.use.2 y.use.1.writes
def Slot.readRegs (y : Slot) : List (RFile × Nat × Nat) := placed y.use.2 y.use.1.reads

def Slot.command (y : Slot) : Option LEcmd :=
  match y.ins with
  | .ok i => commandOf i
  | .error _ => none

/-- Do two slots write one register, or produce one tag (R180 reason 7)? -/
def clashWrite (a b : Slot) : Bool :=
  (a.written.any fun r => b.written.contains r) || (match a.command, b.command with
    | some x, some y => x.tp == y.tp
    | _, _ => false)

/-- Does a slot write one register twice (R225)? -/
def Slot.selfClash (y : Slot) : Bool := decide (y.written.eraseDups.length ≠ y.written.length)

/-- Does `a` read what `b` writes, or consume the tag it produces (R180 reason 8)? -/
def clashRead (a b : Slot) : Bool :=
  (a.readRegs.any fun r => b.written.contains r) || (match a.command, b.command with
    | some x, some y => (consumedTags x).contains y.tp.toNat
    | _, _ => false)

/-- The offending syllables of each reason of R180, in the order of the reasons; `ok` judges the values that instructions read. -/
def groupReasons (ok : Instr → Bool) (ss : List Slot) : List (Nat × Nat) :=
  let n := ss.length
  let at_ := fun i => nth ss i { cls := 15, stop := true, ins := .error .reservedClass }
  let before := fun (i : Nat) (p : Slot → Bool) => ((ss.take i).filter p).length
  let pairs := fun (p : Slot → Slot → Bool) => maskOf n fun i => (List.range n).any fun j => i != j && (p (at_ i) (at_ j))
  let sole := decide (n ≤ 1)
  [(1, if n = 16 && !(at_ 15).stop then 0xC000 else 0),
   (2, maskOf n fun i => match (at_ i).ins with
      | .error .reservedClass => true
      | _ => false),
   (3, maskOf n fun i => match (at_ i).ins with
      | .error .reservedOpcode => true
      | _ => false),
   (4, maskOf n fun i => match (at_ i).ins with
      | .ok x => !(x.wf && ok x)
      | .error _ => false),
   (5, if sole then 0 else maskOf n fun i => decide (classLimit (at_ i).cls ≤ before i fun y => y.cls == (at_ i).cls) || ((at_ i).control && decide (1 ≤ before i Slot.control))),
   (6, portMask 0 [] ss),
   (7, if sole then (if (at_ 0).selfClash then 1 else 0) else maskOf n fun i => (at_ i).selfClash || (List.range n).any fun j => i != j && clashWrite (at_ i) (at_ j)),
   (8, if sole then 0 else pairs fun a b => clashRead a b || clashRead b a)]

/-- The illegal-group report: lowest reason, all offending syllables (R181). -/
def illegalReport (ok : Instr → Bool) (ss : List Slot) : Option Word :=
  let rs := groupReasons ok ss
  match rs.find? fun r => r.2 != 0 with
  | none => none
  | some r => some (BitVec.ofNat 64 (r.1 * 2 ^ 16 + (rs.foldl (fun m x => m ||| x.2) 0) % 2 ^ 16))

/-! ### Illegal instructions (R10, R161, R215, R219, R222, R227, R228, R378) -/

/-- Does the context forbid the instruction? -/
def forbidden (c : StreamCore) (i : Instr) : Bool :=
  let tl := c.sys.tl
  let nest := c.nestActive
  match i with
  | .tick _ _ => decide (tl ≠ 0) || nest
  | .phase _ _ => decide (tl ≠ 0)
  | .loop _ _ => decide (tl ≠ 0) || nest
  | .mma _ _ | .mmac _ _ | .ldw _ _ | .mmodeExcl _ _ | .mmodeAlt _ _ => decide (tl ≠ 0)
  | .br _ _ | .brc _ _ | .call _ _ | .ret _ _ | .iflush _ _ => nest
  | .rte _ _ => decide (tl = 0)
  | .mtsr _ o =>
    (match o.d.toNat with
    | 4 | 6 | 8 | 10 => decide (tl = 0)
    | 5 | 7 | 9 | 11 => decide (tl < 2)
    | 18 => nest
    | _ => false)
  | _ => false

/-! ### Waits and freezes before issue -/

/-- The partner core of the pair (R163). -/
def partnerOf (s : State) : Option StreamCore := coreOf s (pairOf s.core.seat.cid)

/-- Failures awaiting report that hold a scoreboard of the set (R129). -/
def StreamCore.failsOn (c : StreamCore) (sbs : BitVec 8) : List Failure :=
  c.dev.fails.filter fun f => match f.sb with
    | some n => sbs.getLsbD n
    | none => false

/-- Scoreboards of the set that still count something other than failed accesses (R129, R174). -/
def StreamCore.sbBusy (c : StreamCore) (sbs : BitVec 8) : List Nat :=
  (List.range 8).filter fun n => sbs.getLsbD n && decide ((c.dev.fails.filter fun f => f.sb == some n).length < (c.regs.sb.get n).toNat)

/-- Is an access or command of the core under the resolution of a request (R65)? -/
def StreamCore.resolvingVar (c : StreamCore) (p : VarOp → Bool) : Bool := c.dev.vars.any fun v => (match v.stage with
  | .resolving (some _) => true
  | _ => false) && p v
def StreamCore.resolvingCmd (c : StreamCore) (tags : BitVec 64) : Bool :=
  c.dev.cmds.any fun k => k.resolving.any Option.isSome && tags.getLsbD k.tag

def isTick : Instr → Bool
  | .tick _ _ => true
  | _ => false

/-- Extent, offset and bytes of a scalar device-memory access (R311). -/
def StreamCore.ememRange (c : StreamCore) : Instr → Option (Nat × Int × Nat)
  | .ldd _ o | .lddP _ o | .lddAcq _ o | .std _ o | .stdRel _ o | .atomAdd _ o | .atomAnd _ o | .atomOr _ o | .atomXor _ o | .atomMin _ o | .atomMax _ o
  | .atomSwp _ o | .atomCas _ o | .cas128 _ o => some (o.x.toNat, signed64 (c.sreg o.o.toNat) + o.imm24.toNat, 2 ^ o.sz.toNat)
  | _ => none

/-- Does an access meet a run that is marked for re-walk (R71)? -/
def StreamCore.meetsMarked (c : StreamCore) (i : Instr) : Bool :=
  match c.ememRange i with
  | none => false
  | some (x, off, n) => decide (0 ≤ off) && (pieces ((c.dev.extent x).base + off.toNat) n).any fun p => match c.dev.runAt x p.1 with
    | some r => r.marked
    | none => false

/-- Is it a result that TICK waits for: no array work, and no scoreboard, which goes down with the result or the array work it stands for (R222)? -/
def Eff.isResult (e : Eff) : Bool := !e.isCommit && !e.isSb

/-- Is a front change of the core in flight (R345)? -/
def StreamCore.frontsMove (c : StreamCore) : Bool := c.pipe.flights.any fun f => f.eff.isFront

/-- The member's own work that TICK and PHASE wait for (R222, R345). DEDUCED (log 36). -/
def ownWork (s : State) (isTick : Bool) : Bool :=
  let c := s.core
  (s.windows.any fun w => w.cid == some c.seat.cid) || (s.exports.any fun w => w.cid == some c.seat.cid) || c.frontsMove ||
    (isTick && ((c.pipe.flights.any fun f => f.eff.isResult) || c.dev.vars.any fun v => v.kind.result))

/-- Must the acquires before a plain load of the core wait for a page (R117)? DEDUCED (log 12). -/
def StreamCore.acquireStuck (c : StreamCore) : Bool :=
  c.dev.vars.any fun v => v.acquires && v.isOpen && (match (c.firstBar c.dev.vars.length v).stage with
    | .resolving (some _) => true
    | _ => false)

/-- Tags a group's commands produce (R308). -/
def producedTags (is : List Instr) : BitVec 64 :=
  is.foldl (fun m i => match commandOf i with
    | some o => m ||| BitVec.ofNat 64 (2 ^ o.tp.toNat)
    | none => m) 0

/-- Does a group hold a plain load? -/
def plainLoad : Instr → Bool
  | .ldd _ _ | .lddP _ _ => true
  | _ => false

/-- Does the syllable stall while its member is ahead of a boundary (R109)? -/
def stallsAhead (c : StreamCore) : Instr → Bool
  | .ldd _ _ | .lddP _ _ | .lddAcq _ _ | .stdRel _ _ | .atomAdd _ _ | .atomAnd _ _ | .atomOr _ _ | .atomXor _ _ | .atomMin _ _ | .atomMax _ _ | .atomSwp _ _
  | .atomCas _ _ | .cas128 _ _ => true
  | .st _ o | .sts _ o | .stg _ o => c.windowRec o.rcd.toNat
  | .phase _ _ => decide (2 ≤ c.seat.arrivals.length)
  | i => (commandOf i).isSome

/-- Is array work of the core in progress at its schedule cycle n: an occupancy, a commit still to land, or one held under a trap (R286, R295)? -/
def StreamCore.arrayBusy (c : StreamCore) (n : Nat) : Bool :=
  decide (n < c.pipe.arrayFree) || (c.pipe.flights.any fun f => f.eff.isCommit && decide (n < f.due)) || (c.pipe.held1 ++ c.pipe.held2).any fun f => f.eff.isCommit

/-- The last schedule cycle whose landings a core has had or has on this wall cycle, as its partner asks: the even core has had its turn, and the odd one may spend its turn without a schedule cycle (R63). DEDUCED (log 34). -/
def StreamCore.cycleNow (c : StreamCore) (held : Bool) : Nat := if c.seat.cid % 2 = 0 || held then c.pipe.cyc - 1 else c.pipe.cyc

/-- Does an array syllable hold at issue (R163, R286, R295)? The occupancy runs on while a trap holds the commits of an MMA back, and RTE does not move it: after that a later array syllable may issue before the last of them (R374, R376). DESIGN CHOICE (log 47). -/
def arrayHold (s : State) : Instr → Bool
  | .mma _ _ | .mmac _ _ | .ldw _ _ =>
    decide (s.core.pipe.cyc < s.core.pipe.arrayFree) || (match partnerOf s with
      | some p => p.seat.live && p.sys.amode == 1
      | none => false)
  | .mmodeExcl _ _ | .mmodeAlt _ _ => s.core.arrayBusy s.core.pipe.cyc || (match partnerOf s with
      | some p => p.seat.live && p.arrayBusy (p.cycleNow s.core.pipe.partnerHeld)
      | none => false)
  | _ => false

/-- The tags a WAITALL or WAITANY names, and whether it is satisfied (R220). -/
def tagWait (c : StreamCore) : Instr → Option (Word × Bool)
  | .waitall _ o => let m := c.sreg o.a.toNat; some (m, (c.regs.tagr &&& m) == m)
  | .waitany _ o => let m := c.sreg o.a.toNat; some (m, (c.regs.tagr &&& m) != 0 || m == 0)
  | _ => none

/-- Does an operand-cache claim of the syllable fail (R177)? -/
def claimFails (c : StreamCore) (i : Instr) : Bool :=
  match hdr? i with
  | none => false
  | some h => (regUse i).claims.any fun n => (hClusters h).any fun cl => !(c.pipe.cache.contains (cl * 64 + physV c.sys.rotw n))

/-- Scoreboards the group waits for. -/
def waitSet (is : List Instr) : BitVec 8 := is.foldl (fun m i => match hdr? i with
  | some h => m ||| h.sbwait
  | none => m) 0

/-- A wait, which BUDGET does not count where it is for an access under resolution (R65). -/
def Hold.waits (free : Bool) : Hold := if free then .waitFree else .wait

/-- What of the core's own work in flight a legal group waits for: scoreboards, tags it waits on, tags it would produce (R174, R220, R308). -/
def ownHold (c : StreamCore) (is : List Instr) : Option Hold :=
  let busy := c.sbBusy (waitSet is)
  if !busy.isEmpty then some (Hold.waits (c.resolvingVar fun v => match v.sb with
    | some n => busy.contains n
    | none => false))
  else match is.findSome? fun i => (tagWait c i).bind fun w => if w.2 then none else some w.1 with
    | some m => some (Hold.waits (c.resolvingCmd m))
    | none =>
      let taken := c.regs.tagPend &&& producedTags is
      if taken != 0 then some (Hold.waits (c.resolvingCmd taken)) else none

/-- Why a legal group does not issue on this cycle, if so (R63, R109, R131, R132, R172, R177, R222, R286, R35, R52). A group that stalls under R109 does so also while it waits for something else; the accesses of a TICK group are not made yet, so that no marked run holds it. DEDUCED (log 14). DEDUCED (log 15). -/
def groupHold (s : State) (is : List Instr) : Option Hold :=
  let c := s.core
  let own := ownHold c is
  if !c.seat.arrivals.isEmpty && is.any fun i => stallsAhead c i then some (if own == some .waitFree then .aheadFree else .ahead)
  else match own with
    | some k => some k
    | none =>
      if c.pipe.cyc < c.pipe.barrier || decide (c.pipe.cyc < c.pipe.loadBarrier) && is.any plainLoad then some .wait
      else if is.any fun i => match i with
        | .tick _ _ => ownWork s true
        | .phase _ _ => ownWork s false
        | _ => false then some (Hold.waits (!c.frontsMove && is.any isTick && c.resolvingVar fun v => v.kind.result))
      else if is.any fun i => arrayHold s i && !forbidden c i then some .wait
      else if !c.pipe.claimPaid && is.any fun i => claimFails c i then some .claim
      else if is.any fun i => c.lockHeld i then some .freeze
      else if !(is.any isTick) && is.any fun i => c.meetsMarked i then some .freezeFree
      else if (is.any plainLoad) && c.acquireStuck then some .freezeFree
      else if (is.any fun i => c.rebuilds i) && decide (c.pipe.rebuilt < Config.rebuildWait c.seat.cid (s.wall - c.pipe.rebuilt)) then some .rebuild
      else none

/-! ### Reports due on a group -/

/-- Consume a failure of the group that waits on its scoreboard: the oldest, whose scoreboard is released (R129). -/
def failDetail (f : Failure) (more : Nat) : Nat :=
  if f.cause = 0x0E then f.detail % 8 + 8 * min 31 more else min 255 more

def oldestFailure : List Failure → Option Failure
  | [] => none
  | f :: fs => match oldestFailure fs with
    | none => some f
    | some g => if g.seq < f.seq then some g else some f

/-- Take failures off the list and release their scoreboards. -/
def consumeFailures (s : State) (fs : List Failure) : State :=
  s.onCore fun c =>
    let c := { c with dev := { c.dev with fails := c.dev.fails.filter fun f => !fs.contains f } }
    fs.foldl (fun c f => match f.sb with
      | some n => c.sbDown n
      | none => c) c

/-- The failed-access report due on a group: at a wait, the oldest failure on its scoreboards; at TICK or PHASE, the oldest of all, with the others of its cause counted and consumed (R129, R222). -/
def failureReport (s : State) (is : List Instr) : Option (Trap × State) :=
  let boundary := is.any fun i => match i with
    | .tick _ _ => true
    | .phase _ _ => true
    | _ => false
  if boundary then
    match oldestFailure s.core.dev.fails with
    | none => none
    | some f =>
      let same := s.core.dev.fails.filter fun g => g.cause == f.cause
      some (groupTrap f.cause (failDetail f (same.length - 1)) f.tval, consumeFailures s same)
  else
    match oldestFailure (s.core.failsOn (waitSet is)) with
    | none => none
    | some f => some (groupTrap f.cause (failDetail f 0) f.tval, consumeFailures s [f])

/-- The pending berm record, at TICK or PHASE (R41). DEDUCED (log 49). -/
def bermReport (s : State) (is : List Instr) : Option (Trap × State) :=
  if is.any fun i => match i with
    | .tick _ _ => true
    | .phase _ _ => true
    | _ => false then
    match s.core.sp.berm with
    | some b => some (groupTrap 0x12 0 (bermWord b), s.onCore fun c => { c with sp := c.sp.reported })
    | none => none
  else none

/-- Scoreboards that the group's increments would take past 15 (R175). -/
def sbOverflow (c : StreamCore) (is : List Instr) : Nat :=
  maskOf 8 fun n => decide (15 < (c.regs.sb.get n).toNat + (is.filter fun i => match hdr? i with
    | some h => h.sbv && h.sbi.toNat == n
    | none => false).length)

/-! ### The checks of a group, in the order of R382 -/

/-- What the group's checks come to. -/
inductive Pre where
  | go
  | hold (k : Hold)
  | trap (t : Trap) (s : State)

/-- The first syllable that the context forbids: its trap (R379 cause 2). -/
def forbiddenTrap (c : StreamCore) : Nat → List Instr → Option Trap
  | _, [] => none
  | p, i :: is => if forbidden c i then
      match syl? i with
      | some y => some { code := 2, detail := y.opc, pos := p, cls := y.cls, tval := 0 }
      | none => none
    else forbiddenTrap c (p + 1) is

/-- Holds, reports and group-wide causes, before the syllables themselves (R382). A group that is illegal as it stands does not wait; what its syllables read is judged once it has waited (R174, R229, R337). DEDUCED (log 44). -/
def precheck (s : State) (ss : List Slot) : Pre :=
  let c := s.core
  let is := ss.filterMap fun y => y.ins.toOption
  let wait := if (illegalReport (fun _ => true) ss).isSome then none else groupHold s is
  match wait with
  | some k => .hold k
  | none => match c.pipe.overflow with
    | w :: _ => .trap (groupTrap 6 0 w) s
    | [] => match illegalReport (dynamicOk c) ss with
      | some w => .trap (groupTrap 1 0 w) s
      | none => match forbiddenTrap c 0 is with
        | some t => .trap t s
        | none => match failureReport s is with
          | some r => .trap r.1 r.2
          | none => match bermReport s is with
            | some r => .trap r.1 r.2
            | none =>
              let beyond := sbOverflow c is
              if beyond ≠ 0 then .trap (groupTrap 5 0 (BitVec.ofNat 64 beyond)) s
              else match c.pipe.timeout with
                | some w => .trap { code := 0x0D, detail := 0, pos := w.2, cls := 9, tval := w.1 } s
                | none => .go

/-! ### Issue -/

/-- What a syllable's own effect comes to: the state and the schedule cycles to the landing of its result (none where an access in flight decrements the scoreboard itself), a precise trap, or a freeze. -/
inductive Res where
  | ok (s : State) (land : Option Nat)
  | trap (t : Trap)
  | hold (k : Hold)

/-- Idle cycles of a STALL code (R172). -/
def stallOf (b : BitVec 4) : Nat := nth [0, 1, 2, 3, 4, 5, 6, 7, 8, 9, 12, 15, 19, 27, 39, 63] b.toNat 0

/-- Advance loop indices by one iteration: innermost first; none after the last one (R160). -/
def nextIdx : List Nat → List Nat → Option (List Nat)
  | b :: bs, i :: is => if i < b then some ((i + 1) :: is) else (nextIdx bs is).map fun r => 0 :: r
  | _, _ => none

/-- Rotation offsets after an iteration (R159, R160). -/
def rotate (w : Word) : Word :=
  let n := w.toNat
  let v := if bit n 16 then (bits n 3 0 + 2 ^ bits n 21 20) % 16 else bits n 3 0
  let q := if bit n 17 then (bits n 11 8 + 2 ^ bits n 19 18) % 16 else bits n 11 8
  BitVec.ofNat 64 (bits n 21 16 * 2 ^ 16 + q * 2 ^ 8 + v)

/-- A body group has been issued (or skipped by a handler): step through the body, and at its end to the next iteration or past the loop (R160). -/
def StreamCore.bodyStep (c : StreamCore) : StreamCore :=
  match c.pipe.loop with
  | none => c
  | some n =>
    if n.pos + 1 < n.groups then { c with pipe := { c.pipe with loop := some { n with pos := n.pos + 1 } } }
    else
      let c := { c with sys := { c.sys with rotw := rotate c.sys.rotw } }
      match nextIdx n.bounds ((List.range 6).map fun d => (c.regs.idx.get d).toNat) with
      | some ix => { c with
          regs := { c.regs with idx := Store.setAll (withKeys 0 (ix.map fun x => BitVec.ofNat 16 x)) c.regs.idx }
          pipe := { c.pipe with pc := n.start, loop := some { n with pos := 0 } } }
      | none => { c with regs := { c.regs with idx := [] }, pipe := { c.pipe with loop := none } }

/-- A committing group is counted against pending SETFMT writes (R91). A write whose count is full takes effect as the group commits, so that a trap of the group after it finds the new FMTR. DEDUCED (log 43). DESIGN CHOICE (log 43). -/
def StreamCore.countFmtr (c : StreamCore) : StreamCore :=
  let ps := c.pipe.fmtrPend.map fun p => { p with left := p.left - 1 }
  { c with
    sys := (ps.filter fun p => p.left == 0).foldl (fun y p => { y with fmtr := p.val }) c.sys
    pipe := { c.pipe with fmtrPend := ps.filter fun p => p.left != 0 } }

/-- The group's successor and the cycle at which that may issue (R172, R177). -/
def StreamCore.closeCore (c : StreamCore) (h : Hdr) : StreamCore :=
  let p := c.pipe
  let st := stallOf h.stall
  let len := p.gpos + 1
  let c := { c with
    seat := { c.seat with atBarrier := false, atTick := false }
    pipe := { p with
      cache := p.reads
      reads := []
      claimPaid := false
      pc := match p.target with
        | some t => t
        | none => p.pc + BitVec.ofNat 80 (16 * len)
      nextIssue := p.cyc + 1 + (if p.target.isSome then max st 3 else st)
      target := none
      after := []
      gpos := 0
      glen := 1
      mark := .closed } }
  let body := match p.loop with
    | some n => n.susp.isNone
    | none => false
  let c := if body then c.bodyStep else c
  if c.pipe.fmtrPend.isEmpty then c else c.countFmtr

/-- Tags count as waited on: the writes of the commands that set them enter the overlay (R105, R121). -/
def StreamCore.waitTags (c : StreamCore) (m : BitVec 64) : StreamCore :=
  { c with dev := { c.dev with
      own := c.dev.own ++ (c.dev.unseen.filter fun u => m.getLsbD u.1).flatMap fun u => u.2
      unseen := c.dev.unseen.filter fun u => !m.getLsbD u.1 } }

/-- RTE has issued: the level drops, its held results go back in flight, and a suspended nest resumes (R227, R374, R376, R161, R91). Of a SETFMT of the handler and one held that reach their counts on one group, the held one is applied last. DEDUCED (log 47). DESIGN CHOICE (log 43). -/
def StreamCore.returnFrom (c : StreamCore) : StreamCore :=
  let y := c.sys
  let p := c.pipe
  let n := y.tl
  let back := (if n = 1 then p.held1 else p.held2).map fun f => { f with due := f.due + p.nextIssue }
  -- a ROTW that the handler has still in flight does not reach the body, which goes on with its own offsets (R161)
  let mine := fun (f : Flight) => (match f.eff with
    | .sys 18 _ => true
    | _ => false) && p.flights.contains f
  let glen := (if n = 1 then y.tglen1 else y.tglen2).toNat
  let c := { c with
    sys := { y with tl := n - 1 }
    pipe := { p with
      flights := p.flights ++ back
      held1 := if n = 1 then [] else p.held1
      held2 := if n = 1 then p.held2 else []
      fmtrPend := p.fmtrPend ++ (if n = 1 then p.fmtrHeld1 else p.fmtrHeld2)
      fmtrHeld1 := if n = 1 then [] else p.fmtrHeld1
      fmtrHeld2 := if n = 1 then p.fmtrHeld2 else []
      cache := [] } }
  if n = 1 then
    match c.pipe.loop with
    | none => c
    | some l =>
      let at_ := l.susp
      let c := { c with
        sys := if at_.isSome then { c.sys with rotw := l.rotw } else c.sys
        pipe := { c.pipe with
          loop := some { l with susp := none }
          flights := if at_.isSome then c.pipe.flights.filter fun f => !(mine f) else c.pipe.flights } }
      if at_ == some (c.pipe.pc - BitVec.ofNat 80 (16 * glen)) && at_ != some c.pipe.pc then c.bodyStep else c
  else c

/-- The reports a member leaves at EXIT (R223): the failures of each cause as one report (R129), and the berm record. -/
def exitReports (s : State) : State :=
  let c := s.core
  let one := fun (s : State) (cause : Nat) =>
    let same := c.dev.fails.filter fun f => f.cause == cause
    match oldestFailure same with
    | none => s
    | some f => emitExitReport s c cause (failDetail f (same.length - 1)) f.tval
  let s := one (one s 0x0E) 0x0F
  match c.sp.berm with
  | some b => emitExitReport s c 0x12 0 (bermWord b)
  | none => s

/-- The member ends (R223): its stores are published at system scope, its reports written, its results in flight discarded. Those that it has made ahead of a boundary stay pending until the boundary that ends their phase completes: they are current at no scope before that (R110, R126). DEDUCED (log 53). -/
def exitMember (s : State) : State :=
  let cid := s.core.seat.cid
  let s := settleAll (publish s cid 4 false fun p => decide (p.phase ≤ s.core.seat.boundary)) cid
  let s := (releaseArray (exitReports s) cid).onCore fun c => c.endContext .exited
  reap s s.core.seat.fn s.core.seat.task s.core.seat.bench

/-- What a syllable does when its whole group has committed. -/
def applyAfter (s : State) : After → State
  | .arrive a b => s.onCore fun c => { c with seat := { c.seat with arrivals := c.seat.arrivals ++ [a] }, pipe := { c.pipe with back := b } }
  | .tagPend m => s.onCore fun c => { c with regs := { c.regs with tagr := c.regs.tagr &&& ~~~m, tagErr := c.regs.tagErr &&& ~~~m, tagPend := c.regs.tagPend ||| m } }
  | .tagIdle m => s.onCore fun c => { c with regs := { c.regs with tagr := c.regs.tagr &&& ~~~m, tagErr := c.regs.tagErr &&& ~~~m } }
  | .waited m => s.onCore fun c => c.waitTags m
  | .nest groups bounds => s.onCore fun c =>
      { c with
        regs := { c.regs with idx := [] }
        pipe := { c.pipe with loop := some { start := c.pipe.pc, groups := groups, pos := 0, bounds := bounds, susp := none, rotw := c.sys.rotw } } }
  | .rte => s.onCore StreamCore.returnFrom
  | .exit => exitMember s
  | .iflush =>
    s.onCore fun c => { c with dev := { c.dev with fetchOld := devImage s }, pipe := { c.pipe with nextIssue := max c.pipe.nextIssue (c.pipe.cyc + 4) } }

/-- Close the group at issue. -/
def closeGroup (h : Hdr) (s : State) : State :=
  let as := s.core.pipe.after
  as.foldl applyAfter (s.onCore fun c => c.closeCore h)

/-- Cluster registers a V, F, D or T syllable reads, by physical number (R177). -/
def cacheKeys (c : StreamCore) (cls : Nat) (h : Hdr) (i : Instr) : List Nat :=
  if 1 ≤ cls && cls ≤ 4 then
    ((regUse i).reads.filter fun r => r.1 == .v).flatMap fun r => (hClusters h).map fun cl => cl * 64 + physV c.sys.rotw r.2
  else []

/-- A syllable commits: scoreboard, operand cache, position; the last one closes the group. DEDUCED (log 36). -/
def commitSyllable (y : Syl) (i : Instr) (s : State) (land : Option Nat) : State :=
  let keys := cacheKeys s.core y.cls y.h i
  let s := if y.h.sbv then
      let s := s.onCore fun c => c.sbUp y.h.sbi.toNat
      match land with
      | some n => s.fly n (.sb y.h.sbi.toNat)
      | none => s
    else s
  let s := s.onPipe fun p => { p with reads := (p.reads ++ keys).eraseDups, seq := p.seq + 1 }
  if y.h.stop then closeGroup y.h s
  else s.onPipe fun p => { p with gpos := p.gpos + 1 }

/-- Run the effect of a syllable whose group has passed its checks. -/
def runSyllable (y : Syl) (i : Instr) (s : State) (eff : State → Res) : State :=
  match eff s with
  | .ok s' land => commitSyllable y i s' land
  | .trap t => takeTrap t s
  | .hold k => s.onPipe fun p => { p with mark := .held k }

/-- Issue a syllable of the group at issue on the core at turn. A group of one syllable makes the group's checks itself; a longer group's are made before its first syllable. -/
def issue (i : Instr) (s : State) (eff : State → Res) : State :=
  match syl? i with
  | none => s
  | some y =>
    if s.core.pipe.glen = 1 then
      match precheck s [slotOf i] with
      | .hold k => s.onPipe fun p => { p with mark := .held k }
      | .trap t s' => takeTrap t s'
      | .go => runSyllable y i s eff
    else runSyllable y i s eff

end Sys2Proof.Machine
end

