-- ==== Sys2Proof/Machine/Scalar.lean ====
section
/-! DEFINITION. Class S arithmetic, logic, shifts, compares, bit fields, moves and special registers (R204 to R217, R221). -/
namespace Sys2Proof.Machine

/-- The outcome of every meaning that goes on. -/
abbrev Answer := Host.Outcome State Fault Refusal

/-- Issue a syllable with its own effect. -/
def issued (i : Instr) (s : State) (eff : State → Res) : Answer := .next (issue i s eff)

/-- A scalar result that lands n cycles after issue. -/
def landS (s : State) (n d : Nat) (v : Word) : Res := .ok (s.fly n (.sreg d v)) (some n)

/-! ### Operands (R205) -/

/-- a of R205. -/
def scalarA (c : StreamCore) (h : Hdr) (o : LReg) : Int := asInt (scalarW (hFmt h)) (scalarSg (hFmt h)) (c.sreg o.a.toNat).toNat

/-- b of R205. -/
def scalarB (c : StreamCore) (h : Hdr) (o : LReg) : Int := asInt (scalarW (hFmt h)) (scalarSg (hFmt h)) (c.bword o).toNat

/-- sD of R205: a w-bit pattern extended. -/
def scalarD (h : Hdr) (x : Nat) : Word := ext64 (scalarW (hFmt h)) (scalarSg (hFmt h)) x

/-- fit of R205. -/
def scalarFitted (h : Hdr) (x : Int) : Word := scalarD h (scalarFit (scalarW (hFmt h)) (scalarSg (hFmt h)) (hMode h == 1) x)

/-- An arithmetic syllable on exact integers (R206). -/
def scalarArith (i : Instr) (h : Hdr) (o : LReg) (lat : Nat) (f : Int → Int → Word) (s : State) : Answer :=
  issued i s fun s => landS s lat o.d.toNat (f (scalarA s.core h o) (scalarB s.core h o))

def execSAdd (h : Hdr) (o : LReg) (s : State) : Answer := scalarArith (.sAdd h o) h o 1 (fun a b => scalarFitted h (a + b)) s
def execSSub (h : Hdr) (o : LReg) (s : State) : Answer := scalarArith (.sSub h o) h o 1 (fun a b => scalarFitted h (a - b)) s
def execSMul (h : Hdr) (o : LReg) (s : State) : Answer := scalarArith (.sMul h o) h o 3 (fun a b => scalarFitted h (a * b)) s
def execSMulh (h : Hdr) (o : LReg) (s : State) : Answer :=
  scalarArith (.sMulh h o) h o 3 (fun a b => scalarD h (lowBits (scalarW (hFmt h)) (floorDiv (a * b) (2 ^ scalarW (hFmt h))))) s
def execSMin (h : Hdr) (o : LReg) (s : State) : Answer :=
  scalarArith (.sMin h o) h o 1 (fun a b => scalarD h (lowBits (scalarW (hFmt h)) (if a ≤ b then a else b))) s
def execSMax (h : Hdr) (o : LReg) (s : State) : Answer :=
  scalarArith (.sMax h o) h o 1 (fun a b => scalarD h (lowBits (scalarW (hFmt h)) (if b ≤ a then a else b))) s

/-! ### Division (R207) -/

/-- Quotient and remainder of R207. -/
def divide (w : Nat) (sg sat : Bool) (a b : Int) : Int × Int :=
  if b = 0 then (if sg then (if a < 0 then minInt w true else maxInt w true) else maxInt w false, a)
  else if sg && a == minInt w true && b == -1 then (if sat then maxInt w true else minInt w true, 0)
  else (Int.tdiv a b, a - Int.tdiv a b * b)

/-- Latency of a division. -/
def divLatency (h : Hdr) : Nat := if scalarW (hFmt h) = 32 then 12 else 20

/-- A division, or the divide-by-zero trap under CTRL.DZE. -/
def scalarDivide (i : Instr) (h : Hdr) (o : LReg) (pick : Int × Int → Int) (s : State) : Answer :=
  issued i s fun s =>
    let b := scalarB s.core h o
    if b = 0 && s.core.sys.ctrl.getLsbD 0 then .trap (s.trapHere 0 0x04 0 (s.core.bword o))
    else landS s (divLatency h) o.d.toNat
      (scalarD h (lowBits (scalarW (hFmt h)) (pick (divide (scalarW (hFmt h)) (scalarSg (hFmt h)) (hMode h == 1) (scalarA s.core h o) b))))

def execSDiv (h : Hdr) (o : LReg) (s : State) : Answer := scalarDivide (.sDiv h o) h o Prod.fst s
def execSRem (h : Hdr) (o : LReg) (s : State) : Answer := scalarDivide (.sRem h o) h o Prod.snd s

/-! ### Logic (R208) -/

/-- A 64-bit logic syllable. -/
def scalarLogic (i : Instr) (o : LReg) (f : Word → Word → Word) (s : State) : Answer :=
  issued i s fun s => landS s 1 o.d.toNat (f (s.core.sreg o.a.toNat) (s.core.bword o))

def execSAnd (h : Hdr) (o : LReg) (s : State) : Answer := scalarLogic (.sAnd h o) o (fun a b => a &&& b) s
def execSOr (h : Hdr) (o : LReg) (s : State) : Answer := scalarLogic (.sOr h o) o (fun a b => a ||| b) s
def execSXor (h : Hdr) (o : LReg) (s : State) : Answer := scalarLogic (.sXor h o) o (fun a b => a ^^^ b) s
def execSAndn (h : Hdr) (o : LReg) (s : State) : Answer := scalarLogic (.sAndn h o) o (fun a b => a &&& ~~~b) s

/-! ### Shifts (R209) -/

/-- Shift left of a w-bit pattern. -/
def shiftLeft (w x n : Nat) : Nat := if w ≤ n then 0 else x * 2 ^ n % 2 ^ w
/-- Logical shift right. -/
def shiftRight (w x n : Nat) : Nat := if w ≤ n then 0 else x / 2 ^ n
/-- Arithmetic shift right. -/
def shiftArith (w x n : Nat) : Nat := lowBits w (floorDiv (asInt w true x) (2 ^ min n w))
/-- Rotate left. -/
def rotateLeft (w x n : Nat) : Nat := (x * 2 ^ (n % w) + x / 2 ^ (w - n % w)) % 2 ^ w

/-- A shift syllable on a w-bit pattern by bb[7:0]. -/
def scalarShift (i : Instr) (h : Hdr) (o : LReg) (f : Nat → Nat → Nat → Nat) (s : State) : Answer :=
  issued i s fun s =>
    let w := scalarW (hFmt h)
    landS s 1 o.d.toNat (scalarD h (f w ((s.core.sreg o.a.toNat).toNat % 2 ^ w) (bits (s.core.bword o).toNat 7 0)))

def execSShl (h : Hdr) (o : LReg) (s : State) : Answer := scalarShift (.sShl h o) h o shiftLeft s
def execSShr (h : Hdr) (o : LReg) (s : State) : Answer := scalarShift (.sShr h o) h o shiftRight s
def execSSra (h : Hdr) (o : LReg) (s : State) : Answer := scalarShift (.sSra h o) h o shiftArith s
def execSRot (h : Hdr) (o : LReg) (s : State) : Answer := scalarShift (.sRot h o) h o rotateLeft s

/-! ### Bit counts, compare, select (R210 to R212) -/

def execSClz (h : Hdr) (o : LReg) (s : State) : Answer :=
  issued (.sClz h o) s fun s => landS s 1 o.d.toNat (BitVec.ofNat 64 (leadingZeros (scalarW (hFmt h)) (s.core.sreg o.a.toNat).toNat))
def execSPopc (h : Hdr) (o : LReg) (s : State) : Answer :=
  issued (.sPopc h o) s fun s => landS s 1 o.d.toNat (BitVec.ofNat 64 (popCount (scalarW (hFmt h)) (s.core.sreg o.a.toNat).toNat))
def execSCmp (h : Hdr) (o : LReg) (s : State) : Answer :=
  scalarArith (.sCmp h o) h o 1 (fun a b => if condHolds o.sub.toNat a b then 1 else 0) s
def execSSel (h : Hdr) (o : LReg) (s : State) : Answer :=
  issued (.sSel h o) s fun s => landS s 1 o.d.toNat (if s.core.sreg o.c.toNat ≠ 0 then s.core.sreg o.a.toNat else s.core.bword o)

/-! ### Bit fields (R213) -/

/-- Position and width of a field. -/
def fieldPos (bb : Word) : Nat := bits bb.toNat 5 0
def fieldWidth (bb : Word) : Nat := min (bits bb.toNat 12 6) 64

def extractField (sg : Bool) (x bb : Word) : Word :=
  if fieldWidth bb = 0 then 0 else ext64 (fieldWidth bb) sg (x.toNat / 2 ^ fieldPos bb)

def insertField (c x bb : Word) : Word :=
  let p := fieldPos bb
  let m := BitVec.ofNat 64 ((2 ^ fieldWidth bb - 1) * 2 ^ p)
  (c &&& ~~~m) ||| (BitVec.ofNat 64 (x.toNat * 2 ^ p) &&& m)

def execBfx (h : Hdr) (o : LReg) (s : State) : Answer :=
  issued (.bfx h o) s fun s => landS s 1 o.d.toNat (extractField (scalarSg (hFmt h)) (s.core.sreg o.a.toNat) (s.core.bword o))
def execBfi (h : Hdr) (o : LReg) (s : State) : Answer :=
  issued (.bfi h o) s fun s => landS s 1 o.d.toNat (insertField (s.core.sreg o.c.toNat) (s.core.sreg o.a.toNat) (s.core.bword o))

/-! ### Immediates, special registers, q registers (R214 to R217) -/

def execLiw (h : Hdr) (o : LWide) (s : State) : Answer := issued (.liw h o) s fun s => landS s 1 o.d.toNat o.imm64

def execMfsr (h : Hdr) (o : LReg) (s : State) : Answer := issued (.mfsr h o) s fun s => landS s 1 o.d.toNat (s.core.special o.a.toNat)

def execMtsr (h : Hdr) (o : LReg) (s : State) : Answer :=
  issued (.mtsr h o) s fun s => .ok (s.fly 1 (.sys o.d.toNat (s.core.sreg o.a.toNat))) (some 1)

def execMtq (h : Hdr) (o : LReg) (s : State) : Answer :=
  issued (.mtq h o) s fun s => .ok (s.fly 1 (.qreg (physQ s.core.sys.rotw o.d.toNat) false (s.core.sreg o.a.toNat))) (some 1)
def execMtqNull (h : Hdr) (o : LReg) (s : State) : Answer :=
  issued (.mtqNull h o) s fun s => .ok (s.fly 1 (.qreg (physQ s.core.sys.rotw o.d.toNat) true 0)) (some 1)
def execMfq (h : Hdr) (o : LReg) (s : State) : Answer := issued (.mfq h o) s fun s => landS s 1 o.d.toNat (s.core.qdata o.a.toNat)
def execMfqNull (h : Hdr) (o : LReg) (s : State) : Answer :=
  issued (.mfqNull h o) s fun s => landS s 1 o.d.toNat (if s.core.qnull o.a.toNat then 1 else 0)

def execNop (h : Hdr) (o : LReg) (s : State) : Answer := issued (.nop h o) s fun s => .ok s (some 1)

end Sys2Proof.Machine
end

