-- ==== Sys2Proof/Machine/Taps.lean ====
section
/-! DEFINITION. Class M0: taps, faces, THIST and TSIG (R4, R11 to R23, R236 to R246). -/
namespace Sys2Proof.Machine

/-! ### Fields of a descriptor (R4) -/


def Sig.clusters (g : Sig) : Nat := bits g.desc.toNat 119 112
def Sig.vecs (g : Sig) : Nat := bits g.desc.toNat 111 109
def Sig.depth (g : Sig) : Nat := bits g.desc.toNat 100 85
def Sig.rate (g : Sig) : Nat := bits g.desc.toNat 84 77
def Sig.skew (g : Sig) : Nat := bits g.desc.toNat 76 69
def Sig.carryOpen (g : Sig) : Bool := bit g.desc.toNat 68
def Sig.fill (g : Sig) : Nat := bits g.desc.toNat 67 66
def Sig.bridged (g : Sig) : Bool := decide (bits g.desc.toNat 65 64 = 1)
def Sig.owner (g : Sig) : Nat := bits g.desc.toNat 63 59
def Sig.exports (g : Sig) : Nat := bits g.desc.toNat 58 43
def Sig.fillc (g : Sig) : Lane := BitVec.ofNat 32 (bits g.desc.toNat 42 11)

/-- Bytes of one sample (R5). -/
def Sig.sampleBytes (g : Sig) : Nat := popCount 8 g.clusters * (g.vecs + 1) * 64


/-- The face index at a tick (R11). -/
def Sig.face (g : Sig) (now : Word) : Int := floorDiv ((now.toNat : Int) - g.skew) g.rate

/-- The history count at a tick (R12). -/
def Sig.hist (g : Sig) (now : Word) : Nat := min (g.face now + 1).toNat g.depth

/-! ### Reads (R13, R21) -/

/-- Word j of a stored sample at a lag. -/
def Sig.stored (g : Sig) (lag cl v j : Nat) : Lane :=
  match g.samples[lag]? with
  | some x => x.words.get (tapKey cl v j)
  | none => 0

/-- Word j of a tap read, once its checks have passed (R13). A mirror or repeat fill that names a stored sample with an uncorrectable error returns its words as they stood before the upset: the manual says only that no fault is raised (R30). DESIGN CHOICE (log 24). -/
def Sig.word (g : Sig) (now : Word) (lag cl v j : Nat) : Lane :=
  let face := g.face now
  if lag < g.hist now then g.stored lag cl v j
  else if face < 0 then (if g.fill = 1 then g.fillc else 0)
  else match g.fill with
    | 0 => 0
    | 1 => g.fillc
    | 2 => g.stored (face - min (-(face - lag)) face).toNat cl v j
    | _ => g.stored face.toNat cl v j

/-- TVAL of a tap fault (R15). -/
def tapTval (sig lag : Nat) : Word := BitVec.ofNat 64 (sig % 256 * 2 ^ 56 + min lag (2 ^ 56 - 1))

/-- The checks of R13 on lags a to b of a cluster-vector in a list of clusters, and of R30 on the samples read: a cause code. DEDUCED (log 38). Not only the first read of an uncorrectable sample faults, but every one until its face is written. DESIGN CHOICE (log 24). -/
def StreamCore.tapCheck (c : StreamCore) (sig v : Nat) (cls : List Nat) (a b : Nat) : Option Nat :=
  match c.sig sig with
  | none => some 0x18
  | some g =>
    if (cls.any fun cl => !bit g.clusters cl) || decide (g.vecs < v) then some 0x18
    else if g.bridged && b == 0 then some 0x19
    else if g.depth ≤ b then some 0x1A
    else if g.bridged && a == 0 then some 0x19
    else if (List.range (b + 1 - a)).any fun i => decide (a + i < g.hist c.sys.now) && (match g.samples[a + i]? with
      | some x => x.bad.isSome
      | none => false) then some 0x1C
    else none

/-- A tap read, or its fault, on a syllable of class M0. -/
def tapRead (s : State) (o : LTap) (h : Hdr) (a b : Nat) (k : Sig → Res) : Res :=
  let c := s.core
  match c.tapCheck o.sig.toNat o.vec.toNat (hClusters h) a b, c.sig o.sig.toNat with
  | some code, _ => .trap (s.trapHere 5 code 0 (tapTval o.sig.toNat b))
  | none, some g => k g
  | none, none => .trap (s.trapHere 5 0x18 0 (tapTval o.sig.toNat b))

/-- Lane writes of one lag into a register. -/
def tapLanes (c : StreamCore) (g : Sig) (h : Hdr) (o : LTap) (lag d : Nat) : List (Nat × Lane) :=
  c.laneWrites d (hLanes h) fun L => g.word c.sys.now lag (L / 16) o.vec.toNat (L % 16)

def execTrd (h : Hdr) (o : LTap) (s : State) : Answer :=
  issued (.trd h o) s fun s =>
    let lag := s.core.lag o
    tapRead s o h lag lag fun g => .ok (s.fly 3 (.vecs (tapLanes s.core g h o lag o.d.toNat))) (some 3)

def execTrdw (h : Hdr) (o : LTap) (s : State) : Answer :=
  issued (.trdw h o) s fun s =>
    let w := s.core.window o
    tapRead s o h w.1 w.2 fun g =>
      .ok (s.fly 3 (.vecs ((List.range (w.2 + 1 - w.1)).flatMap fun i => tapLanes s.core g h o (w.1 + i) (o.d.toNat + i)))) (some 3)

/-! ### Writes (R18, R22, R242 to R244) -/

/-- Cores of the tick group that hold a replica of an exported signal. -/
def replicasOf (s : State) (g : Sig) : List Nat :=
  ((matesOf s s.core).filter fun d => d.seat.cid != s.core.seat.cid && bit g.exports d.seat.member).map fun d => d.seat.cid

/-- A write of the face lands at +2 and is replayed in every replica at +32 wall cycles. -/
def writeFace (s : State) (g : Sig) (e : Eff) : Res :=
  let dest := replicasOf s g
  let s := if g.owner = 16 || dest.isEmpty then s
    else { s with exports := s.exports ++ [{ due := s.wall + 32, cid := some s.core.seat.cid, seq := s.core.pipe.seq, dest := dest, eff := e }] }
  .ok (s.fly 2 e) (some 2)

/-- The checks of R242. -/
def faceWrite (s : State) (h : Hdr) (o : LTap) (k : Sig → Res) : Res :=
  let lag := s.core.lag o
  match s.core.sig o.sig.toNat with
  | none => .trap (s.trapHere 5 0x18 0 (tapTval o.sig.toNat lag))
  | some g =>
    if ((hClusters h).any fun cl => !bit g.clusters cl) || decide (g.vecs < o.vec.toNat) then .trap (s.trapHere 5 0x18 0 (tapTval o.sig.toNat lag))
    else if lag ≠ 0 || g.replica || g.bridged || decide (g.face s.core.sys.now < 0) then .trap (s.trapHere 5 0x1B 0 (tapTval o.sig.toNat lag))
    else k g

def execTwr (h : Hdr) (o : LTap) (s : State) : Answer :=
  issued (.twr h o) s fun s => faceWrite s h o fun g =>
    writeFace s g (.tapWrite g.id ((hLanes h).map fun L => (tapKey (L / 16) o.vec.toNat (L % 16), s.core.vlane o.d.toNat L)))

/-- n draws of a lane's generator. -/
def drawsOf (L : Nat) : Nat → Store 32 → List Nat × Store 32
  | 0, gen => ([], gen)
  | n + 1, gen =>
    let d := drawLane gen L
    let r := drawsOf L n d.2
    (d.1 :: r.1, r.2)

/-- One draw for each element of each lane (R243). -/
def drawsAll (n : Nat) : List Nat → Store 32 → List (List Nat) × Store 32
  | [], gen => ([], gen)
  | L :: ls, gen =>
    let d := drawsOf L n gen
    let r := drawsAll n ls d.2
    (d.1 :: r.1, r.2)

/-- An accumulation onto a face word that is lost to an uncorrectable error raises nothing, adds to the word as it is stored, and rids the face of the error: the manual does not say whether it counts as a read (R30). DESIGN CHOICE (log 24). -/
def execTwra (h : Hdr) (o : LTap) (s : State) : Answer :=
  issued (.twra h o) s fun s => faceWrite s h o fun g =>
    let q := s.core.q
    let d := if hMode h = 3 then drawsAll ((hFmt h).perLane q) (hLanes h) s.core.regs.gen else ([], s.core.regs.gen)
    let ws := (hLanes h).mapIdx fun i L => (tapKey (L / 16) o.vec.toNat (L % 16), s.core.vlane o.d.toNat L, nth d.1 i [])
    writeFace (s.onCore fun c => { c with regs := { c.regs with gen := d.2 } }) g (.tapAdd g.id (hFmt h) q (hMode h) ws)

/-! ### THIST and TSIG (R245, R246) -/

/-- A scalar read of a signal's shape at +3, or the absent-signal fault with lag 0. -/
def sigRead (s : State) (o : LTap) (f : Sig → Word) : Res :=
  match s.core.sig o.sig.toNat with
  | none => .trap (s.trapHere 5 0x18 0 (tapTval o.sig.toNat 0))
  | some g => landS s 3 o.d.toNat (f g)

def execThist (h : Hdr) (o : LTap) (s : State) : Answer :=
  issued (.thist h o) s fun s => sigRead s o fun g => BitVec.ofNat 64 (g.hist s.core.sys.now)

/-- The TSIG word. -/
def Sig.shape (g : Sig) (now : Word) : Word :=
  let j := g.face now
  let pos := lowBits 8 ((now.toNat : Int) - g.skew - g.rate * j)
  let b := fun (x : Bool) (n : Nat) => if x then 2 ^ n else 0
  BitVec.ofNat 64 (g.depth * 2 ^ 48 + g.rate * 2 ^ 40 + g.skew * 2 ^ 32 + pos * 2 ^ 24 + g.clusters * 2 ^ 16 + g.vecs * 2 ^ 13 + b g.carryOpen 12 +
    g.fill * 2 ^ 10 + bits g.desc.toNat 65 64 * 2 ^ 8 + b (!g.replica && !g.bridged) 7 + b g.replica 6 + b (decide (0 ≤ j)) 5)

def execTsig (h : Hdr) (o : LTap) (s : State) : Answer :=
  issued (.tsig h o) s fun s => sigRead s o fun g => g.shape s.core.sys.now

end Sys2Proof.Machine
end

