-- ==== Sys2Proof/Machine/Turn.lean ====
section
/-! DEFINITION. Fetch of a group, its issue, and the passing of schedule and wall cycles (R63, R64, R128, R131, R168 to R172, R234, R308, R381). -/
namespace Sys2Proof.Machine

/-! ### Fetch (R61, R128, R168, R169, R381) -/

/-- Code as the core may fetch it: current memory at device scope, what it still holds from before, or what has become current at a narrower scope (R128). -/
def codeImages (s : State) : List (List Host.Cell) := [devImage s, s.core.dev.fetchOld, homeImage s]

/-- What the fetch of one syllable comes to. -/
inductive FetchOne where
  | syllable (w : Syllable)
  | hold (k : Hold)
  /-- VA of the failing page and DETAIL; that page decides TGLEN too (R381) -/
  | fault (va detail : Nat)

/-- The sixteen bytes of a syllable at a place; where the images differ, a free choice of one of them (R128). -/
def codeWord (imgs : List (List Host.Cell)) (free k loc : Nat) : Syllable :=
  match (imgs.map fun m => peekLe m loc 16).eraseDups with
  | [w] => BitVec.ofNat 128 w
  | ws => BitVec.ofNat 128 (nth ws (free / 4 ^ k % ws.length) 0)

/-- The VA of the page that holds a VA, as its leaf sizes it; 64 KiB where no leaf maps it (R55, R379). -/
def pageStart (s : State) (fn va : Nat) : Nat :=
  match (fnOf s fn).map fun f => translate s f 0 va with
  | some (.page p) => va / p.size * p.size
  | _ => va / 65536 * 65536

/-- A fetch that was refused faults with this DETAIL (R61, R379). DEDUCED (log 40). -/
def fetchDetail (d : Nat) : Nat := if d = 5 then 3 else if d = 1 then 1 else 0

/-- Fetch the syllable at a VA. DEDUCED (log 1). DEDUCED (log 40). -/
def fetchOne (s : State) (imgs : List (List Host.Cell)) (k va : Nat) : FetchOne × State :=
  let c := s.core
  let e := c.dev.code
  let fails := fun (s : State) (detail : Nat) => (FetchOne.fault (pageStart s c.seat.fn va) detail, s)
  if !e.declared || decide (va < e.base) || decide (e.base + e.len < va + 16) then fails s 2
  else if !e.perAccess then
    match c.dev.runAt 16 va with
    | none => fails s 2
    | some r =>
      if r.marked || r.mg then (.hold .freezeFree, s)
      else match r.refuse, r.st with
        | some d, _ => fails s (fetchDetail d)
        | none, .absent => fails s 0
        | none, .bad => fails s 3
        | none, .present =>
          if !r.ex then fails s 1
          else match lookOwned s (freeNow s) (r.pa + (va - r.va)) with
            | .at_ pa => (.syllable (codeWord imgs (freeNow s) k pa), s)
            | _ => fails s 0
  else match lookPage s c 16 va needFetch with
    | (.at_ pa, s) => (.syllable (codeWord imgs (freeNow s) k pa), s)
    | (.refused d, s) => fails s (fetchDetail d)
    | (.request _, s) => (.hold .waitFree, s)
    | (_, s) => (.hold .freezeFree, s)

/-- What the fetch of a group comes to. -/
inductive Fetched where
  | group (ws : List Syllable)
  | hold (k : Hold)
  /-- VA of the failing page, and DETAIL -/
  | fault (va detail : Nat)

/-- Fetch up to n syllables from a VA, ending at STOP. -/
def fetchFrom (imgs : List (List Host.Cell)) (k va : Nat) : Nat → List Syllable → State → Fetched × State
  | 0, ws, s => (.group ws, s)
  | n + 1, ws, s =>
    match fetchOne s imgs k va with
    | (.hold h, s) => (.hold h, s)
    | (.fault p d, s) => (.fault p d, s)
    | (.syllable w, s) => if w.getLsbD 127 then (.group (ws ++ [w]), s) else fetchFrom imgs (k + 1) (va + 16) n (ws ++ [w]) s

/-- Is a fetch of the core under resolution (R65)? -/
def fetchPending (s : State) : Bool :=
  match fnOf s s.core.seat.fn with
  | some f => f.resolutions.any fun r => r.cid == s.core.seat.cid && r.ext == 0xFF
  | none => false

/-- Fetch the group at the program counter. DEDUCED (log 40). -/
def fetchGroup (s : State) : Fetched × State :=
  match s.core.pipe.fetchFail with
  | some (va, d) => (.fault va d, s.onPipe fun p => { p with fetchFail := none })
  | none =>
    if fetchPending s then (.hold .waitFree, s)
    else
      let r := fetchFrom (codeImages s) 3 s.core.pipe.pc.toNat 16 [] s
      (r.1, { r.2 with draws := r.2.draws + 1 })

/-- The slot of a fetched syllable. -/
def slotOfWord (w : Syllable) : Slot :=
  { cls := bits w.toNat 126 123, stop := w.getLsbD 127, ins := nameSyllable w }

/-! ### Issue of a group -/

/-- Run the syllables of a group in position order, until one traps or holds. -/
def runSlots (ex : Instr → State → Host.Outcome State Fault Refusal) : List Slot → State → Host.Outcome State Fault Refusal
  | [], s => .next s
  | y :: ys, s =>
    match y.ins with
    | .error _ => .next s
    | .ok i => match ex i s with
      | .next s' => if s'.core.pipe.mark = .running then runSlots ex ys s' else .next s'
      | o => o

/-- The array states that a group has changed, from the states before and after it (R295). -/
def modesChanged (s s' : State) : Option ModeBack :=
  let other := fun (t : State) => ((partnerOf t).map fun p => (p.sys.amode, p.sys.mmode)).getD (0, 0)
  if s.core.sys.amode = s'.core.sys.amode && other s == other s' then none
  else some { own := s.core.sys.amode, ownSet := s.core.sys.amodeSet, other := (other s).1, otherNow := (other s').1, otherReg := (other s).2 }

/-- What a TICK group has changed, as it was before the group (R108). -/
def Back.before (b : Back) (s s' : State) : Back :=
  let c := s.core
  let c' := s'.core
  { b with
    gen := c.regs.gen, fmtrPend := c.pipe.fmtrPend, tagr := c.regs.tagr, tagPend := c.regs.tagPend, tagErr := c.regs.tagErr
    tagMask := (c.regs.tagr ^^^ c'.regs.tagr) ||| (c.regs.tagPend ^^^ c'.regs.tagPend) ||| (c.regs.tagErr ^^^ c'.regs.tagErr)
    unseen := c.dev.unseen.filter fun u => !c'.dev.unseen.contains u
    wbuf := c.wbuf, arrayFree := c.pipe.arrayFree, modes := modesChanged s s', berm := bermSince c.sp.berm c'.sp.berm }

/-- A TICK group keeps what it has changed until its boundary completes; a berm record it has made counts from then on (R41, R108). -/
def keepBack (s s' : State) : State :=
  match s'.core.pipe.back with
  | none => s'
  | some b => s'.onCore fun c => { c with pipe := { c.pipe with back := some (b.before s s') }, sp := { c.sp with berm := s.core.sp.berm, tentative := s.core.sp.tentative } }

/-- Issue a group: its checks, then its syllables; a trap or a freeze leaves the state the group found (R374, R382). -/
def runGroup (ex : Instr → State → Host.Outcome State Fault Refusal) (ss : List Slot) (s : State) : Host.Outcome State Fault Refusal :=
  match ss with
  | [⟨_, _, .ok i⟩] => ex i s
  | _ =>
    let s0 := s.onPipe fun p => { p with glen := ss.length }
    match precheck s0 ss with
    | .hold k => .next (s.onPipe fun p => { p with mark := .held k })
    | .trap t s' => .next (takeTrap t s')
    | .go => match runSlots ex ss (s0.onPipe fun p => { p with ticks := ss.any fun y => (y.ins.toOption.map isTick).getD false }) with
      | .next s' =>
        (match s'.core.pipe.mark with
        | .trapped t => .next (takeTrap t s0)
        | .held k => .next (s.onPipe fun p => { p with mark := .held k })
        | _ => .next (keepBack s (s'.onPipe fun p => { p with ticks := false })))
      | o => o

/-- Fetch and issue the group at the program counter. -/
def fetchIssue (ex : Instr → State → Host.Outcome State Fault Refusal) (s : State) : Host.Outcome State Fault Refusal :=
  match fetchGroup s with
  | (.hold k, s) => .next (s.onPipe fun p => { p with mark := .held k })
  | (.fault va d, s) =>
    .next (takeTrap (groupTrap 8 d (BitVec.ofNat 64 va)) (s.onPipe fun p => { p with glen := max 1 ((va - p.pc.toNat) / 16) }))
  | (.group ws, s) => runGroup ex (ws.map slotOfWord) s

/-! ### Tags that become visible (R64, R308, R324) -/

/-- Completed commands show in TAGR; PL.FUSE's insertions are made before the cycle's landings. -/
def StreamCore.absorbTags (c : StreamCore) : StreamCore :=
  let c := c.dev.tagDone.foldl (fun c t =>
    let m := BitVec.ofNat 64 (2 ^ t.tag)
    let c := { c with
      regs := { c.regs with tagr := c.regs.tagr ||| m, tagPend := c.regs.tagPend &&& ~~~m, tagErr := if t.err then c.regs.tagErr ||| m else c.regs.tagErr &&& ~~~m }
      dev := { c.dev with unseen := (c.dev.unseen.filter fun u => u.1 != t.tag) ++ [(t.tag, t.wrote)] } }
    match t.insert with
    | some (n, ts) => { c with regs := { c.regs with fronts := modifyNth c.regs.fronts n fun f => (f.insertDrop ts).1 } }
    | none => c) c
  { c with dev := { c.dev with tagDone := [] } }

/-! ### Cycles -/

/-- Does the turn take a schedule cycle (R63)? -/
def Mark.passes : Mark → Bool
  | .held .freeze => false
  | .held .claim => false
  | .held .rebuild => false
  | .held .freezeFree => false
  | _ => true

/-- Does BUDGET count it (R234)? -/
def Mark.counted : Mark → Bool
  | .held .waitFree => false
  | .held .aheadFree => false
  | .held .freezeFree => false
  | _ => true

/-- End of a live core's turn. -/
def StreamCore.endCycle (c : StreamCore) : StreamCore :=
  let m := c.pipe.mark
  { c with
    seat := { c.seat with atBarrier := c.seat.atBarrier || m == .held .ahead || m == .held .aheadFree || c.seat.arrivals.contains .tick }
    sys := { c.sys with budget := if m.counted then c.sys.budget - 1 else c.sys.budget }
    pipe := { c.pipe with
      mark := .running
      cyc := if m.passes then c.pipe.cyc + 1 else c.pipe.cyc
      claimPaid := c.pipe.claimPaid || m == .held .claim
      rebuilt := if m == .held .rebuild then c.pipe.rebuilt + 1 else if m.passes then 0 else c.pipe.rebuilt
      partnerHeld := false
      tilesBefore := if m.passes then none else c.pipe.tilesBefore } }

/-- Does the core spend the cycle in its context? -/
def Seat.runs (p : Seat) : Bool := p.live && !p.stopped

/-- The next core comes to its turn. DESIGN CHOICE (log 5). -/
def rotateCores (s : State) : State :=
  match s.cores with
  | [] => s
  | d :: ds => { s with core := d, cores := ds ++ [s.core] }

/-- The turn passes to the next core; after every core's turn a wall cycle has passed. DESIGN CHOICE (log 5). -/
def passTurn (s : State) : State :=
  let t := s.turn + 1
  let s' := rotateCores s
  if t ≤ s.cores.length + 1 then { s' with turn := t } else { s' with turn := 0, wall := s.wall + 1 }

/-- Failures a member meets once it has exited are written to the error ring as at EXIT (R223). -/
def lateReports (s : State) : State :=
  let c := s.core
  if c.seat.live then s
  else
    let s := c.dev.fails.foldl (fun s f => if c.seat.status = .exited then emitExitReport s c f.cause (failDetail f 0) f.tval else s) s
    reap (s.onCore fun c => { c with dev := { c.dev with fails := [] } }) c.seat.fn c.seat.task c.seat.bench

/-- Published stores held on a migrating page or a marked run are tried again, in program order (R71, R72). DEDUCED (log 26). -/
def retryLate (s : State) : State :=
  match s.core.dev.late.filter fun l => l.2.1.isNone with
  | [] => s
  | ls => lateReports (ls.foldl (fun s l => publishOne s.core.seat.cid l.2.2 true l.1 s)
      (s.onCore fun c => { c with dev := { c.dev with late := c.dev.late.filter fun l => l.2.1.isSome } }))

/-- End the turn of the core at turn; a cycle that has emptied its BUDGET stops it first (R360, R385). DESIGN CHOICE (log 5). DESIGN CHOICE (log 50). -/
def endTurn (s : State) : State :=
  let s' := if s.core.seat.runs then s.onCore StreamCore.endCycle else s
  if s'.core.seat.runs && s'.core.sys.budget == 0 then s' else passTurn (retryLate s')

/-- What the core at turn does next. -/
inductive Act where
  /-- an event of the table of operations and events -/
  | event (i : Instr)
  /-- a change no row names -/
  | change (s : State)
  | fetch

/-- Freeze for this wall cycle. -/
def freezeCore (s : State) (counted : Bool) : State :=
  s.onPipe fun p => { p with mark := .held (if counted then .freeze else .freezeFree), frozenAt := some (p.frozenAt.getD s.wall) }

/-- The next act of the core at turn. -/
def coreAct (s : State) : Act :=
  let c := s.core
  let p := c.pipe
  if !c.seat.runs || p.mark != .running then .change (endTurn s)
  else if c.sys.budget = 0 then .event .budgetStop
  else match p.blocked s.wall with
    | some (_, q) =>
      if q.failed || decide (timeoutCycles ≤ s.wall - p.frozenAt.getD s.wall) then .event .memoryTimeout
      else if !q.held && decide (q.arrive ≤ s.wall) && p.frozenAt.isSome then .event .promisedLoadArrival
      else .change (freezeCore s !q.held)
    | none =>
      if !c.dev.walks.isEmpty then .change (s.onPipe fun p => { p with mark := .held .freezeFree })
      else if !c.dev.tagDone.isEmpty then .change (s.onCore StreamCore.absorbTags)
      else if p.flights.any (c.landsNow s.wall) then .event .fixedResultLanding
      else if p.frozenAt.isSome then .change (s.onPipe fun p => { p with frozenAt := none })
      else if c.seat.arrivals.contains .tick || c.seat.atTick then
        .change (s.onPipe fun p => { p with mark := .held (if c.seat.atTick || (c.resolvingVar fun v => v.kind.result) || c.resolvingCmd (BitVec.allOnes 64) then .waitFree else .wait) })
      else if p.cyc < p.nextIssue then .change (endTurn s)
      else .fetch

/-- How the state marks the core at turn as frozen, if it does. -/
def Mark.freezes : Mark → Option Hold
  | .held k => if Mark.passes (.held k) then none else some k
  | _ => none

/-- The freeze that the group at the program counter meets on this schedule cycle: then nothing of the cycle has landed (R63, R343). -/
def freezeAhead (ex : Instr → State → Host.Outcome State Fault Refusal) (s : State) : Option Hold :=
  let t := (landDue s).onPipe fun p => { p with frozenAt := none }
  match coreAct t with
  | .fetch => match fetchIssue ex t with
    | .next t' => t'.core.pipe.mark.freezes
    | _ => none
  | _ => none

/-- Run the next act of the core at turn. -/
def stepCore (ex : Instr → State → Host.Outcome State Fault Refusal) (s : State) : Host.Outcome State Fault Refusal :=
  match coreAct s with
  | .event .fixedResultLanding => match freezeAhead ex s with
    | some k => .next { s.onPipe fun p => { p with mark := .held k } with draws := s.draws + 1 }
    | none => ex .fixedResultLanding s
  | .event i => ex i s
  | .change s' => .next s'
  | .fetch => fetchIssue ex s

/-! ### Placing an instruction (log 6) -/

/-- A core that runs nothing but a live context of function 0 whose code extent is one page of HBM at VA 0. DESIGN CHOICE (log 6). -/
def placedCore (c : StreamCore) (code : List Host.Cell) : StreamCore :=
  { c with
    seat := { c.seat with fn := 0, status := .live, stopped := false, arrivals := [], atBarrier := false }
    sys := { c.sys with budget := c.sys.budget + 1 }
    pipe := { c.pipe with pc := 0, nextIssue := c.pipe.cyc, barrier := 0, loadBarrier := 0, partnerHeld := false, rebuilt := 0, gpos := 0, glen := 1, mark := .running, target := none, ticks := false, flights := [], after := [], frozenAt := none, fetchFail := none, timeout := none, back := none, tilesBefore := none }
    dev := { c.dev with
      code := { declared := true, base := 0, len := 65536, rd := true, wr := false, at_ := false, lcreq := 0, perAccess := false }
      walks := []
      runs := [{ ext := 16, va := 0, len := 65536, pa := 0, cls := 0, ex := true, sp := false, mg := false, st := .present, marked := false, refuse := none, leaves := [] }]
      fetchOld := code, tagDone := [] } }

/-- A decision about to run one bytecode. DESIGN CHOICE (log 6). -/
def placedDecision (wall : Nat) (w : BitVec 32) : Decision :=
  { ev := { kind := 0, core := 0, task := 0, detail := 0, queue := 0 }
    snap := { heads := [], cores := [], part := [], freeBench := [] }
    code := [w], ix := 0, w := [], loop := none, staged := [], cost := 0, began := wall }

/-- Sixteen bytes of a syllable at PA 0 with the core at turn about to fetch it, or a policy bytecode as the next of a running decision of function 0. DESIGN CHOICE (log 6). -/
def placeWord (s : State) (nbits w : Nat) : State :=
  let s := { s with inputs := [], windows := [], exports := [] }
  if nbits = 32 then
    { s with
      fnTurn := 0
      turn := 0
      wall := s.wall + 1
      fns := s.fns.map fun f => if f.num = 0 then
          { f with decision := some (placedDecision s.wall (BitVec.ofNat 32 w)) } else f }
  else
    let m := pokes s.mem (withKeys 0 (leBytes 16 w))
    { s with mem := m, limited := [], turn := 1, core := placedCore s.core m }

end Sys2Proof.Machine
end

