-- ==== Sys2Proof/Machine/Landing.lean ====
section
/-! DEFINITION. Events of results: landings, late loads, window stores and export writes, and the stop of an empty budget (R22, R41 to R43, R63, R64, R173, R174, R234). -/
namespace Sys2Proof.Machine

/-! ### Results of the core at turn -/

/-- The results due on this schedule cycle land (R173, R291). -/
def execFixedResultLanding (s : State) : Answer :=
  if !(s.core.pipe.flights.any (s.core.landsNow s.wall)) then .refused (.notEnabled "FIXED_RESULT_LANDING") else .next (landDue s)

/-- Scoreboarded access number n of the core at turn completes (R174, R176); one under the resolution of a request does not. -/
def execVariableResultLanding (n : Nat) (s : State) : Answer :=
  match s.core.dev.vars[n]? with
  | none => .refused (.notEnabled "VARIABLE_RESULT_LANDING")
  | some v => match v.stage with
    | .resolving (some _) => .refused (.notEnabled "VARIABLE_RESULT_LANDING")
    | _ => .next (landVar s s.core.seat.cid v)

/-! ### Promised loads (R63, R64) -/

/-- Change the promises of the results due on this schedule cycle. DEDUCED (log 30). -/
def onPromises (p : Pipe) (g : Promise → Promise) : Pipe :=
  { p with flights := p.flights.map fun f => if decide (f.due ≤ p.cyc) && !p.waits f then { f with late := f.late.map g } else f }

/-- The data of late promises has arrived; the frozen schedule cycle takes place in the next wall cycle (R63). -/
def execPromisedLoadArrival (s : State) : Answer :=
  match s.core.pipe.blocked s.wall with
  | none => .refused (.notEnabled "PROMISED_LOAD_ARRIVAL")
  | some (_, q) =>
    if q.held || q.failed || s.wall < q.arrive then .refused (.notEnabled "PROMISED_LOAD_ARRIVAL")
    else .next (freezeCore (s.onPipe fun p => onPromises p fun q => { q with arrived := q.arrived || (!q.held && !q.failed && decide (q.arrive ≤ s.wall)) }) true)

/-- A promised load is abandoned: its destination receives zero, and the fault waits for the group of its cycle (R64, R71). DEDUCED (log 30). -/
def execMemoryTimeout (s : State) : Answer :=
  match s.core.pipe.blocked s.wall with
  | none => .refused (.notEnabled "MEMORY_TIMEOUT")
  | some (f, q) =>
    if !q.failed && s.wall - s.core.pipe.frozenAt.getD s.wall < timeoutCycles then .refused (.notEnabled "MEMORY_TIMEOUT")
    else .next (s.onPipe fun p => { p with
      flights := p.flights.map fun g => if g.seq = f.seq && g.late == some q then
        { g with late := none, eff := match g.eff with
          | .sreg n _ => .sreg n 0
          | e => e } else g
      timeout := some (p.timeout.getD (q.xo, q.pos)) })

/-! ### Window stores and export writes (R22, R41, R43, R49, R244) -/

/-- The bytes of a window store that a receiver discards: those in berms and in compressed regions. -/
def discards (c : StreamCore) (x : Nat × Byte) : Bool := c.bermAt x.1 || c.sp.compressed x.1

/-- What a window landing does in one receiver: discarded bytes make one touch. Nothing lands in a killed core (R384). Of a TICK group that has not completed, its sender is named, so that it can be taken back (R108). The report gives SOURCE 2 also for a store of the receiver itself: R42 has no code for that. DESIGN CHOICE (log 49). -/
def receiveWindow (w : WindowStore) (sender : Option Nat) (c : StreamCore) : StreamCore :=
  let sp := match w.ws.find? (discards c) with
    | some x => c.sp.touchOf sender (if c.bermAt x.1 then 1 else 2) 2 w.member x.1
    | none => c.sp
  let ws := w.ws.filter fun x => !discards c x
  if c.seat.status = .killed then c else { c with sp := if ws.isEmpty then sp else sp.writeOf sender ws }

/-- What an export landing does in one replica. -/
def receiveExport (w : ExportWrite) (c : StreamCore) : StreamCore := if c.seat.status = .killed then c else c.apply w.eff

/-- Words of a face that a result writes, by signal. -/
def Eff.faceWords : Eff → Nat × List Nat
  | .tapWrite sig ws => (sig, ws.map fun w => w.1)
  | .tapAdd sig _ _ _ ws => (sig, ws.map fun w => w.1)
  | _ => (0, [])

/-- A word of the face of a signal a core holds. -/
def StreamCore.faceWord (c : StreamCore) (sig key : Nat) : Lane := (((c.sig sig).bind fun g => g.samples.head?).map fun x => x.words.get key).getD 0

/-- The sender of a store of a TICK group whose boundary has not completed (R108). -/
def tickSender (s : State) (sender : Option Nat) (seq : Nat) : Option Nat :=
  match sender.bind (coreOf s) with
  | some c => match c.pipe.back with
    | some b => if b.seq ≤ seq then some c.seat.cid else none
    | none => none
  | none => none

/-- What the landing of an export write replaces in a replica. -/
def exportUndo (w : ExportWrite) (c : StreamCore) : Landed :=
  let f := w.eff.faceWords
  { cid := c.seat.cid, sig := f.1, words := f.2.eraseDups.map fun k => (k, c.faceWord f.1 k)
    bad := ((c.sig f.1).bind fun g => g.samples.head?).bind fun x => x.bad }

/-- A replica takes an export write; the sender of one of a TICK group keeps what it replaces (R108). -/
def landExport (w : ExportWrite) (sender : Option Nat) (s : State) (cid : Nat) : State :=
  match coreOf s cid, sender with
  | some c, some me => onCore (onCore s cid (receiveExport w)) me fun d => { d with pipe := { d.pipe with back := d.pipe.back.map fun b =>
      if c.seat.status = .killed then b else { b with landed := exportUndo w c :: b.landed } } }
  | _, _ => onCore s cid (receiveExport w)

/-- The scoreboard of a window store goes down in its sender. -/
def storeArrives (w : WindowStore) (s : State) : State :=
  match w.cid, w.sb with
  | some cid, some n => onCore s cid fun c => c.sbDown n
  | _, _ => s

/-- A window store lands in every receiver on one cycle. -/
def execWindowLanding (n : Nat) (s : State) : Answer :=
  match s.windows[n]? with
  | none => .refused (.notEnabled "WINDOW_LANDING")
  | some w =>
    let from_ := tickSender s w.cid w.seq
    .next (storeArrives w (w.dest.foldl (fun s cid => onCore s cid (receiveWindow w from_)) { s with windows := s.windows.eraseIdx n }))

/-- A face write is replayed in every replica. -/
def execExportLanding (n : Nat) (s : State) : Answer :=
  match s.exports[n]? with
  | none => .refused (.notEnabled "EXPORT_LANDING")
  | some w => .next (w.dest.foldl (landExport w (tickSender s w.cid w.seq)) { s with exports := s.exports.eraseIdx n })

/-! ### Budget (R234, R385) -/

/-- The core at turn stops before its next group; its results in flight keep their places. -/
def execBudgetStop (s : State) : Answer :=
  let c := s.core
  if c.seat.runs && c.sys.budget == 0 then
    .next (raiseFault (s.onCore fun c => { c with seat := { c.seat with stopped := true } }) c.seat.fn
      { kind := 5, core := c.seat.cid, task := c.seat.task, detail := c.seat.member, queue := 0 })
  else .refused (.notEnabled "BUDGET_STOP")

end Sys2Proof.Machine
end

