-- ==== Sys2Proof/Machine/Boundary.lean ====
section
/-! DEFINITION. Completion of boundaries: PHASE, TICK, and arrivals that mix (R8, R9, R16, R17, R24, R26, R107, R108, R131, R163). -/
namespace Sys2Proof.Machine

/-- Run an operation with the core of a CID as the core at turn. -/
def asCore (s : State) (cid : Nat) (f : State → State) : State :=
  let me := s.core.seat.cid
  if me = cid then f s
  else match s.cores.find? fun c => c.seat.cid == cid with
    | none => s
    | some d =>
      let r := f { s with core := d, cores := s.cores.map fun c => if c.seat.cid = cid then s.core else c }
      match r.cores.find? fun c => c.seat.cid == me with
      | none => r
      | some c0 => { r with core := c0, cores := r.cores.map fun c => if c.seat.cid = me then r.core else c }

/-- Members of a tick group in increasing member number. -/
def byMember (g : List StreamCore) : List StreamCore := sortBy (fun a b => decide (a.seat.member < b.seat.member)) g

/-- Run a change for every core of a list, in order. -/
def forMembers (s : State) (g : List StreamCore) (f : State → StreamCore → State) : State :=
  g.foldl (fun s c => match coreOf s c.seat.cid with
    | some c => f s c
    | none => s) s

/-! ### Arrival (R9, R108, R111) -/

/-- Results that a TICK still waits for on one member: those of its own group, which land when it completes, and no others are left (R9, R222). -/
def StreamCore.settled (c : StreamCore) (wall : Nat) : Bool :=
  !c.seat.live || (!(c.dev.vars.any fun v => v.kind.result) && (c.seat.stopped || c.pipe.flights.all fun f =>
    !f.eff.isResult || (decide (f.due ≤ c.pipe.cyc) && match f.late with
      | some q => q.arrived || q.failed || (!q.held && decide (q.arrive ≤ wall))
      | none => true)))

/-- What R9 asks beyond the arrivals. -/
def tickReady (s : State) (g : List StreamCore) : Bool :=
  let mine := fun (cid : Option Nat) => g.any fun c => some c.seat.cid == cid
  !(s.windows.any fun w => mine w.cid) && !(s.exports.any fun w => mine w.cid) && g.all fun c => c.dev.cmds.isEmpty && c.settled s.wall

/-- Has every member ended, and one of them with stores of a later phase still pending? The boundaries after that complete one by one, all members counting as arrived (R110, R111). Nobody arrives at them by TICK or by PHASE: they complete as a PHASE does. DESIGN CHOICE (log 53). -/
def endedAhead (g : List StreamCore) : Bool := (g.all fun c => c.seat.ended) && g.any fun c => !c.dev.pend.isEmpty

/-- The first tick group whose boundary completes in the given way. -/
def boundaryGroup (s : State) (tick : Bool) : Option (List StreamCore) :=
  (allCores s).findSome? fun c =>
    let g := matesOf s c
    if c.seat.live && !c.seat.arrivals.isEmpty then
      if groupArrived g && groupTicks g == tick && (!tick || tickReady s g) then some (byMember g) else none
    else if !tick && c.seat.ended && endedAhead g then some (byMember g) else none

/-! ### The three effects (R108) -/

/-- Pending stores of the phases up to the boundary. -/
def StreamCore.phaseStores (c : StreamCore) : List PendStore := c.dev.pend.filter fun p => decide (p.phase ≤ c.seat.boundary)

/-- The largest number of pending stores a member holds at the boundary (R131). Those that an ahead member has made for a later phase are left out; those of a TICK group count, also where it is then refused and commits nothing. DESIGN CHOICE (log 53). -/
def heldStores (g : List StreamCore) : Nat := (g.map fun c => c.phaseStores.length).foldl max 0

/-- Does what the member issued at place `seq` belong to the boundary's phase? What a TICK group issued does only where the boundary is a TICK (R108). -/
def StreamCore.beforeBack (c : StreamCore) (tick : Bool) (seq : Nat) : Bool :=
  tick || match c.pipe.back with
    | some b => decide (seq < b.seq)
    | none => true

/-- What the member has issued before the boundary and what still waits for its page becomes current at system scope as soon as it becomes current at all (R113). -/
def StreamCore.widen (tick : Bool) (c : StreamCore) : StreamCore :=
  { c with dev := { c.dev with
      vars := c.dev.vars.map fun v => if v.isOpen && v.releases && c.beforeBack tick v.seq then { v with scope := 4 } else v
      late := c.dev.late.map fun l => (l.1, l.2.1, 4) } }

/-- A release issued before the boundary is performed, and all that the member has made current at a narrower scope is current at system scope, no later than the boundary (R113). DEDUCED (log 29). -/
def settleMember (tick : Bool) (s : State) (c : StreamCore) : State :=
  let s := (forceVars c.seat.cid (fun v => v.kind == .release && c.beforeBack tick v.seq) (c.dev.vars.length + 1) s).2
  onCore (settleAll s c.seat.cid) c.seat.cid fun d => d.widen tick

/-- Publish the stores of the phase, member by member, then refresh every snapshot: it is current memory at system scope, where what the members have read of narrower writes is current by then (R105, R107, R108). DEDUCED (log 12). -/
def boundaryEffects (s : State) (g : List StreamCore) (tick : Bool) : State :=
  let s := forMembers s g (settleMember tick)
  let s := forMembers s g fun s c => publish s c.seat.cid 4 false fun p => decide (p.phase ≤ c.seat.boundary) && c.beforeBack tick p.seq
  let s := forMembers s g fun s c => if c.seat.live then settleSeen s c.seat.cid else s
  forMembers s g fun s c => onCore s c.seat.cid fun c => if c.seat.live then c.refresh s.mem s.stamp else c

/-- The boundary is passed; a group held at it issues 24 + P cycles after it, also a held PHASE, and no member's first plain load issues earlier, that of the last to arrive included (R131, R132). The completion belongs to the wall cycle that has just ended. DEDUCED (log 14). DESIGN CHOICE (log 14). -/
def StreamCore.passBoundary (c : StreamCore) (held : Nat) (tick : Bool) : StreamCore :=
  let wait := c.seat.atBarrier || tick
  let at_ := c.pipe.cyc + 23 + held
  { c with
    seat := { c.seat with boundary := c.seat.boundary + 1, arrivals := c.seat.arrivals.tail, atBarrier := if wait then false else c.seat.atBarrier }
    pipe := { c.pipe with
      barrier := if wait then max c.pipe.barrier at_ else c.pipe.barrier
      loadBarrier := max c.pipe.loadBarrier at_
      nextIssue := if tick then max c.pipe.nextIssue at_ else c.pipe.nextIssue } }

/-! ### Mixed arrivals -/

/-- An export write of a refused TICK group is taken back where it has landed: only the signal's owner writes the face of a replica, and nothing of it comes after its TICK (R22, R108). DEDUCED (log 15). -/
def Landed.undo (l : Landed) (c : StreamCore) : StreamCore :=
  onSig c l.sig fun g => match g.samples with
    | [] => g
    | x :: xs => { g with samples := { words := Store.setAll l.words x.words, bad := if x.bad.isSome then x.bad else l.bad } :: xs }

/-- The array states a refused TICK group has set are what they were, unless the partner has set them anew (R108, R295). -/
def ModeBack.undo (m : ModeBack) (s : State) : State :=
  if s.core.sys.amodeSet = m.ownSet then
    let s := match partnerOf s with
      | some p => if p.seat.live && p.sys.amode == m.otherNow then onCore s p.seat.cid fun c => { c with sys := { c.sys with amode := m.other, mmode := m.otherReg } } else s
      | none => s
    s.onCore fun c => { c with sys := { c.sys with amode := m.own } }
  else s

/-- Identifiers that a refused TICK group has been given go back to its task, and its raises are taken back (R108). DEDUCED (log 46). -/
def giveBack (seq : Nat) (fs : List Flight) (t : Task) : Task :=
  let mine := fs.filter fun f => decide (seq ≤ f.seq)
  mine.foldl (fun t f => match f.eff with
    | .growDone _ _ _ _ n => t.lowered n
    | _ => t) { t with returned := sortBy (fun a b => decide (a < b)) (t.returned ++ mine.filterMap fun f => match f.eff with
      | .nextDone _ k _ => some k
      | _ => none) }

/-- A TICK group is taken back: it commits nothing (R108). DEDUCED (log 15). -/
def StreamCore.takeBack (c : StreamCore) (b : Back) : StreamCore :=
  let mine := fun (seq : Nat) => decide (b.seq ≤ seq)
  let c := c.pipe.flights.foldl (fun c f => if mine f.seq then
      (match f.eff with
      | .sb n => c.sbDown n
      | _ => c) else c) c
  let c := (c.dev.vars.filter fun v => mine v.seq).foldl (fun c v => c.varDone v) c
  let c := c.dev.fails.foldl (fun c f => match f.sb with
    | some n => if mine f.seq then c.sbDown n else c
    | none => c) c
  let c := StreamCore.regrant { c with dev := { c.dev with cmds := c.dev.cmds.filter fun k => !mine k.seq } }
  let old := fun (now then_ : BitVec 64) => now &&& ~~~b.tagMask ||| then_ &&& b.tagMask
  { c with
    regs := { c.regs with gen := b.gen, tagr := old c.regs.tagr b.tagr, tagPend := old c.regs.tagPend b.tagPend, tagErr := old c.regs.tagErr b.tagErr }
    sys := { c.sys with fmtr := b.fmtr }
    wbuf := b.wbuf
    pipe := { c.pipe with flights := c.pipe.flights.filter fun f => !mine f.seq, fmtrPend := b.fmtrPend, pc := b.pc, glen := b.glen, arrayFree := b.arrayFree, back := none }
    dev := { c.dev with
      pend := c.dev.pend.filter fun p => !mine p.seq, fails := c.dev.fails.filter fun f => !mine f.seq
      unseen := (b.unseen.filter fun u => !(c.dev.unseen.any fun x => x.1 == u.1)) ++ c.dev.unseen } }

/-- The trap of a member that arrived by TICK at a boundary that is no TICK. DEDUCED (log 15). -/
def refuseTick (s : State) (cid : Nat) : State :=
  asCore s cid fun s =>
    match s.core.pipe.back with
    | none => s
    | some b =>
      let mine := fun (c : Option Nat) (seq : Nat) => c == some cid && decide (b.seq ≤ seq)
      let sbs := (s.windows.filter fun w => mine w.cid w.seq).filterMap fun w => w.sb
      let s := { s with windows := s.windows.filter fun w => !mine w.cid w.seq, exports := s.exports.filter fun w => !mine w.cid w.seq }
      let s := b.landed.foldl (fun s l => onCore s l.cid l.undo) s
      let s := onCores s fun c => { c with sp := c.sp.takeBackOf cid }
      let s := (b.modes.map fun m => m.undo s).getD s
      let s := onTask s s.core.seat.fn s.core.seat.task fun t => giveBack b.seq s.core.pipe.flights { t with reqs := t.reqs.filter fun r => !mine r.cid r.seq }
      takeTrap { code := 2, detail := 0x48, pos := b.pos, cls := 0, tval := 0 } (s.onCore fun c => (sbs.foldl StreamCore.sbDown c).takeBack b)

/-- A boundary that is no TICK completes (R108). DEDUCED (log 14). -/
def completePhase (s : State) (g : List StreamCore) : State :=
  let held := heldStores g
  let ticks := g.filter fun c => c.seat.live && c.seat.arrival == some .tick
  let s := boundaryEffects s g false
  let s := forMembers s g fun s c => onCore s c.seat.cid fun c => c.passBoundary held false
  let s := ticks.foldl (fun s c => refuseTick s c.seat.cid) s
  match g with
  | [] => s
  | c :: _ => reap s c.seat.fn c.seat.task c.seat.bench

def execPhaseCompletion (s : State) : Answer :=
  match boundaryGroup s false with
  | some g => .next (completePhase s g)
  | none => .refused (.notEnabled "PHASE_COMPLETION")

/-! ### TICK (R9, R16, R17, R26) -/

/-- Every word of a sample at one value. -/
def Sig.filled (g : Sig) (v : Lane) : Store 32 :=
  Store.setAll ((setBits 8 g.clusters).flatMap fun cl => (List.range (g.vecs + 1)).flatMap fun i => (List.range 16).map fun j => (tapKey cl i j, v)) []

/-- The face a signal opens with sample j (R16). A carry open copies the old sample with the error it holds. DESIGN CHOICE (log 24). -/
def Sig.opened (g : Sig) (j : Int) : Sample :=
  if g.carryOpen then
    if j = 0 then { words := if g.fill = 1 then g.filled g.fillc else [], bad := none }
    else g.samples.headD { words := [], bad := none }
  else { words := [], bad := none }

/-- Open the faces of a TICK (R17); a signal of DEPTH 1 keeps one sample. -/
def Sig.advance (g : Sig) (now : Word) : Sig :=
  if g.face now < g.face (now + 1) then { g with samples := (g.opened (g.face (now + 1)) :: g.samples).take g.depth } else g

/-- The registers a TICK leaves (R26). -/
def Regs.ticked (r : Regs) (gen : Store 32) : Regs := { Regs.reset with s := r.s.keep fun n => decide (n < 32), gen := gen }

/-- Results still in flight when the TICK completes belong to its own group and land now, and its berm touches count; array work and a pending SETFMT are discarded (R9, R41, R91, R292). -/
def landLast (s : State) : State :=
  let s := s.onCore fun c => { c with sp := { c.sp with berm := joinBerms (c.pipe.back.bind fun b => b.berm) c.sp.berm } }
  let s := s.onPipe fun p => { p with
    back := none
    timeout := match p.flights.find? fun f => match f.late with
        | some q => q.failed
        | none => false with
      | some f => f.late.map fun q => (q.xo, q.pos)
      | none => p.timeout
    flights := (p.flights.filter fun f => !f.eff.isCommit).map fun f => { f with
      due := min f.due p.cyc
      eff := match f.late, f.eff with
        | some q, .sreg n v => .sreg n (if q.failed then 0 else v)
        | _, e => e } }
  landDue s

/-- What a TICK does to a live member's context once NOW has advanced (R26, R44). DEDUCED (log 29). -/
def StreamCore.tickClear (c : StreamCore) (save : Bool) : StreamCore :=
  { c with
    seat := { c.seat with atTick := save }
    regs := c.regs.ticked (seedGens c.sys.seed c.sys.now)
    sys := { Sys.reset with
      now := c.sys.now, budget := c.sys.budget, ctrl := c.sys.ctrl, seed := c.sys.seed, widr := c.sys.widr, amode := c.sys.amode, mmode := c.sys.mmode, amodeSet := c.sys.amodeSet, share := c.sys.share }
    wbuf := WBuf.empty
    jobs := []
    sp := c.sp.tickClear c.pool
    pipe := { c.pipe with flights := [], fmtrPend := [], cache := [], arrayFree := 0, overflow := [], loop := none, after := [] }
    dev := { c.dev with
      tagDone := [], unseen := []
      vars := c.dev.vars.map fun v => { v with sb := none }
      fails := c.dev.fails.map fun f => { f with sb := none } } }

/-- NOW advances and the signals open their faces, also those of members that have ended; what the TICK groups stored stands (R9, R24, R108). -/
def StreamCore.nextTick (c : StreamCore) : StreamCore :=
  { c with sys := { c.sys with now := c.sys.now + 1 }, taps := c.taps.map fun g => g.advance c.sys.now, sp := { c.sp with tentative := Tentative.empty } }

/-- A core that was given the array alone shares it from its TICK on if its partner has been bound since (R163). -/
def StreamCore.sharesArray (c : StreamCore) : StreamCore :=
  if c.sys.share && c.sys.amode == 1 then { c with sys := { c.sys with amode := 0, mmode := 0, share := false } } else { c with sys := { c.sys with share := false } }

/-- Is the save of a tick group asked for: a committed PREEMPT, a stop, or a degraded core (R34, R143, R386)? -/
def saveAsked (s : State) (g : List StreamCore) : Bool :=
  g.any fun c => c.seat.preempt || c.sp.degraded || match fnOf s c.seat.fn with
    | some f => f.stopReq
    | none => false

/-- A TICK completes. Where the group is to be saved, what a member that exited ahead has stored for a later phase is published too: the manual gives a context record no place for it (R388). DEDUCED (log 14). DESIGN CHOICE (log 53). -/
def completeTick (s : State) (g : List StreamCore) : State :=
  let held := heldStores g
  let save := saveAsked s g
  let s := boundaryEffects s g true
  let s := if save then forMembers s g fun s c => publish s c.seat.cid 4 false fun _ => true else s
  let s := forMembers s g fun s c => if c.seat.live then asCore s c.seat.cid landLast else s
  let s := forMembers s g fun s c => onCore s c.seat.cid fun c => if c.seat.live then (c.nextTick.tickClear save).passBoundary held true else c.nextTick.passBoundary held false
  forMembers s g fun s c => onCore s c.seat.cid StreamCore.sharesArray

def execTickCompletion (s : State) : Answer :=
  match boundaryGroup s true with
  | some g => .next (completeTick s g)
  | none => .refused (.notEnabled "TICK_COMPLETION")

end Sys2Proof.Machine
end

