-- ==== Sys2Proof/Machine/Context.lean ====
section
/-! DEFINITION. Context records: saving a tick group at a TICK, and its contents back in a core (R27, R28, R44, R53, R386 to R389). -/
namespace Sys2Proof.Machine

/-! ### The record (R388) -/

/-- Bytes padded to a multiple of 64. -/
def pad64 (bs : List Byte) : List Byte := bs ++ List.replicate ((64 - bs.length % 64) % 64) 0

/-- The words of a sample in storage order: cluster, cluster-vector, lane. -/
def Sig.places (g : Sig) : List Nat :=
  (setBits 8 g.clusters).flatMap fun cl => (List.range (g.vecs + 1)).flatMap fun i => (List.range 16).map fun j => tapKey cl i j

def Sig.sampleImage (g : Sig) (x : Sample) : List Byte := g.places.flatMap fun k => leBytes 4 (x.words.get k).toNat

/-- A sample read back from its bytes. -/
def Sig.sampleOf (g : Sig) (bs : List Byte) : Sample :=
  { words := Store.setAll (g.places.mapIdx fun i k => (k, BitVec.ofNat 32 (leNat (slice bs (4 * i) 4)))) [], bad := none }

/-- STATE of a member record. -/
def Status.code : Status → Nat
  | .exited => 1
  | .killed => 2
  | _ => 0

/-- A member record. -/
def memberRecord (c : StreamCore) : List Byte :=
  let w := fun (x : Word) => leBytes 8 x.toNat
  ((List.range 31).flatMap fun i => w (c.sreg (i + 1))) ++ w c.sys.ctrl ++ w c.sys.seed ++ leBytes 8 c.sys.budget ++ w c.sys.widr ++ leBytes 8 c.seat.cid ++
    (if c.seat.live then leBytes 8 c.pipe.pc.toNat else leBytes 8 0) ++ [BitVec.ofNat 8 c.seat.status.code] ++ List.replicate 215 0

/-- Signals of a core in increasing SIGID that a save holds. -/
def StreamCore.savedSigs (c : StreamCore) : List Sig := sortBy (fun a b => decide (a.id < b.id)) (c.taps.filter fun g => !g.replica)

/-- A signal instance. -/
def sigRecord (c : StreamCore) (g : Sig) : List Byte :=
  let h := g.hist c.sys.now
  pad64 ([BitVec.ofNat 8 g.id, BitVec.ofNat 8 c.seat.member] ++ leBytes 2 h ++ leBytes 4 g.sampleBytes) ++ (g.samples.take h).flatMap fun x => pad64 (g.sampleImage x)

/-- Pool indices of carried buffers. -/
def StreamCore.carried (c : StreamCore) : List Nat :=
  (List.range c.pool.length).filter fun i => recKind (c.entry i) == 1 && recCarried (c.entry i)

/-- Regions wholly inside a buffer. -/
def regionsIn (e : Nat) : List Nat := (List.range 96).filter fun n => decide (recBase e ≤ 1024 * n) && decide (1024 * n + 1024 ≤ recBase e + recLen e)

/-- A carried buffer: validity, granules (an invalid one as zero), compression of its whole regions. The record has no place for an error mark: an uncorrectable granule is saved as its stored bytes and restored as readable. The save is no read that corrects, writes back or reports an erased granule (R33). DESIGN CHOICE (log 51). -/
def bufferRecord (c : StreamCore) (e : Nat) : List Byte :=
  let b := recBase e
  let n := recLen e
  let valid := packNat 1 ((List.range n).map fun g => (c.sp.valid.get (b + g)).toNat)
  pad64 (leBytes ((n + 7) / 8) valid) ++ ((List.range (64 * n)).map fun i => c.sp.held (64 * b + i)) ++
    (regionsIn e).flatMap fun r =>
      [BitVec.ofNat 8 (c.sp.summary.get r).toNat, 0, 0, 0] ++ ((List.range 16).flatMap fun t => leBytes 4 (c.sp.table.get (16 * r + t)).toNat) ++ List.replicate 60 0

/-- The parts of a record after its header. -/
def recordBody (g : List StreamCore) : List Byte :=
  g.flatMap memberRecord ++ (g.flatMap fun c => c.savedSigs.flatMap fun x => sigRecord c x) ++ g.flatMap fun c => c.carried.flatMap fun i => bufferRecord c (c.entry i)

/-- A context record of a tick group, members in order. -/
def contextRecord (g : List StreamCore) : List Byte :=
  let body := recordBody g
  let now := ((g.head?).map fun c => c.sys.now.toNat).getD 0
  let pos := ((g.find? fun c => c.seat.live).map fun c => c.pipe.pc.toNat).getD 0
  let task := ((g.head?).map fun c => c.seat.task).getD 0
  leBytes 8 now ++ leBytes 8 pos ++ leBytes 2 task ++ [BitVec.ofNat 8 (g.length - 1), 0] ++ leBytes 2 ((g.map fun c => c.savedSigs.length).foldl (· + ·) 0) ++
    [0, 0] ++ leBytes 8 (256 + body.length) ++ List.replicate 224 0 ++ body

/-! ### The context pool (R387) -/

/-- Extents in use. -/
def Func.poolUsed (f : Func) : List Saved := f.tasks.flatMap (fun t => t.saved) ++ f.binds.filterMap fun b => b.restore

/-- Is an extent free? -/
def poolFits (f : Func) (pa len : Nat) : Bool :=
  pa % 64 == 0 && decide (f.poolPa ≤ pa) && decide (pa + len ≤ f.poolPa + f.poolLen) && f.poolUsed.all fun u => decide (pa + len ≤ u.pa) || decide (u.pa + u.len ≤ pa)

def roundUp64 (n : Nat) : Nat := (n + 63) / 64 * 64

/-- Where an extent may start, lowest first. -/
def poolStarts (f : Func) : List Nat := sortBy (fun a b => decide (a < b)) (roundUp64 f.poolPa :: f.poolUsed.map fun u => roundUp64 (u.pa + u.len))

def poolPlace (f : Func) (len : Nat) : Option Nat := (poolStarts f).find? fun a => poolFits f a len

/-- The longest free extent. -/
def poolLargest (f : Func) : Nat :=
  ((poolStarts f).map fun a =>
    let stop := (f.poolUsed.filter fun u => decide (a < u.pa + u.len)).foldl (fun m u => min m u.pa) (f.poolPa + f.poolLen)
    stop - a).foldl max 0

/-! ### Saving (R386) -/

/-- Has the group completed a TICK at which it is to be saved? -/
def atTick (g : List StreamCore) : Bool := (g.any fun c => c.seat.live) && g.all fun c => !c.seat.live || c.seat.atTick

/-- Has every store of the group before the TICK become current? DEDUCED (log 16). -/
def storesOut (g : List StreamCore) : Bool := g.all fun c => c.dev.late.isEmpty && c.dev.vars.all fun v => match v.stage with
  | .performed _ => true
  | _ => false

/-- Does the context pool of the group's function lack an extent for its record (R387)? -/
def poolLacks (s : State) (fn : Nat) (g : List StreamCore) : Bool :=
  match fnOf s fn with
  | some f => (poolPlace f (contextRecord g).length).isNone
  | none => false

/-- The tick group to be saved next, or to go on because its record has no place. DEDUCED (log 16). -/
def saveGroup (s : State) : Option (List StreamCore) :=
  (allCores s).findSome? fun c =>
    if c.seat.live && c.seat.atTick then
      let g := byMember (matesOf s c)
      if atTick g && (storesOut g || poolLacks s c.seat.fn g) then some g else none
    else none

/-- Save a tick group, free its cores and put its task at the front of its queue; or resume it where the pool has no room (R386, R387). -/
def saveTo (s : State) (g : List StreamCore) (f : Func) (task : Nat) : State :=
  let rec_ := contextRecord g
  match poolPlace f rec_.length with
  | none =>
    let s := forMembers s g fun s c => onCore s c.seat.cid fun c => { c with seat := { c.seat with atTick := false } }
    emitPoolFull s f.num task rec_.length (poolLargest f)
  | some pa =>
    let s := writeSysAt s pa rec_
    let s := forMembers s g fun s c => settleSeen (settleAll (releaseArray s c.seat.cid) c.seat.cid) c.seat.cid
    let s := onTask s f.num task fun t => { t with saved := t.saved ++ [{ pa := pa, len := rec_.length, gsize := g.length }] }
    let s := freeList s f.num task (g.map fun c => c.seat.cid)
    match taskOf s f.num task with
    | none => s
    | some t =>
      let s := onFn s f.num fun f => { f with savedGroups := f.savedGroups + 1, queues := modifyNth f.queues t.queue fun q => task :: q.filter fun n => n != task }
      raiseArrive s f.num t

def execPreemptSave (s : State) : Answer :=
  match saveGroup s with
  | none => .refused (.notEnabled "PREEMPT_SAVE")
  | some g => match g with
    | [] => .refused (.notEnabled "PREEMPT_SAVE")
    | c :: _ => match fnOf s c.seat.fn with
      | none => .refused (.notEnabled "PREEMPT_SAVE")
      | some f => .next (saveTo s g f c.seat.task)

/-! ### Restoring (R28, R389) -/

/-- Signal instances of a record: SIGID, member, samples as bytes, and the bytes after them. DEDUCED (log 24). -/
def readSigs : Nat → List Byte → List (Nat × Nat × List (List Byte)) × List Byte
  | 0, bs => ([], bs)
  | n + 1, bs =>
    let h := leNat (slice bs 2 2)
    let size := (leNat (slice bs 4 4) + 63) / 64 * 64
    let r := readSigs n (bs.drop (64 + h * size))
    ((leNat (slice bs 0 1), leNat (slice bs 1 1), (List.range h).map fun i => slice bs (64 + i * size) size) :: r.1, r.2)

/-- One carried buffer put back into a scratchpad whose granules are all invalid: its valid granules, and the compression of its regions; the bytes after it. -/
def readBuffer (sp : Scratch) (e : Nat) (bs : List Byte) : Scratch × List Byte :=
  let b := recBase e
  let n := recLen e
  let vb := ((n + 7) / 8 + 63) / 64 * 64
  let valid := leNat (slice bs 0 ((n + 7) / 8))
  let rs := regionsIn e
  let tail := bs.drop (vb + 64 * n)
  let live := (List.range n).filter fun g => bit valid g
  let sp := sp.write (live.flatMap fun g => withKeys (64 * (b + g)) (slice bs (vb + 64 * g) 64))
  ({ sp with
     summary := Store.setAll (rs.mapIdx fun i r => (r, BitVec.ofNat 1 (leNat (slice tail (128 * i) 1)))) sp.summary
     table := Store.setAll ((rs.mapIdx fun i r => (List.range 16).map fun t => (16 * r + t, BitVec.ofNat 32 (leNat (slice tail (128 * i + 4 + 4 * t) 4)))).flatten) sp.table },
   tail.drop (128 * rs.length))

/-- Carried buffers of the members in order, into the scratchpads by member. -/
def readBuffers : List (Nat × Nat) → List Byte → List (Nat × Scratch) → List (Nat × Scratch)
  | [], _, sps => sps
  | (m, e) :: es, bs, sps =>
    match sps.find? fun x => x.1 == m with
    | none => sps
    | some x =>
      let r := readBuffer x.2 e bs
      readBuffers es r.2 (sps.map fun y => if y.1 = m then (m, r.1) else y)

/-- A member's registers from its record. -/
def readMember (c : StreamCore) (b : List Byte) (now : Word) : StreamCore :=
  let w := fun (i : Nat) => BitVec.ofNat 64 (leNat (slice b i 8))
  let st := leNat (slice b 296 1)
  { c with
    regs := { c.regs with s := Store.setAll ((List.range 31).map fun i => (i + 1, w (8 * i))) c.regs.s, gen := seedGens (w 256) now }
    sys := { c.sys with now := now, ctrl := w 248, seed := w 256, budget := leNat (slice b 264 8) % 2 ^ 48, widr := w 272 }
    seat := { c.seat with status := if st = 1 then .exited else if st = 2 then .killed else .live }
    pipe := { c.pipe with pc := (w 288).setWidth 80 } }

/-- The signals of a member: its own from its instances, its replicas from their owners'. -/
def readTaps (taps : List Sig) (member : Nat) (sigs : List (Nat × Nat × List (List Byte))) : List Sig :=
  taps.map fun g =>
    let m := if g.replica then g.owner else member
    match sigs.find? fun x => x.1 == g.id && x.2.1 == m with
    | some x => { g with samples := x.2.2.map g.sampleOf }
    | none => { g with samples := [] }

/-- Put a record into the loaded cores of a tick group, members in order. -/
def restoreGroup (g : List StreamCore) (rec : List Byte) : List StreamCore :=
  let now := BitVec.ofNat 64 (leNat (slice rec 0 8))
  let n := g.length
  let sg := readSigs (leNat (slice rec 20 2)) (rec.drop (256 + 512 * n))
  let sps := readBuffers (g.flatMap fun c => c.carried.map fun i => (c.seat.member, c.entry i)) sg.2 (g.map fun c => (c.seat.member, c.sp))
  g.map fun c =>
    let c := readMember c (slice rec (256 + 512 * c.seat.member) 512) now
    { c with
      taps := readTaps c.taps c.seat.member sg.1
      sp := ((sps.find? fun x => x.1 == c.seat.member).map fun x => x.2).getD c.sp }

end Sys2Proof.Machine
end

