-- ==== Sys2Proof/Machine/Control.lean ====
section
/-! DEFINITION. Control transfers, the loop buffer, waits on tags, barriers, work identifiers, traps and returns, SETFMT (R218 to R229). -/
namespace Sys2Proof.Machine

/-! ### Transfers (R218) -/

/-- Target of a branch: group address plus 16 × IMM, or sA aligned (R168, R218), whose 64 bits are the low ones of the address. DESIGN CHOICE (log 1). -/
def branchTarget (c : StreamCore) (o : LReg) (imm : Bool) : Va :=
  if imm then c.pipe.pc + 16 * o.imm.signExtend 80 else (c.sreg o.a.toNat &&& ~~~15#64).setWidth 80

/-- The group transfers control once it has committed. -/
def transfer (t : Va) (s : State) : State := s.onPipe fun p => { p with target := some t }

/-- The low 64 bits of the address of the group after this one, all that a register of a return holds (R218). DESIGN CHOICE (log 1). -/
def Pipe.link (p : Pipe) : Word := (p.pc + BitVec.ofNat 80 (16 * p.glen)).setWidth 64

def execBr (h : Hdr) (o : LReg) (s : State) : Answer :=
  issued (.br h o) s fun s => .ok (transfer (branchTarget s.core o (o.bsel.toNat == 2)) s) (some 1)

def execBrc (h : Hdr) (o : LReg) (s : State) : Answer :=
  issued (.brc h o) s fun s =>
    let w := scalarW (hFmt h)
    let sg := scalarSg (hFmt h)
    if condHolds o.sub.toNat (asInt w sg (s.core.sreg o.a.toNat).toNat) (asInt w sg (s.core.sreg o.b.toNat).toNat) then .ok (transfer (branchTarget s.core o true) s) (some 1)
    else .ok s (some 1)

def execCall (h : Hdr) (o : LReg) (s : State) : Answer :=
  issued (.call h o) s fun s =>
    .ok (transfer (branchTarget s.core o (o.bsel.toNat == 2)) (s.fly 1 (.sreg o.d.toNat s.core.pipe.link))) (some 1)

def execRet (h : Hdr) (o : LReg) (s : State) : Answer :=
  issued (.ret h o) s fun s => .ok (transfer (branchTarget s.core o false) s) (some 1)

/-! ### The loop buffer (R219) -/

/-- Something the group does once all of it has committed. -/
def afterGroup (s : State) (a : After) : State := s.onPipe fun p => { p with after := p.after ++ [a] }

def execLoop (h : Hdr) (o : LReg) (s : State) : Answer :=
  issued (.loop h o) s fun s =>
    let r := bits o.imm.toNat 13 6
    let e := s.core.entry r
    if recKind e ≠ 3 then .trap (s.trapHere 0 0x20 0 (BitVec.ofNat 64 r))
    else .ok (afterGroup s (.nest (bits o.imm.toNat 5 0 + 1) ((List.range 6).map fun d => nestBound e d))) (some 1)

/-! ### Tags (R220, R221) -/

/-- A wait whose condition holds: it returns the set tags, which count as waited on. -/
def tagReturn (o : LReg) (s : State) : Res :=
  let v := s.core.regs.tagr &&& s.core.sreg o.a.toNat
  landS (afterGroup s (.waited v)) 1 o.d.toNat v

def execWaitany (h : Hdr) (o : LReg) (s : State) : Answer := issued (.waitany h o) s fun s => tagReturn o s
def execWaitall (h : Hdr) (o : LReg) (s : State) : Answer := issued (.waitall h o) s fun s => tagReturn o s

def execFfr (h : Hdr) (o : LReg) (s : State) : Answer :=
  issued (.ffr h o) s fun s =>
    let v := (s.core.regs.tagr &&& s.core.sreg o.a.toNat).toNat
    let n := lowestBit 64 v
    landS (afterGroup s (.waited (if n = 64 then 0 else BitVec.ofNat 64 (2 ^ n)))) 1 o.d.toNat (BitVec.ofNat 64 n)

/-! ### Barriers (R222, R108, R109) -/

/-- What a mixed boundary takes back of a TICK group. -/
def tickBack (c : StreamCore) : Back :=
  let p := c.pipe
  { pc := p.pc, glen := p.glen, pos := p.gpos, seq := p.seq - p.gpos, gen := c.regs.gen, fmtr := c.sys.fmtr, fmtrPend := p.fmtrPend
    tagr := c.regs.tagr, tagPend := c.regs.tagPend, tagErr := c.regs.tagErr, tagMask := 0
    unseen := [], wbuf := c.wbuf, arrayFree := c.pipe.arrayFree, modes := none, berm := none, landed := [] }

/-- The member arrives when its group has committed. -/
def execTick (h : Hdr) (o : LReg) (s : State) : Answer := issued (.tick h o) s fun s => .ok (afterGroup s (.arrive .tick (some (tickBack s.core)))) (some 1)
def execPhase (h : Hdr) (o : LReg) (s : State) : Answer := issued (.phase h o) s fun s => .ok (afterGroup s (.arrive .phase none)) (some 1)

/-! ### Work identifiers (R224, R225) -/

/-- Present a request to the scheduler; it reaches it within the 40 cycles of R156. DEDUCED (log 46). -/
def present (s : State) (amount : Option Word) : State :=
  let c := s.core
  let r : Request := { cid := some c.seat.cid, seq := c.pipe.seq, amount := amount, due := s.wall + freeNow s % 40 }
  onTask { s with draws := s.draws + 1 } c.seat.fn c.seat.task fun t => { t with reqs := t.reqs ++ [r] }

def execNext (h : Hdr) (o : LReg) (s : State) : Answer :=
  issued (.next h o) s fun s => .ok (present (s.fly 40 (.nextWait (physQ s.core.sys.rotw o.d.toNat))) none) (some 40)

def execGrow (h : Hdr) (o : LReg) (s : State) : Answer :=
  issued (.grow h o) s fun s => .ok (present (s.fly 40 (.growWait o.d.toNat o.c.toNat (s.core.bword o))) (some (s.core.bword o))) (some 40)

/-! ### Ends, traps, returns (R223, R226 to R229) -/

def execExit (h : Hdr) (o : LReg) (s : State) : Answer := issued (.exit h o) s fun s => .ok (afterGroup s .exit) (some 1)

def execTrap (h : Hdr) (o : LReg) (s : State) : Answer :=
  issued (.trap h o) s fun s => .trap (s.trapHere 0 0x03 0 (BitVec.ofNat 64 (bits o.imm.toNat 15 0)))

def execRte (h : Hdr) (o : LReg) (s : State) : Answer :=
  issued (.rte h o) s fun s => .ok (afterGroup (transfer ((if s.core.sys.tl = 2 then s.core.sys.tret2 else s.core.sys.tret1).setWidth 80) s) .rte) (some 1)

def execIflush (h : Hdr) (o : LReg) (s : State) : Answer := issued (.iflush h o) s fun s => .ok (afterGroup s .iflush) (some 1)

/-- The scoreboard a SETFMT names goes down a cycle after its issue, before its value can be read (R171, R229). DEDUCED (log 36, log 43). -/
def execSetfmt (h : Hdr) (o : LScl) (s : State) : Answer :=
  issued (.setfmt h o) s fun s => .ok (s.onPipe fun p => { p with fmtrPend := p.fmtrPend ++ [{ left := 3, val := s.core.sreg o.a.toNat }] }) (some 1)

end Sys2Proof.Machine
end

