-- ==== Sys2Proof/Machine/DevMem.lean ====
section
/-! DEFINITION. The scalar device-memory syllables of class E (R62, R63, R105, R113 to R116, R311 to R314). -/
namespace Sys2Proof.Machine

/-- Offset of a scalar device-memory access, formed exactly (R311). -/
def StreamCore.ememOff (c : StreamCore) (o : LEmem) : Int := signed64 (c.sreg o.o.toNat) + o.imm24.toNat

/-- Bytes of the access. -/
def accessBytes (o : LEmem) : Nat := 2 ^ o.sz.toNat

/-- Does the extent grant a need (R62)? -/
def Ext.grants (e : Ext) (need : Nat) : Bool := (!bit need 0 || e.rd) && (!bit need 1 || e.wr) && (!bit need 2 || e.at_)

/-- The checks of R62 on a range of an extent: a cause code. -/
def rangeCheck (c : StreamCore) (x : Nat) (off : Int) (n need : Nat) (promised : Bool) : Option Nat :=
  let e := nth c.dev.exts x Ext.none
  if 15 < x || !e.declared then some 0x09
  else if off < 0 || (e.len : Int) < off + n then some 0x0A
  else if !e.grants need then some 0x0B
  else if promised && (e.lcreq == 3 || e.perAccess) then some 0x0C
  else none

/-- A trap of a class E syllable that names extent and offset. -/
def devTrap (s : State) (code x : Nat) (off : Int) : Res := .trap (s.trapHere 9 code 0 (xoWord x off))

/-- The checks of R62, and of alignment for an atomic; then the access itself. -/
def devAccess (s : State) (o : LEmem) (need : Nat) (promised aligned : Bool) (k : Nat → Res) : Res :=
  let off := s.core.ememOff o
  match rangeCheck s.core o.x.toNat off (accessBytes o) need promised with
  | some code => devTrap s code o.x.toNat off
  | none => if aligned && off % (accessBytes o) != 0 then devTrap s 0x10 o.x.toNat off else k off.toNat

/-- The access a syllable puts in flight. -/
def varOf (s : State) (h : Hdr) (o : LEmem) (off : Nat) (kind : VarKind) : VarOp :=
  { seq := s.core.pipe.seq, kind := kind, x := o.x.toNat, off := off, n := (accessBytes o), sg := scalarSg (hFmt h), d := o.d.toNat
    a := s.core.sreg o.a.toNat, b := s.core.sreg o.b.toNat
    c := match kind with
      | .cas128 => (s.core.sreg (o.d.toNat + 1)).toNat * 2 ^ 64 + (s.core.sreg o.d.toNat).toNat
      | _ => 0
    sb := if h.sbv then some h.sbi.toNat else none, scope := o.scope.toNat, ord := o.ord.toNat, fixed := none, view := none, stage := .issued, due := 0 }

/-- Put a scoreboarded access in flight; when it lands is not promised (R131, R174). DEDUCED (log 48). -/
def launchVar (s : State) (v : VarOp) : Res :=
  let r := draw s
  .ok (r.2.onCore fun c => { c with dev := { c.dev with vars := c.dev.vars ++ [{ v with due := s.wall + 1 + r.1 }] } }) none

/-- The places of the bytes of an access, where all of them have one. -/
def placesOf (s : State) (c : StreamCore) (x off n : Nat) : Option (List Nat) := (List.range n).mapM fun i => placeOf s c x (off + i)

/-- Issue a plain load after the acquires of the groups before its own; while one of them cannot be performed the core is frozen before the group (R117). DEDUCED (log 12). -/
def afterAcquires (s : State) (k : State → Res) : Res :=
  let r := forceAcquires s s.core.seat.cid (s.core.pipe.seq - s.core.pipe.gpos)
  if r.1 then k r.2 else .hold .freezeFree

/-- A plain load whose page is still to come: its value where its places are known as it issues, else what each location reads as then (R106). DEDUCED (log 26). -/
def fixedLoad (s : State) (v : VarOp) (known : Bool) (st : VarStage) : VarOp :=
  { v with
    stage := st
    fixed := if known then (placesOf s s.core v.x v.off v.n).map fun pas => leNat (pas.map fun pa => plainByte s s.core v.seq pa) else none
    view := some s.core.dev.asRead }

/-- A plain scoreboarded load: what it reads is fixed when it issues (R106); a refused one is a failure from then on. One of a TICK group looks up no page before its boundary is known to be a TICK: on another it has made no access (R108, R374). DEDUCED (log 15). DEDUCED (log 26). -/
def launchLoad (s : State) (v : VarOp) : Res :=
  if s.core.pipe.ticks then launchVar s (fixedLoad s v true .issued)
  else
  let r := perform s s.core.seat.cid v
  let waits := fun (q : Option Nat) => launchVar r.2 (fixedLoad s v q.isNone (.resolving q))
  match r.1 with
  | .value x => launchVar r.2 { v with stage := .performed x }
  | .notCarried => launchVar r.2 v
  | .look (.refused d) => .ok (addFailure { seq := v.seq, cause := 0x0E, detail := d, tval := xoWord v.x v.off, sb := v.sb } r.2 s.core.seat.cid) none
  | .look (.request q) => waits (some q)
  | .look _ => waits none

/-- DEDUCED (log 26). -/
def execLdd (h : Hdr) (o : LEmem) (s : State) : Answer :=
  issued (.ldd h o) s fun s => devAccess s o needRead false false fun off => afterAcquires s fun s => launchLoad s (varOf s h o off .load)

/-- Cycles to the landing of a promised load (R57). DEDUCED (log 30). -/
def promiseOf (lcreq : Nat) : Nat := nth [700, 1000, 6000] lcreq 6000

/-- A promised result that lands n cycles from now, with the arrival of its data. -/
def State.flyLate (s : State) (n : Nat) (e : Eff) (q : Promise) : State :=
  s.onPipe fun p => { p with flights := p.flights ++ [{ due := p.cyc + n, seq := p.seq, eff := e, late := some q }] }

/-- A promised load. One of a TICK group begins no walk of a marked run before its boundary is known to be a TICK (R71, R108, R374). DEDUCED (log 15). -/
def execLddP (h : Hdr) (o : LEmem) (s : State) : Answer :=
  issued (.lddP h o) s fun s => devAccess s o needRead true false fun off => afterAcquires s fun s =>
    let n := promiseOf (s.core.dev.extent o.x.toNat).lcreq
    let waits := s.core.pipe.ticks && (pieces ((s.core.dev.extent o.x.toNat).base + off) (accessBytes o)).any fun p => ((s.core.dev.runAt o.x.toNat p.1).map fun r => r.marked).getD false
    let r := if waits then (.error .hold, s) else access s s.core o.x.toNat off (accessBytes o) needRead
    let d := draw r.2
    let arrive := s.wall + d.1
    let place := fun i => (placeOf s s.core o.x.toNat (off + i)).getD 0
    let value := fun (pas : List Nat) => ext64 (8 * (accessBytes o)) (scalarSg (hFmt h)) (leNat (pas.map fun pa => plainByte s s.core s.core.pipe.seq pa))
    let late := fun (held failed : Bool) => { arrive := arrive, arrived := false, held := held, failed := failed, xo := xoWord o.x.toNat off, pos := s.core.pipe.gpos, n := accessBytes o : Promise }
    match r.1 with
    | .ok pas => .ok (d.2.flyLate n (.sreg o.d.toNat (value pas)) (late false false)) (some n)
    | .error (.refused _) => .ok (d.2.flyLate n (.sreg o.d.toNat 0) (late false true)) (some n)
    | .error _ => .ok (d.2.flyLate n (.sreg o.d.toNat (value ((List.range (accessBytes o)).map place))) (late true false)) (some n)

def execLddAcq (h : Hdr) (o : LEmem) (s : State) : Answer :=
  issued (.lddAcq h o) s fun s => devAccess s o needRead false false fun off => launchVar s (varOf s h o off .acquire)

/-- The phase a core's next store belongs to (R109, R110). DEDUCED (log 15). -/
def Seat.phase (p : Seat) : Nat := p.boundary + p.arrivals.length

/-- Pending stores a core may hold (R313). -/
def maxPending : Nat := 65536

/-- A plain store is pending from its issue; its page is looked up then, and a refused one is a failure (R65, R313). DI is set then too, and stays set where the store is later discarded: the manual says only that it is set before the write is visible (R75). The page of one of a TICK group is looked up when its boundary publishes it (R108, R374). DEDUCED (log 15). DEDUCED (log 26). DESIGN CHOICE (log 41). -/
def execStd (h : Hdr) (o : LEmem) (s : State) : Answer :=
  issued (.std h o) s fun s => devAccess s o needWrite false false fun off =>
    if maxPending ≤ s.core.dev.pend.length then devTrap s 0x11 o.x.toNat off
    else
      let r := if s.core.pipe.ticks then (.ok [], s) else access s s.core o.x.toNat off (accessBytes o) needWrite
      let p := fun (q : Option Nat) =>
        ({ seq := s.core.pipe.seq, phase := s.core.seat.phase, x := o.x.toNat, off := off, bytes := leBytes (accessBytes o) (s.core.sreg o.a.toNat).toNat, req := q } : PendStore)
      let put := fun (q : Option Nat) => r.2.onCore fun c => { c with dev := { c.dev with pend := c.dev.pend ++ [p q] } }
      match r.1 with
      | .error (.refused d) => .ok (addFailure { seq := s.core.pipe.seq, cause := 0x0E, detail := d, tval := xoWord o.x.toNat off, sb := none } r.2 s.core.seat.cid) (some 1)
      | .error (.request q) => .ok (put (some q)) (some 1)
      | _ => .ok (put none) (some 1)

def execStdRel (h : Hdr) (o : LEmem) (s : State) : Answer :=
  issued (.stdRel h o) s fun s => devAccess s o needWrite false false fun off => launchVar s (varOf s h o off .release)

/-- An atomic of 4 or 8 bytes. -/
def atomic (i : Instr) (h : Hdr) (o : LEmem) (sub : Nat) (s : State) : Answer :=
  issued i s fun s => devAccess s o needAtomic false true fun off => launchVar s (varOf s h o off (.atom sub))

def execAtomAdd (h : Hdr) (o : LEmem) (s : State) : Answer := atomic (.atomAdd h o) h o 0 s
def execAtomAnd (h : Hdr) (o : LEmem) (s : State) : Answer := atomic (.atomAnd h o) h o 1 s
def execAtomOr (h : Hdr) (o : LEmem) (s : State) : Answer := atomic (.atomOr h o) h o 2 s
def execAtomXor (h : Hdr) (o : LEmem) (s : State) : Answer := atomic (.atomXor h o) h o 3 s
def execAtomMin (h : Hdr) (o : LEmem) (s : State) : Answer := atomic (.atomMin h o) h o 4 s
def execAtomMax (h : Hdr) (o : LEmem) (s : State) : Answer := atomic (.atomMax h o) h o 5 s
def execAtomSwp (h : Hdr) (o : LEmem) (s : State) : Answer := atomic (.atomSwp h o) h o 6 s
def execAtomCas (h : Hdr) (o : LEmem) (s : State) : Answer := atomic (.atomCas h o) h o 7 s

def execCas128 (h : Hdr) (o : LEmem) (s : State) : Answer :=
  issued (.cas128 h o) s fun s => devAccess s o needAtomic false true fun off => launchVar s (varOf s h o off .cas128)

end Sys2Proof.Machine
end

