-- ==== Sys2Proof/Machine/Vector.lean ====
section
/-! DEFINITION. Class V: arithmetic, logic, shifts, compares, moves and masks (R257 to R271). -/
namespace Sys2Proof.Machine

/-- A vector result of lane words that lands n cycles after issue. -/
def landV (s : State) (n d : Nat) (ls : List Nat) (f : Nat → Lane) : Res := .ok (s.fly n (.vecs (s.core.laneWrites d ls f))) (some n)

/-- The lane words of a list of lanes with exact element results, fitted once each (R259). -/
def fitLanes (f : Fmt) (q : QFmt) (mode : Nat) (vals : Nat → List Val) : List Nat → Store 32 → List (Nat × Lane) × Store 32
  | [], gen => ([], gen)
  | L :: ls, gen =>
    let r := roundList f q mode f.isIntLike L (vals L) gen
    let t := fitLanes f q mode vals ls r.2
    ((L, packElems (f.slotBits q) r.1) :: t.1, t.2)

/-- A vector result of exact element results. -/
def landFitted (s : State) (h : Hdr) (o : LReg) (n : Nat) (vals : Nat → List Val) : Res :=
  let q := s.core.q
  let r := fitLanes (hFmt h) q (hMode h) vals (s.core.active h o.km) s.core.regs.gen
  let s := s.onCore fun c => { c with regs := { c.regs with gen := r.2 } }
  .ok (s.fly n (.vecs (r.1.map fun x => (vkey (x.1 / 16) (physV s.core.sys.rotw o.d.toNat) (x.1 % 16), x.2)))) (some n)

/-- Codes of the elements of a lane word under the syllable's format. -/
def codesOf (s : State) (h : Hdr) (x : Lane) : List Nat := elemsOf ((hFmt h).slotBits s.core.q) x

/-- Decoded elements of a lane word under the syllable's format. -/
def valsOf (s : State) (h : Hdr) (x : Lane) : List Val := (codesOf s h x).map (decodeElem (hFmt h) s.core.q)

/-! ### Arithmetic (R260, R261) -/

/-- An element-by-element operation on vA and B. -/
def vecArith (i : Instr) (h : Hdr) (o : LReg) (n : Nat) (f : Val → Val → Val) (s : State) : Answer :=
  issued i s fun s => landFitted s h o n fun L => ((valsOf s h (s.core.vlane o.a.toNat L)).zip (valsOf s h (s.core.blane o L))).map fun p => f p.1 p.2

def execVAdd (h : Hdr) (o : LReg) (s : State) : Answer := vecArith (.vAdd h o) h o 2 Val.add s
def execVSub (h : Hdr) (o : LReg) (s : State) : Answer := vecArith (.vSub h o) h o 2 Val.sub s
def execVMul (h : Hdr) (o : LReg) (s : State) : Answer := vecArith (.vMul h o) h o 4 Val.mul s
def execAbsd (h : Hdr) (o : LReg) (s : State) : Answer := vecArith (.absd h o) h o 2 (fun a b => (a.sub b).abs) s

/-- A fused operation on vA, B and vC. -/
def vecFused (i : Instr) (h : Hdr) (o : LReg) (f : Val → Val → Val) (s : State) : Answer :=
  issued i s fun s => landFitted s h o 4 fun L =>
    (((valsOf s h (s.core.vlane o.a.toNat L)).zip (valsOf s h (s.core.blane o L))).zip (valsOf s h (s.core.vlane o.c.toNat L))).map fun p => f (p.1.1.mul p.1.2) p.2

def execFma (h : Hdr) (o : LReg) (s : State) : Answer := vecFused (.fma h o) h o Val.add s
def execFms (h : Hdr) (o : LReg) (s : State) : Answer := vecFused (.fms h o) h o Val.sub s

/-- An operation on the codes of vA and B that fits nothing. -/
def vecCodes (i : Instr) (h : Hdr) (o : LReg) (n : Nat) (f : State → Nat → Nat → Nat) (s : State) : Answer :=
  issued i s fun s => landV s n o.d.toNat (s.core.active h o.km) fun L =>
    packElems ((hFmt h).slotBits s.core.q) (((codesOf s h (s.core.vlane o.a.toNat L)).zip (codesOf s h (s.core.blane o L))).map fun p => f s p.1 p.2)

/-- The high half of an integer product. -/
def mulHigh (f : Fmt) (q : QFmt) (a b : Nat) : Nat := lowBits (f.slotBits q) (floorDiv (readInt f q a * readInt f q b) (2 ^ f.slotBits q))

def execVMulh (h : Hdr) (o : LReg) (s : State) : Answer := vecCodes (.vMulh h o) h o 4 (fun s a b => mulHigh (hFmt h) s.core.q a b) s
def execVMin (h : Hdr) (o : LReg) (s : State) : Answer := vecCodes (.vMin h o) h o 2 (fun s a b => minMaxCode (hFmt h) s.core.q false a b) s
def execVMax (h : Hdr) (o : LReg) (s : State) : Answer := vecCodes (.vMax h o) h o 2 (fun s a b => minMaxCode (hFmt h) s.core.q true a b) s

/-- ABS and NEG: the sign bit of a float format, fitted integers otherwise (R260). -/
def vecSign (i : Instr) (h : Hdr) (o : LReg) (code : Nat → Nat → Nat) (f : Val → Val) (s : State) : Answer :=
  issued i s fun s =>
    let fm := hFmt h
    if fm.isIntLike then landFitted s h o 2 fun L => (valsOf s h (s.core.vlane o.a.toNat L)).map f
    else
      let w := fm.slotBits s.core.q
      landV s 2 o.d.toNat (s.core.active h o.km) fun L => packElems w ((codesOf s h (s.core.vlane o.a.toNat L)).map fun c =>
        if (decodeElem fm s.core.q c).isNan then nanCode fm else code (2 ^ (w - 1)) c)

def execAbs (h : Hdr) (o : LReg) (s : State) : Answer := vecSign (.abs h o) h o (fun m c => c % m) Val.abs s
def execNeg (h : Hdr) (o : LReg) (s : State) : Answer := vecSign (.neg h o) h o (fun m c => if c < m then c + m else c - m) Val.negate s

/-! ### Logic, shifts, counts (R262 to R264) -/

/-- A lane-word operation on vA and B. -/
def vecWords (i : Instr) (h : Hdr) (o : LReg) (f : Lane → Lane → Lane) (s : State) : Answer :=
  issued i s fun s => landV s 2 o.d.toNat (s.core.active h o.km) fun L => f (s.core.vlane o.a.toNat L) (s.core.blane o L)

def execVAnd (h : Hdr) (o : LReg) (s : State) : Answer := vecWords (.vAnd h o) h o (fun a b => a &&& b) s
def execVOr (h : Hdr) (o : LReg) (s : State) : Answer := vecWords (.vOr h o) h o (fun a b => a ||| b) s
def execVXor (h : Hdr) (o : LReg) (s : State) : Answer := vecWords (.vXor h o) h o (fun a b => a ^^^ b) s
def execVAndn (h : Hdr) (o : LReg) (s : State) : Answer := vecWords (.vAndn h o) h o (fun a b => a &&& ~~~b) s

/-- A shift of each element by the low 8 bits of the same element of B. -/
def vecShift (i : Instr) (h : Hdr) (o : LReg) (f : Nat → Nat → Nat → Nat) (s : State) : Answer :=
  vecCodes i h o 2 (fun s a b => f ((hFmt h).slotBits s.core.q) a (b % 256)) s

def execVShl (h : Hdr) (o : LReg) (s : State) : Answer := vecShift (.vShl h o) h o shiftLeft s
def execVShr (h : Hdr) (o : LReg) (s : State) : Answer := vecShift (.vShr h o) h o shiftRight s
def execVSra (h : Hdr) (o : LReg) (s : State) : Answer := vecShift (.vSra h o) h o shiftArith s

/-- A count on each element. -/
def vecCount (i : Instr) (h : Hdr) (o : LReg) (f : Nat → Nat → Nat) (s : State) : Answer :=
  issued i s fun s =>
    let w := (hFmt h).slotBits s.core.q
    landV s 2 o.d.toNat (s.core.active h o.km) fun L => packElems w ((codesOf s h (s.core.vlane o.a.toNat L)).map (f w))

def execVClz (h : Hdr) (o : LReg) (s : State) : Answer := vecCount (.vClz h o) h o leadingZeros s
def execVPopc (h : Hdr) (o : LReg) (s : State) : Answer := vecCount (.vPopc h o) h o popCount s

/-! ### Compare, select, moves (R265 to R270) -/

/-- A mask of lanes as 128 bits. -/
def laneMask (ls : List Nat) : BitVec 128 := BitVec.ofNat 128 ((ls.map fun L => 2 ^ L).foldl (· + ·) 0)

/-- A mask result at +2: bit L of the given lanes. -/
def landK (s : State) (d : Nat) (ls : List Nat) (p : Nat → Bool) : Res := .ok (s.fly 2 (.kbits d (laneMask ls) (laneMask (ls.filter p)))) (some 2)

def execVCmp (h : Hdr) (o : LReg) (s : State) : Answer :=
  issued (.vCmp h o) s fun s =>
    let code := o.sub.toNat % 8
    landK s o.d.toNat (s.core.active h o.km) fun L =>
      let cs := ((valsOf s h (s.core.vlane o.a.toNat L)).zip (valsOf s h (s.core.blane o L))).map fun p => condVal code p.1 p.2
      if 8 ≤ o.sub.toNat then cs.any id else cs.all id

def execVSel (h : Hdr) (o : LReg) (s : State) : Answer :=
  issued (.vSel h o) s fun s => landV s 2 o.d.toNat (s.core.active h o.km) fun L => if (s.core.kreg o.c.toNat).getLsbD L then s.core.vlane o.a.toNat L else s.core.blane o L

def execMov (h : Hdr) (o : LReg) (s : State) : Answer :=
  issued (.mov h o) s fun s => landV s 2 o.d.toNat (s.core.active h o.km) fun L => if o.bsel.toNat = 0 then s.core.vlane o.a.toNat L else s.core.bcommon o

/-- The element index x of R268, counted within a cluster of elements n per lane word. -/
def elemIndex (c : StreamCore) (o : LReg) (n : Nat) : Nat :=
  if o.bsel.toNat = 2 then bits o.imm.toNat 5 0 else (c.sreg o.b.toNat).toNat % (16 * n)

/-- Element x of a cluster of a vector register. -/
def StreamCore.elem (c : StreamCore) (r cl w x : Nat) : Nat :=
  let n := 32 / w
  nth (elemsOf w (c.vlane r (16 * cl + x / n))) (x % n) 0

def execBcast (h : Hdr) (o : LReg) (s : State) : Answer :=
  issued (.bcast h o) s fun s =>
    let w := (hFmt h).slotBits s.core.q
    let x := elemIndex s.core o (32 / w)
    landV s 2 o.d.toNat (s.core.active h o.km) fun L => packElems w (List.replicate (32 / w) (s.core.elem o.a.toNat (L / 16) w x))

def execExtr (h : Hdr) (o : LReg) (s : State) : Answer :=
  issued (.extr h o) s fun s =>
    let w := (hFmt h).slotBits s.core.q
    let sg := match hFmt h with
      | .int _ sg => sg
      | _ => false
    landS s 3 o.d.toNat (ext64 w sg (s.core.elem o.a.toNat (hCluster h) w (elemIndex s.core o (32 / w))))

def execIns (h : Hdr) (o : LReg) (s : State) : Answer :=
  issued (.ins h o) s fun s =>
    let w := (hFmt h).slotBits s.core.q
    let n := 32 / w
    let x := elemIndex s.core o n
    let at_ := w * (x % n)
    let ws := (hClusters h).map fun cl =>
      (vkey cl (physV s.core.sys.rotw o.d.toNat) (x / n), BitVec.ofNat 32 ((2 ^ w - 1) * 2 ^ at_), BitVec.ofNat 32 ((s.core.sreg o.a.toNat).toNat % 2 ^ w * 2 ^ at_))
    .ok (s.fly 2 (.vecBits ws)) (some 2)

/-- The source lane within the cluster, or none for a zero (R269). -/
def permSource (sub : Nat) (idx : Lane) (n j : Nat) : Option Nat :=
  match sub with
  | 0 => some (idx.toNat % 16)
  | 1 => some ((j + n) % 16)
  | 2 => if j + n < 16 then some (j + n) else none
  | _ => if n ≤ j then some (j - n) else none

def execPerm (h : Hdr) (o : LReg) (s : State) : Answer :=
  issued (.perm h o) s fun s => landV s 2 o.d.toNat (s.core.active h o.km) fun L =>
    match permSource o.sub.toNat (s.core.blane o L) (s.core.bcommon o).toNat (L % 16) with
    | some j => s.core.vlane o.a.toNat (16 * (L / 16) + j)
    | none => 0

def execIota (h : Hdr) (o : LReg) (s : State) : Answer :=
  issued (.iota h o) s fun s =>
    let n := (hFmt h).perLane s.core.q
    let base := readInt (hFmt h) s.core.q (s.core.bcommon o).toNat
    landFitted s h o 2 fun L => (List.range n).map fun e => Val.ofInt (base + (n * L + e : Nat))

/-! ### Masks (R271) -/

/-- A mask operation on the lanes of the masked clusters. -/
def maskOp (i : Instr) (h : Hdr) (o : LReg) (f : Bool → Bool → Bool) (s : State) : Answer :=
  issued i s fun s => landK s o.d.toNat (hLanes h) fun L => f ((s.core.kreg o.a.toNat).getLsbD L) ((s.core.kreg o.b.toNat).getLsbD L)

def execKand (h : Hdr) (o : LReg) (s : State) : Answer := maskOp (.kand h o) h o (fun a b => a && b) s
def execKor (h : Hdr) (o : LReg) (s : State) : Answer := maskOp (.kor h o) h o (fun a b => a || b) s
def execKxor (h : Hdr) (o : LReg) (s : State) : Answer := maskOp (.kxor h o) h o (fun a b => a != b) s
def execKnot (h : Hdr) (o : LReg) (s : State) : Answer := maskOp (.knot h o) h o (fun a _ => !a) s

def execKpopc (h : Hdr) (o : LReg) (s : State) : Answer :=
  issued (.kpopc h o) s fun s => landS s 2 o.d.toNat (BitVec.ofNat 64 ((hLanes h).filter fun L => (s.core.kreg o.a.toNat).getLsbD L).length)

def execKtail (h : Hdr) (o : LReg) (s : State) : Answer :=
  issued (.ktail h o) s fun s =>
    let n := s.core.bnat o
    landK s o.d.toNat (hLanes h) fun L => decide ((if o.sub.toNat = 0 then L else L % 16) < n)

end Sys2Proof.Machine
end

