-- ==== Sys2Proof/Machine/Special.lean ====
section
/-! DEFINITION. Class F: the special functions (R272 to R274). A function's exact value is computed to far more than the precision of any destination; for f16 and bf16 that value is rounded. For f32 the manual fixes a bound, and the result is the value of `Config.special` where that lies within the bound (log 10). -/
namespace Sys2Proof.Machine

/-! ### Fixed-point arithmetic with 256 fraction bits -/

def fixOne : Nat := 2 ^ 256
/-- ln 2, π, log2 e and 2 / √π. -/
def fixLn2 : Nat := 80260960185991308862233904206310070533990667611589946606122867505419956976171
def fixPi : Nat := 363771576891766324280234942777729862653393377328392429958772151117938894466185
def fixLog2e : Nat := 167052672916848388242985626561247531987276682633131050150846402744536260568207
def fixErf : Nat := 130657381209852114387528029350014196574164286124850014242073919076264802271585

/-- floor(x × 2^256) of a magnitude n / d × 2^e. -/
def toFix (n d : Nat) (e : Int) : Nat := n * 2 ^ (e + 256).toNat / (d * 2 ^ (-(e + 256)).toNat)

/-- A fixed-point magnitude as an exact value. -/
def ofFix (neg : Bool) (x : Nat) : Val := .num neg x 1 (-256)

/-- Sum of a series whose term k + 1 is term k × step k; `part` is what a term contributes. -/
def series (step : Nat → Int → Int) (part : Nat → Int → Int) : Nat → Nat → Int → Int
  | 0, _, _ => 0
  | n + 1, k, t => part k t + series step part n (k + 1) (step k t)

def fixMul (a b : Int) : Int := a * b / (fixOne : Int)

/-- e^t for 0 ≤ t < 1. -/
def fixExp (t : Nat) : Nat := (series (fun k x => fixMul x t / (k + 1 : Nat)) (fun _ x => x) 70 0 fixOne).toNat

/-- ln m for 1 ≤ m < 2. -/
def fixLn (m : Nat) : Int :=
  let z := (m - fixOne) * fixOne / (m + fixOne)
  2 * series (fun _ x => fixMul (fixMul x z) z) (fun k x => x / (2 * k + 1 : Nat)) 90 0 z

/-- sin(π y) / (π y) from the square of π y. -/
def fixSinc (t : Nat) : Nat := (series (fun k x => -(fixMul x t) / ((2 * k + 2) * (2 * k + 3) : Nat)) (fun _ x => x) 45 0 fixOne).toNat

/-- cos(π y) from the square of π y. -/
def fixCos (t : Nat) : Nat := (series (fun k x => -(fixMul x t) / ((2 * k + 1) * (2 * k + 2) : Nat)) (fun _ x => x) 45 0 fixOne).toNat

/-! ### The functions -/

/-- 2^x. Beyond ±16384 the result overflows, or rounds to zero, in every format. -/
def exp2Of : Val → Val
  | .num neg n d e =>
    let x : Int := if 16384 * d < n * 2 ^ (min e 40).toNat / 2 ^ (-e).toNat then 16384 * (fixOne : Int) else toFix n d e
    let x := if neg then -x else x
    let k := x / (fixOne : Int)
    .num false (fixExp (fixMul (x - k * (fixOne : Int)) fixLn2).toNat) 1 (k - 256)
  | v => v

/-- log2 of a positive value. -/
def log2Of : Val → Val
  | .num _ n d e =>
    let l := ilog2 n d
    let frac := fixLn (toFix n d (-l)) * (fixOne : Int) / (fixLn2 : Int)
    let x : Int := (l + e) * (fixOne : Int) + frac
    ofFix (decide (x < 0)) x.natAbs
  | v => v

/-- Integer square root, by its bits from bit k - 1 down. -/
def isqrtFrom (n : Nat) : Nat → Nat → Nat
  | 0, r => r
  | k + 1, r => isqrtFrom n k (if (r + 2 ^ k) * (r + 2 ^ k) ≤ n then r + 2 ^ k else r)

def isqrt (n : Nat) : Nat := isqrtFrom n (n.log2 / 2 + 1) 0

/-- √(n / d × 2^e), and whether it is exact; an inexact root carries a lower bit that stands for the rest. -/
def sqrtOf (n d : Nat) (e : Int) : Val × Bool :=
  let n := if e % 2 = 0 then n else 2 * n
  let e := e - e % 2
  let m := n * 2 ^ 512 / d
  let r := isqrt m
  if r * r = m && n * 2 ^ 512 % d == 0 then (.num false r 1 (e / 2 - 256), true) else (.num false (2 * r + 1) 1 (e / 2 - 257), false)

/-- sin(π y) for a fixed-point y from 0 to 1/2. -/
def sinPart (y : Nat) : Val :=
  let sq := fun (y : Nat) => (fixMul (fixMul fixPi y) (fixMul fixPi y)).toNat
  if 4 * y ≤ fixOne then .num false (y * fixPi * fixSinc (sq y)) 1 (-768) else ofFix false (fixCos (sq (fixOne / 2 - y)))

/-- sin(π y) for a fixed-point y of at least 0. -/
def sinTurn (y : Nat) : Val :=
  let y := y % (2 * fixOne)
  let neg := decide (fixOne ≤ y)
  let y := y % fixOne
  let v := sinPart (if fixOne < 2 * y then fixOne - y else y)
  if neg then v.negate else v

def sinOf : Val → Val
  | .num neg n d e =>
    let v := if ilog2 n d + e < -100 then Val.num false (n * fixPi) d (e - 256) else sinTurn (toFix n d e)
    if neg then v.negate else v
  | v => v

def cosOf : Val → Val
  | .num _ n d e => sinTurn (toFix n d e + fixOne / 2)
  | v => v

/-- The greatest fixed-point value below one, with a sign: a result that no format tells from its bound. -/
def belowOne (neg : Bool) : Val := ofFix neg (fixOne - 1)

/-- erf x; from 6 on it lies less than 2^−50 below one. -/
def erfOf : Val → Val
  | .num neg n d e =>
    if 2 < ilog2 n d + e || (ilog2 n d + e == 2 && 6 * fixOne ≤ toFix n d e) then belowOne neg
    else
      let x := toFix n d e
      let t := fixMul x x
      let sum := (series (fun k y => -(fixMul y t) / (k + 1 : Nat)) (fun k y => y / (2 * k + 1 : Nat)) 260 0 fixOne).toNat
      .num neg (n * fixErf * sum) d (e - 512)
  | v => v

/-- e^x. -/
def expOf (x : Val) : Val := exp2Of (x.mul (.num false fixLog2e 1 (-256)))

/-- tanh x; from 64 on it lies less than 2^−150 below one. -/
def tanhOf (x : Val) : Val :=
  match x with
  | .num neg n d e =>
    if 6 ≤ ilog2 n d + e then belowOne neg
    else
      let a := expOf (.num false n d (e + 1))
      let v := (a.sub Val.one).div (a.add Val.one)
      if neg then v.negate else v
  | v => v

/-- The logistic sigmoid. -/
def sigmOf (x : Val) : Val := Val.one.div (Val.one.add (expOf x.negate))

/-- The special functions by opcode (R272). -/
inductive Special where
  | exp2
  | log2
  | rcp
  | rsqrt
  | sqrt
  | tanh
  | sigm
  | erf
  | sin
  | cos
deriving DecidableEq, Repr

/-- OPCODE of class F. -/
def Special.opc : Special → Nat
  | .exp2 => 0
  | .log2 => 1
  | .rcp => 2
  | .rsqrt => 3
  | .sqrt => 4
  | .tanh => 5
  | .sigm => 6
  | .erf => 7
  | .sin => 8
  | .cos => 9

/-- Twice a finite value, when that is an integer: its parity follows. -/
def twiceInt (n d : Nat) (e : Int) : Option Nat :=
  let num := n * 2 ^ (e + 1).toNat
  let den := d * 2 ^ (-(e + 1)).toNat
  if num % den = 0 then some (num / den) else none

/-- The results R273 names. -/
def Special.named (f : Special) (x : Val) : Option Val :=
  let half := Val.num false 1 1 (-1)
  let zero := fun neg => Val.num neg 0 1 0
  match x with
  | .nan => some .nan
  | .inf neg =>
    some (match f with
    | .exp2 => if neg then zero false else .inf false
    | .rcp => zero neg
    | .rsqrt => if neg then .nan else zero false
    | .tanh => .num neg 1 1 0
    | .erf => .num neg 1 1 0
    | .sigm => if neg then zero false else Val.one
    | .sin => .nan
    | .cos => .nan
    | _ => if neg then .nan else .inf false)
  | .num neg 0 _ _ =>
    some (match f with
    | .exp2 => Val.one
    | .log2 => .inf true
    | .rcp => .inf neg
    | .rsqrt => .inf neg
    | .sigm => half
    | .cos => Val.one
    | _ => zero neg)
  | .num neg n d e =>
    match f with
    | .log2 => if neg then some .nan else none
    | .rsqrt => if neg then some .nan else none
    | .sqrt => if neg then some .nan else none
    | .sin => match twiceInt n d e with
      | some k => if k % 2 = 0 then some (zero neg) else none
      | none => none
    | .cos => match twiceInt n d e with
      | some k => if k % 2 = 1 then some (zero false) else some (.num (decide (k / 2 % 2 = 1)) 1 1 0)
      | none => none
    | _ => none

/-- The exact value of a function, and whether it is known to be that value itself. DESIGN CHOICE (log 10). -/
def Special.value (f : Special) (x : Val) : Val × Bool :=
  match x with
  | .num _ n d e =>
    (match f with
    | .exp2 => (exp2Of x, match twiceInt n d e with
        | some k => k % 2 == 0
        | none => false)
    | .log2 => (log2Of x, n * 1 == d * 2 ^ (ilog2 n d).toNat || n * 2 ^ (-(ilog2 n d)).toNat == d)
    | .rcp => (Val.one.div x, (roundMag 24 (-149) .nearest d n (-e)).2.2)
    | .rsqrt => sqrtOf d n (-e)
    | .sqrt => ((sqrtOf n d e).1, true)
    | .tanh => (tanhOf x, false)
    | .sigm => (sigmOf x, false)
    | .erf => (erfOf x, false)
    | .sin => (sinOf x, match twiceInt n d e with
        | some _ => true
        | none => false)
    | .cos => (cosOf x, false))
  | v => (v, true)

/-- Does a result for a negative finite argument have the sign, or lie in the range, that R273 gives it? A zero of that sign, and 0.5 for SIGM, count as within the range: R273's words are of the exact result. DEDUCED (log 10). -/
def Special.signOk (f : Special) (x v c : Val) : Bool :=
  match f with
  | .sin => true
  | .cos => true
  | .sigm => !x.neg? || (!c.neg? && !((Val.num false 1 1 (-1)).ltb c))
  | _ => !x.neg? || c.neg? == v.neg?

/-- Is an f32 result within the bound of R274, with the sign R273 gives it? DESIGN CHOICE (log 10). -/
def Special.within (f : Special) (x v : Val) (cand : Nat) : Bool :=
  let c := f32Val cand
  f.signOk x v c &&
  let near := fun (n : Nat) (e : Int) => !c.isNan && !c.isInf && !((Val.num false n 1 e).ltb (c.sub v).abs)
  match v with
  | .num _ n d e =>
    let ulp := max (ilog2 n d + e - 23) (-149)
    (match f with
    | .sqrt => false
    | .rcp => near 1 ulp
    | .rsqrt => near 1 ulp
    | .log2 => if !(x.ltb (.num false 1 1 (-1))) && !((Val.num false 2 1 0).ltb x) then near 1 (-22) else near 2 ulp
    | .sin => near 1 (-22)
    | .cos => near 1 (-22)
    | _ => near 2 ulp)
  | _ => false

/-- The result of a function on one element (R272 to R274). DESIGN CHOICE (log 10). -/
def Special.elem (f : Special) (fm : Fmt) (mode c : Nat) : Nat :=
  let x := decodeElem fm q8 c
  match f.named x with
  | some v => fitVal fm q8 mode 0 false v
  | none =>
    let r := f.value x
    let code := fitVal fm q8 mode 0 false r.1
    if fm == .f32 && !r.2 && !(f32Val (f32Of false r.1)).isInf then
      let cand := (Config.special f.opc (BitVec.ofNat 32 c) (mode == 1)).toNat
      if f.within x r.1 cand then cand else code
    else code

/-! ### Meanings -/

/-- vD = f vA, at +8. -/
def vecSpecial (f : Special) (i : Instr) (h : Hdr) (o : LReg) (s : State) : Answer :=
  issued i s fun s =>
    let w := (hFmt h).slotBits s.core.q
    landV s 8 o.d.toNat (s.core.active h o.km) fun L => packElems w ((codesOf s h (s.core.vlane o.a.toNat L)).map fun c => f.elem (hFmt h) (hMode h) c)

def execExp2 (h : Hdr) (o : LReg) (s : State) : Answer := vecSpecial .exp2 (.exp2 h o) h o s
def execLog2 (h : Hdr) (o : LReg) (s : State) : Answer := vecSpecial .log2 (.log2 h o) h o s
def execRcp (h : Hdr) (o : LReg) (s : State) : Answer := vecSpecial .rcp (.rcp h o) h o s
def execRsqrt (h : Hdr) (o : LReg) (s : State) : Answer := vecSpecial .rsqrt (.rsqrt h o) h o s
def execSqrt (h : Hdr) (o : LReg) (s : State) : Answer := vecSpecial .sqrt (.sqrt h o) h o s
def execTanh (h : Hdr) (o : LReg) (s : State) : Answer := vecSpecial .tanh (.tanh h o) h o s
def execSigm (h : Hdr) (o : LReg) (s : State) : Answer := vecSpecial .sigm (.sigm h o) h o s
def execErf (h : Hdr) (o : LReg) (s : State) : Answer := vecSpecial .erf (.erf h o) h o s
def execSin (h : Hdr) (o : LReg) (s : State) : Answer := vecSpecial .sin (.sin h o) h o s
def execCos (h : Hdr) (o : LReg) (s : State) : Answer := vecSpecial .cos (.cos h o) h o s

end Sys2Proof.Machine
end

