-- ==== Sys2Proof/Machine/EngineData.lean ====
section
/-! DEFINITION. What the decode-attention and seam engines compute from the bytes they read (R77 to R79, R318 to R324). -/
namespace Sys2Proof.Machine

/-! ### Bytes read so far -/

/-- Key of a byte of a space: an extent (0 to 15) or the scratchpad (16). -/
def byteKey (sp off : Nat) : Nat := sp * 2 ^ 64 + off

/-- The first byte of a range in each aligned 64-byte unit that it meets (R42, R104). DEDUCED (log 31). -/
def unitsOf (sp off n : Nat) : List Nat :=
  if n = 0 then [] else (List.range ((off + n - 1) / 64 + 1 - off / 64)).map fun i => max (byteKey sp off) (64 * (byteKey sp off / 64 + i))

/-- A command's reads so far, and the scratchpad tiles it may touch (R421). -/
structure Got where
  seen : List Nat
  bytes : Store 8
  tiles : List Nat

def Got.read (g : Got) (sp off n : Nat) : List Byte := (List.range n).map fun i => g.bytes.get (byteKey sp (off + i))

/-- The outcome of a computation over what has been read: a value, units still to read (each by its first byte that is needed), or an error. -/
inductive Take (α : Type) where
  | ok (a : α)
  | need (us : List Nat)
  | fail (e : CmdError)

def Take.bind {α β : Type} (t : Take α) (f : α → Take β) : Take β :=
  match t with
  | .ok a => f a
  | .need us => .need us
  | .fail e => .fail e

/-- Several computations side by side: every unit any of them needs, then the first error, then the values. -/
def collect {α : Type} (ts : List (Take α)) : Take (List α) :=
  match ts.flatMap fun t => (match t with
    | .need us => us
    | _ => []) with
  | [] => ts.foldr (fun t r => t.bind fun a => r.bind fun l => .ok (a :: l)) (.ok [])
  | us => .need us.eraseDups

def failWith {α : Type} (code d0 d1 : Nat) : Take α := .fail { code := code, d0 := d0, d1 := d1 }

/-- Bytes once their units have been read. -/
def Got.take (g : Got) (sp off n : Nat) : Take (List Byte) :=
  let us := unitsOf sp off n
  match us.filter fun b => !g.seen.contains (b / 64) && (sp != 16 || g.tiles.contains (b % 2 ^ 64 / 4096)) with
  | [] => .ok (g.read sp off n)
  | us => .need us

/-- Bytes of an extent, after the checks of R62 that an engine makes of a range it has learned (R326). -/
def Got.device (g : Got) (c : StreamCore) (x : Nat) (off : Int) (n : Nat) : Take (List Byte) :=
  match rangeCheck c x off n needRead false with
  | some _ => failWith 15 x (lowBits 48 off)
  | none => g.take x off.toNat n

/-- Bytes of the scratchpad. -/
def Got.scratch (g : Got) (e n : Nat) : Take (List Byte) := if spBytes < e + n then failWith 2 e 0 else g.take 16 e n

/-! ### Arithmetic in f32 -/

/-- Round to f32, nearest with ties to even. -/
def rne (v : Val) : Val := f32Val (f32Of false v)

/-- f32 code of a value. -/
def codeOf (v : Val) : Nat := f32Of false v

/-- The least integer not below a finite value. -/
def ceilVal : Val → Int
  | .num neg n d e =>
    let a := n * 2 ^ e.toNat
    let b := d * 2 ^ (-e).toNat
    if neg then -((a / b : Nat) : Int) else ((a + b - 1) / b : Nat)
  | _ => 0

/-- The f32 special function (R272). -/
def special32 (f : Special) (v : Val) : Val := f32Val (f.elem .f32 0 (codeOf v))

/-! ### ADEC (R318, R319) -/

/-- The fields of an ADEC descriptor. -/
structure Adec where
  poolx : Nat
  tabx : Nat
  taboff : Nat
  pstride : Nat
  tok0 : Nat
  ntok : Nat
  hd : Nat
  rows : Nat
  qrec : Nat
  qoff : Nat
  scale : Nat

def adecOf (n : Nat) : Adec :=
  { poolx := bits n 511 508, tabx := bits n 507 504, taboff := bits n 503 456, pstride := bits n 455 408, tok0 := bits n 407 376, ntok := bits n 375 344
    hd := 32 * (bits n 343 341 + 1), rows := bits n 340 337 + 1, qrec := bits n 336 329, qoff := bits n 328 306, scale := bits n 305 274 }

/-- Is a field of the descriptor out of its range? -/
def adecBad (c : StreamCore) (n : Nat) : Bool :=
  let a := adecOf n
  a.taboff % 64 != 0 || a.pstride % 64 != 0 || decide (a.pstride < 132 * a.hd) || a.ntok == 0 || decide (2 ^ 31 < a.ntok) || bits n 273 0 != 0 || recKind (c.entry a.qrec) != 1

/-- Page lookup through a block table and at most four ancestors (R78, R79). A header with a reserved bit set, or a PARENT that is no multiple of 64, is read as it stands: the manual gives no outcome for either (R77). DESIGN CHOICE (log 31). -/
def kvLookup (g : Got) (c : StreamCore) (x b : Nat) : Nat → Int → Take Nat
  | hops, at_ =>
    let va := lowBits 80 ((c.dev.extent x).base + at_)
    (g.device c x at_ 64).bind fun h =>
      let t := leNat h
      let entry := if b < bits t 399 368 then (g.device c x (at_ + 64 + 4 * b) 4).bind fun w => .ok (leNat w) else .ok 0
      entry.bind fun w =>
        if bit w 31 then .ok (bits w 30 0)
        else if bits t 511 432 = 0 || bits t 431 400 ≤ b then failWith 6 b va
        else match hops with
          | 0 => failWith 7 b va
          | n + 1 => kvLookup g c x b n ((bits t 511 432 : Nat) - ((c.dev.extent x).base : Int))

/-- What a token contributes: K elements, K scales, V elements, V scales. -/
structure KvToken where
  k : List Byte
  ks : List Byte
  v : List Byte
  vs : List Byte

/-- Read one token's row of its page. -/
def kvToken (g : Got) (c : StreamCore) (a : Adec) (t : Nat) : Take KvToken :=
  (kvLookup g c a.tabx (t / 64) 4 a.taboff).bind fun page =>
    let at_ := page * a.pstride
    match rangeCheck c a.poolx at_ (132 * a.hd) needRead false with
    | some _ => failWith 15 a.poolx (at_ % 2 ^ 48)
    | none =>
      let i := t % 64
      let get := fun off n => g.take a.poolx (at_ + off) n
      (collect [get (i * a.hd) a.hd, get (64 * a.hd + i * (a.hd / 32)) (a.hd / 32), get (66 * a.hd + i * a.hd) a.hd, get (130 * a.hd + i * (a.hd / 32)) (a.hd / 32)]).bind fun l =>
        .ok { k := nth l 0 [], ks := nth l 1 [], v := nth l 2 [], vs := nth l 3 [] }

/-- Element × block scale of an MXINT8 row (R87, R88). -/
def kvVal (es ss : List Byte) (d : Nat) : Val :=
  match scaleExp (nth ss (d / 32) 0) with
  | some p => (decodeElem (.mx .i8) q8 (nth es d 0).toNat).scale p
  | none => .nan

/-- A row's state: reference exponent once a finite logit has been met, accumulators, sum of weights, and whether a logit was NaN or +∞. -/
structure RowAcc where
  ref : Option Int
  acc : List Val
  l : Val
  bad : Bool

/-- The logit of a token for a query row. -/
def logit (a : Adec) (q : List Val) (t : KvToken) : Val :=
  let dot := (List.range (a.hd / 32)).foldl (fun dot j =>
    rne (dot.add (rne (Val.sum ((List.range 32).map fun k => (nth q (32 * j + k) Val.zero).mul (kvVal t.k t.ks (32 * j + k))))))) Val.zero
  rne ((f32Val a.scale).mul dot)

/-- Take one token into a row (R319). -/
def RowAcc.step (a : Adec) (q : List Val) (r : RowAcc) (t : KvToken) : RowAcc :=
  let s := logit a q t
  if s.isNan || (s.isInf && !s.neg?) then { r with bad := true }
  else if s.isInf then r
  else
    let start : Int × List Val × Val := match r.ref with
      | none => (ceilVal s, List.replicate a.hd Val.zero, Val.zero)
      | some ref =>
        if (Val.ofInt (ref + 8)).ltb s then
          let n := ceilVal s
          (n, r.acc.map fun x => rne (x.scale (ref - n)), rne (r.l.scale (ref - n)))
        else (ref, r.acc, r.l)
    let p := special32 .exp2 (rne (s.sub (Val.ofInt start.1)))
    { r with ref := some start.1, acc := start.2.1.mapIdx fun d x => rne (x.add (p.mul (kvVal t.v t.vs d))), l := rne (start.2.2.add p) }

/-- Output row and lse of a row. -/
def RowAcc.result (a : Adec) (r : RowAcc) : List Nat × Nat :=
  if r.bad then (List.replicate a.hd nan32, nan32)
  else match r.ref with
    | none => (List.replicate a.hd 0, 0xFF800000)
    | some ref => (r.acc.map fun x => codeOf (x.div r.l), codeOf ((Val.ofInt ref).add (special32 .log2 r.l)))

/-- The output bytes of an ADEC command at its output offset. DEDUCED (log 32). -/
def adecRun (g : Got) (c : StreamCore) (n out : Nat) : Take (List (Nat × Byte)) :=
  let a := adecOf n
  let q0 := 64 * recBase (c.entry a.qrec) + a.qoff
  (collect ((List.range a.rows).map fun r => g.scratch (q0 + 2 * a.hd * r) (2 * a.hd))).bind fun qs =>
    (collect ((List.range a.ntok).map fun i => kvToken g c a (a.tok0 + i))).bind fun ts =>
      .ok ((qs.mapIdx fun r bs =>
        let q := (List.range a.hd).map fun d => bf16Val (leNat (slice bs (2 * d) 2))
        let res := RowAcc.result a (ts.foldl (RowAcc.step a q) { ref := none, acc := [], l := Val.zero, bad := false })
        withKeys (out + 4 * r) (leBytes 4 res.2) ++ withKeys (out + 64 + 4 * a.hd * r) (res.1.flatMap fun x => leBytes 4 x)).flatten)

/-! ### Posting lists (R320) -/

/-- A term entry (R321). -/
structure Term where
  x : Nat
  skoff : Nat
  nblk : Nat
  idf : Nat
  bad : Bool

def termOf (n : Nat) : Term :=
  { x := bits n 127 124, skoff := bits n 123 76, nblk := bits n 75 56, idf := bits n 55 40, bad := bits n 39 0 != 0 || bits n 123 76 % 16 != 0 || bits n 75 56 == 0 }

/-- A skip entry. -/
structure Skip where
  maxdoc : Nat
  maximp : Nat
  boff : Nat

/-- Skip entry i of a list. -/
def takeSkip (g : Got) (c : StreamCore) (t : Term) (i : Nat) : Take Skip :=
  (g.device c t.x (t.skoff + 16 * i : Nat) 16).bind fun bs =>
    let n := leNat bs
    if bits n 79 48 != 0 || bits n 47 0 % 64 != 0 then failWith 8 t.x (t.skoff + 16 * i)
    else .ok { maxdoc := bits n 127 96, maximp := bits n 95 80, boff := bits n 47 0 }

/-- A multiple of 4 not below n. -/
def pad4 (n : Nat) : Nat := (n + 3) / 4 * 4

/-- Document identifiers from gaps. -/
def docsFrom : Nat → List Nat → List Nat
  | _, [] => []
  | prev, g :: gs => (prev + 1 + g) :: docsFrom (prev + 1 + g) gs

/-- Decode a block: its documents with their frequencies. `prev` is the MAXDOC of the previous block. -/
def decodeBlock (g : Got) (c : StreamCore) (x : Nat) (k : Skip) (prev : Option Nat) : Take (List (Nat × Nat)) :=
  (g.device c x k.boff 8).bind fun hb =>
    let h := leNat hb
    let bw := bits h 31 27
    let fw := bits h 26 23
    let nd := bits h 22 15
    let ne := bits h 14 7
    if bits h 6 0 != 0 || nd == 0 || decide (128 < nd) || decide (nd < ne) then failWith 8 x k.boff
    else
      let gapLen := pad4 ((nd * bw + 7) / 8)
      let n := 8 + gapLen + 4 * ne + (nd * fw + 7) / 8
      (g.device c x k.boff n).bind fun bs =>
        let gaps := leNat (slice bs 8 gapLen)
        let exc := (List.range ne).map fun i => leNat (slice bs (8 + gapLen + 4 * i) 4)
        let freqs := leNat (bs.drop (8 + gapLen + 4 * ne))
        let ixs := exc.map fun e => bits e 31 24
        let gap := fun i => bits gaps (bw * i + bw - 1) (bw * i) % 2 ^ bw + (match exc.find? fun e => bits e 31 24 == i with
          | some e => bits e 23 0 * 2 ^ bw
          | none => 0)
        let docs := docsFrom (bits h 63 32) ((List.range nd).map gap)
        let tfs := (List.range nd).map fun i => (if fw = 0 then 0 else bits freqs (fw * i + fw - 1) (fw * i)) + 1
        let below := match prev with
          | some p => decide ((docs.head?).getD 0 ≤ p)
          | none => false
        if ixs.any (fun i => decide (nd ≤ i)) || ixs.eraseDups.length != ixs.length || docs.any (fun d => decide (2 ^ 32 ≤ d)) || docs.getLast? != some k.maxdoc || below then
          failWith 8 x k.boff
        else .ok (docs.zip tfs)

/-! ### Queries (R321, R322) -/

/-- The header of a query record. -/
structure Query where
  dlx : Nat
  dloff : Nat
  k1 : Nat
  k : Nat
  cap : Nat
  lo : Nat
  hi : Nat
  terms : List Term
  bad : Bool
  /-- the record as one number -/
  key : Nat

def queryOf (head : List Byte) : Query :=
  let n := leNat (slice head 0 64)
  let ts := (List.range (bits n 459 457 + 1)).map fun j => termOf (leNat (slice head (64 + 16 * j) 16))
  { dlx := bits n 511 508, dloff := bits n 507 460, k1 := bits n 456 441, k := bits n 440 431 + 1, cap := bits n 430 408, lo := bits n 407 376
    hi := bits n 375 344, terms := ts, bad := bits n 343 0 != 0 || ts.any fun t => t.bad, key := leNat head }

/-- An entry of a result: document, and score or frequency. -/
abbrev Hit := Nat × Nat

/-- The ranking of R322 on f32 scores. -/
def hitBefore (a b : Hit) : Bool :=
  let x := f32Val a.2
  let y := f32Val b.2
  if x.isNan then y.isNan && decide (a.1 < b.1)
  else y.isNan || y.ltb x || (!x.ltb y && decide (a.1 < b.1))

/-- The first K of a list in ranking order. -/
def topHits (k : Nat) (hs : List Hit) : List Hit := (sortBy hitBefore hs).take k

/-- The score of a document: term contributions in order, each operation rounded (R321). -/
def scoreOf (q : Query) (kd : Nat) (tfs : List (Option Nat)) : Nat :=
  let k1 := f16Val q.k1
  let k1p := rne (k1.add Val.one)
  let cs := tfs.mapIdx fun j tf => match tf with
    | none => Val.zero
    | some n =>
      let tf := Val.ofInt n
      rne ((f16Val (match q.terms[j]? with
        | some t => t.idf
        | none => 0)).mul (rne ((rne (tf.mul k1p)).div (rne (tf.add (f16Val kd))))))
  match cs with
  | [] => 0
  | c :: cs => codeOf (cs.foldl (fun a x => rne (a.add x)) c)

/-- A term's skip table from its current block on, with the MAXDOC of the block before. -/
structure Cursor where
  term : Term
  skips : List Skip
  prev : Option Nat

/-- Leave the blocks that end before a document. -/
def Cursor.advance (p : Nat) : List Skip → Option Nat → List Skip × Option Nat
  | [], prev => ([], prev)
  | k :: ks, prev => if k.maxdoc < p then Cursor.advance p ks (some k.maxdoc) else (k :: ks, prev)

/-- Walk the documents from p on, segment by segment: within one no term changes its block. `docs` keeps every match in document order. -/
def queryWalk (g : Got) (c : StreamCore) (q : Query) (union docs : Bool) : Nat → Nat → List Cursor → List Hit → Take (List Hit)
  | 0, _, _, hs => .ok hs
  | n + 1, p, cs, hs =>
    let cs := cs.map fun k => let r := Cursor.advance p k.skips k.prev; { k with skips := r.1, prev := r.2 }
    let live := cs.filterMap fun k => k.skips.head?
    if live.isEmpty || (!union && decide (live.length < cs.length)) || decide (q.hi < p) || (docs && decide (q.cap < hs.length)) then .ok hs
    else
      let e := live.foldl (fun e k => min e k.maxdoc) q.hi
      let best := topHits q.k hs
      let bound := (cs.map fun k => match k.skips with
        | b :: _ => f16Val b.maximp
        | [] => Val.zero).foldl (fun a x => rne (a.add x)) Val.zero
      let maySkip := !docs && best.length == q.k && (match best.getLast? with
        | some h => bound.ltb (f32Val h.2)
        | none => false)
      if maySkip && Config.skips q.key p then queryWalk g c q union docs n (e + 1) cs hs
      else
        (collect (cs.map fun k => match k.skips with
          | b :: _ => decodeBlock g c k.term.x b k.prev
          | [] => .ok [])).bind fun bs =>
          let all := ((bs.flatten.map fun x => x.1).filter fun d => decide (p ≤ d) && decide (d ≤ e)).eraseDups
          let sorted := sortBy (fun a b => decide (a < b)) all
          let found := sorted.filterMap fun d =>
            let tfs := bs.map fun b => (b.find? fun x => x.1 == d).map fun x => x.2
            if union || tfs.all Option.isSome then some (d, tfs) else none
          (collect (found.map fun x => (g.device c q.dlx (q.dloff + 2 * x.1 : Nat) 2).bind fun kd => .ok (x.1, scoreOf q (leNat kd) x.2))).bind fun new =>
            queryWalk g c q union docs n (e + 1) cs (if docs then hs ++ new else topHits q.k (hs ++ new))

/-- A result: entries, STATUS, the word at byte 8 (R322). -/
def resultBytes (out status word2 : Nat) (hs : List Hit) : List (Nat × Byte) :=
  withKeys out (leBytes 4 hs.length ++ leBytes 4 status ++ leBytes 4 word2 ++ List.replicate 52 0 ++ hs.flatMap fun h => leBytes 4 h.1 ++ leBytes 4 h.2)

/-- The score of the last entry, or −∞. -/
def lastScore (hs : List Hit) : Nat :=
  match hs.getLast? with
  | some h => h.2
  | none => 0xFF800000

/-- What an engine writes: bytes of the scratchpad, an error it ends with all the same, tuples for a front. -/
structure EngineOut where
  ws : List (Nat × Byte)
  err : Option CmdError
  insert : Option (Nat × List Tuple)

/-- PL.AND and PL.OR. DEDUCED (log 32). -/
def queryRun (g : Got) (c : StreamCore) (head : List Byte) (descOff : Nat) (union docs : Bool) (out : Nat) : Take EngineOut :=
  let q := queryOf head
  if q.bad then failWith 14 descOff 0
  else
    (collect (q.terms.map fun t => (collect ((List.range t.nblk).map fun i => takeSkip g c t i)).bind fun ks => .ok ({ term := t, skips := ks, prev := none } : Cursor))).bind fun cs =>
      (queryWalk g c q union docs ((cs.map fun k => k.skips.length).foldl (· + ·) 1) q.lo cs []).bind fun hs =>
        if docs then
          let beyond := decide (q.cap < hs.length)
          let hs := hs.take q.cap
          .ok { ws := resultBytes out (if beyond then 9 else 0) (lastScore hs) hs, err := if beyond then some { code := 9, d0 := q.cap, d1 := 0 } else none, insert := none }
        else
          let hs := topHits q.k hs
          .ok { ws := resultBytes out 0 (lastScore hs) hs, err := none, insert := none }

/-- Decode a run of blocks in order. -/
def decodeRun (g : Got) (c : StreamCore) (x : Nat) : List Skip → Option Nat → List (Take (List (Nat × Nat)))
  | [], _ => []
  | k :: ks, prev => decodeBlock g c x k prev :: decodeRun g c x ks (some k.maxdoc)

/-- PL.DEC (R323). -/
def decRun (g : Got) (c : StreamCore) (entry : List Byte) (descOff first count out : Nat) : Take EngineOut :=
  let t := termOf (leNat entry)
  if t.bad || decide (t.nblk < first + count) then failWith 14 descOff 0
  else
    (collect ((List.range count).map fun i => takeSkip g c t (first + i))).bind fun ks =>
      (if first = 0 || count = 0 then Take.ok none else (takeSkip g c t (first - 1)).bind fun k => .ok (some k.maxdoc)).bind fun prev =>
        (collect (decodeRun g c t.x ks prev)).bind fun bs => .ok { ws := resultBytes out 0 0 bs.flatten, err := none, insert := none }

/-! ### PL.FUSE (R324) -/

/-- Entries of a stream, which must rise in document. -/
def streamFrom (g : Got) (e : Nat) : Nat → Option Nat → Take (List Hit)
  | 0, _ => .ok []
  | n + 1, prev =>
    (g.scratch e 8).bind fun bs =>
      let d := leNat (slice bs 0 4)
      let rising := match prev with
        | some p => decide (p < d)
        | none => true
      if !rising then failWith 8 0 e
      else (streamFrom g (e + 8) n (some d)).bind fun hs => .ok ((d, leNat (slice bs 4 4)) :: hs)

/-- A stream at a place of the scratchpad. -/
def takeStream (g : Got) (e : Nat) : Take (List Hit) := (g.scratch e 64).bind fun h => streamFrom g (e + 64) (leNat (slice h 0 4)) none

/-- The score a document has in a stream. -/
def streamScore (hs : List Hit) (d : Nat) : Val :=
  match hs.find? fun h => h.1 == d with
  | some h => f32Val h.2
  | none => Val.zero

/-- The tuple of an entry and its attribute record. -/
def fuseTuple (h : Hit) (attr : List Byte) : Tuple :=
  let w := fun i => BitVec.ofNat 16 (leNat (slice attr (2 * i) 2))
  { o0 := BitVec.ofNat 16 (fitVal .bf16 q8 0 0 false (f32Val h.2)), o1 := w 0, o2 := w 1, o3 := w 2, payload := BitVec.ofNat 32 h.1 }

/-- PL.FUSE. DEDUCED (log 32). -/
def fuseRun (g : Got) (c : StreamCore) (desc : List Byte) (descOff out : Nat) : Take EngineOut :=
  let n := leNat desc
  let lrec := bits n 511 504
  let vrec := bits n 480 473
  let at_ := fun r off => 64 * recBase (c.entry r) + off
  if bits n 351 0 != 0 || recKind (c.entry lrec) != 1 || recKind (c.entry vrec) != 1 then failWith 14 descOff 0
  else
    (takeStream g (at_ lrec (bits n 503 481))).bind fun ls =>
      (takeStream g (at_ vrec (bits n 472 450))).bind fun vs =>
        let docs := (ls.map (fun h => h.1) ++ vs.map fun h => h.1).eraseDups
        let wl := f16Val (bits n 449 434)
        let wv := f16Val (bits n 433 418)
        let hs := topHits (bits n 417 408 + 1) (docs.map fun d => (d, codeOf ((rne (wl.mul (streamScore ls d))).add (rne (wv.mul (streamScore vs d))))))
        let done := fun ins => ({ ws := resultBytes out 0 (lastScore hs) hs, err := none, insert := ins } : EngineOut)
        if bit n 407 then
          (collect (hs.map fun h => g.device c (bits n 403 400) (bits n 399 352 + 8 * h.1 : Nat) 8)).bind fun attrs =>
            .ok (done (some (bits n 406 404, (hs.zip attrs).map fun x => fuseTuple x.1 x.2)))
        else .ok (done none)

end Sys2Proof.Machine
end

