-- ==== Sys2Proof/Machine/ScratchOps.lean ====
section
/-! DEFINITION. Class M1: loads and stores of the scratchpad, window stores, LDB (R41 to R53, R247 to R255). -/
namespace Sys2Proof.Machine

/-- Emit the records of soft errors met by a core's scratchpad (R34). -/
def softEvents (s : State) (cid : Nat) (evs : List SoftEvent) : State :=
  evs.foldl (fun s e => match coreOf s cid with
    | some c => emitSoft s c e.event e.bank e.row e.off ((if e.tap then c.tapBanks.counts else c.sp.counts).get e.bank).toNat
    | none => s) s

/-- Reads of data granules by a core: what can be rebuilt is corrected and written back (R33). -/
def readGranules (s : State) (cid : Nat) (gs : List Nat) : State :=
  match coreOf s cid with
  | none => s
  | some c =>
    if c.sp.erased.isEmpty then s
    else
      let r := c.sp.mendAll c.tapBanks.failed.length s.wall gs
      softEvents (onCore s cid fun c => { c with sp := r.1 }) cid r.2

/-- Record a berm touch of the core at turn by one of its own slots (R41). DEDUCED (log 49). -/
def touchBerm (s : State) (write : Bool) (e : Nat) : State :=
  s.onCore fun c => { c with sp := c.sp.touch (if write then 1 else 0) 0 c.seat.member e }

/-- Record the berm touch of an M1 access, if it meets a berm byte. -/
def touchRefs (s : State) (write : Bool) (refs : List (Nat × Int)) : State :=
  match refs.find? fun r => s.core.bermAt r.2.toNat with
  | some r => touchBerm s write r.2.toNat
  | none => s

/-- The n bytes at a place, as a load returns them. -/
def StreamCore.loadBytes (c : StreamCore) (e n : Nat) : List Byte :=
  (List.range n).map fun i => if c.bermAt (e + i) then 0 else c.sp.byte (e + i)

/-- Granules the loads of n bytes at each place read. -/
def StreamCore.readsOf (c : StreamCore) (refs : List (Nat × Int)) (n : Nat) : List Nat := (c.refGranules refs n).eraseDups

/-- Delivery of a load: two cycles later from a compressed region (R252). -/
def loadLatency (c : StreamCore) (refs : List (Nat × Int)) : Nat := if refs.any fun r => c.sp.compressed r.2.toNat then 7 else 5

/-- What a load does besides its result: corrections and the berm record. -/
def afterLoad (s : State) (refs : List (Nat × Int)) (n : Nat) : State :=
  touchRefs (readGranules s s.core.seat.cid (s.core.readsOf refs n)) false refs

/-- A fault of R249 on a syllable of class M1. -/
def m1Trap (s : State) (f : SpFault) : Trap := s.trapHere 6 f.1 0 f.2

/-- A vector load through the given lanes. -/
def loadLanes (s : State) (o : LMem) (refs : List (Nat × Int)) (n : Nat) : Res :=
  match s.core.m1Fault o false refs 4 with
  | some f => .trap (m1Trap s f)
  | none =>
    let ws := refs.map fun r => (vkey (r.1 / 16) (physV s.core.sys.rotw o.d.toNat) (r.1 % 16), BitVec.ofNat 32 (leNat (s.core.loadBytes r.2.toNat 4)))
    .ok ((afterLoad s refs 4).fly n (.vecs ws)) (some n)

def execLd (h : Hdr) (o : LMem) (s : State) : Answer :=
  issued (.ld h o) s fun s => loadLanes s o (s.core.laneRefs h o) (loadLatency s.core (s.core.laneRefs h o))

def execLdg (h : Hdr) (o : LMem) (s : State) : Answer := issued (.ldg h o) s fun s => loadLanes s o (s.core.laneRefs h o) 9

/-- Cores that a window record names. -/
def windowMembers (s : State) (e : Nat) : List Nat := ((matesOf s s.core).filter fun d => bit (recMembers e) d.seat.member).map fun d => d.seat.cid

/-- A store of bytes at each place under a header: a window store, whose landing takes its scoreboard down, or an own store that lands n cycles from now with its berm bytes discarded (R41, R174, R238, R250). -/
def storeBytes (s : State) (h : Hdr) (o : LMem) (refs : List (Nat × Int)) (bs : Nat → List Byte) (n : Nat) : Res :=
  match s.core.m1Fault o true refs 4 with
  | some f => .trap (m1Trap s f)
  | none =>
    let ws := refs.flatMap fun r => withKeys r.2.toNat (bs r.1)
    if s.core.windowRec o.rcd.toNat then
      .ok { s with windows := s.windows ++
        [{ due := s.wall + 32, cid := some s.core.seat.cid, member := s.core.seat.member, seq := s.core.pipe.seq, dest := windowMembers s (s.core.entry o.rcd.toNat), ws := ws
           sb := if h.sbv then some h.sbi.toNat else none }] } none
    else .ok ((touchRefs s true refs).fly n (.store (ws.filter fun w => !s.core.bermAt w.1))) (some n)

/-- The bytes of a lane of the data register. -/
def laneBytes (c : StreamCore) (n L : Nat) : List Byte := leBytes 4 (c.vlane n L).toNat

def execSt (h : Hdr) (o : LMem) (s : State) : Answer :=
  issued (.st h o) s fun s => storeBytes s h o (s.core.laneRefs h o) (laneBytes s.core o.d.toNat) 2

def execStg (h : Hdr) (o : LMem) (s : State) : Answer :=
  issued (.stg h o) s fun s => storeBytes s h o (s.core.laneRefs h o) (laneBytes s.core o.d.toNat) 9

def execLds (h : Hdr) (o : LMem) (s : State) : Answer :=
  issued (.lds h o) s fun s =>
    let refs := s.core.scalarRef h o
    let n := scalarBytes h
    match s.core.m1Fault o false refs n with
    | some f => .trap (m1Trap s f)
    | none =>
      let v := leNat (refs.flatMap fun r => s.core.loadBytes r.2.toNat n)
      landS (afterLoad s refs n) (loadLatency s.core refs) o.d.toNat (ext64 (8 * n) (scalarSg (hFmt h)) v)

def execSts (h : Hdr) (o : LMem) (s : State) : Answer :=
  issued (.sts h o) s fun s => storeBytes s h o (s.core.scalarRef h o) (fun _ => leBytes (scalarBytes h) (s.core.sreg o.d.toNat).toNat) 2

def execLdb (h : Hdr) (o : LMem) (s : State) : Answer :=
  issued (.ldb h o) s fun s =>
    let w := o.imm23.toNat
    landS s 5 o.d.toNat (BitVec.ofNat 64 (bits (s.core.entry o.rcd.toNat) (64 * w + 63) (64 * w)))

end Sys2Proof.Machine
end

