-- ==== Sys2Proof/Machine/FrontOps.lean ====
section
/-! DEFINITION. The front syllables of class D (R336 to R347). -/
namespace Sys2Proof.Machine

/-- The front-configuration fault (R338, R339, R347). -/
def frontTrap (s : State) (n : Nat) : Res := .trap (s.trapHere 3 0x07 0 (BitVec.ofNat 64 n))

/-- A front change that lands n cycles after issue. -/
def landF (s : State) (n d : Nat) (op : FrontOp) : Res := .ok (s.fly n (.front d op)) (some n)

def execFcfg (h : Hdr) (o : LReg) (s : State) : Answer :=
  issued (.fcfg h o) s fun s => landF s 1 o.d.toNat (.config (if o.bsel.toNat = 1 then (s.core.sreg o.b.toNat).setWidth 40 else o.imm))

/-- The tuple of a lane: objectives in v(A) and v(A+1), payload in v(A+2) (R338). -/
def laneTuple (c : StreamCore) (r L : Nat) : Tuple :=
  let a := c.vlane r L
  let b := c.vlane (r + 1) L
  { o0 := a.setWidth 16, o1 := (a >>> 16).setWidth 16, o2 := b.setWidth 16, o3 := (b >>> 16).setWidth 16, payload := c.vlane (r + 2) L }

def execFins (h : Hdr) (o : LReg) (s : State) : Answer :=
  issued (.fins h o) s fun s =>
    if (s.core.front o.d.toNat).cfg.isNone then frontTrap s o.d.toNat
    else landF s 6 o.d.toNat (.insert ((s.core.active h o.km).map fun L => (L, laneTuple s.core o.a.toNat L)))

/-- Are two configurations alike in arity, directions and kinds (R339)? -/
def alike (a b : BitVec 40) : Bool := a.extractLsb' 0 18 == b.extractLsb' 0 18

def execFmerge (h : Hdr) (o : LReg) (s : State) : Answer :=
  issued (.fmerge h o) s fun s =>
    let a := s.core.front o.a.toNat
    let b := s.core.front o.b.toNat
    match a.cfg, b.cfg with
    | none, _ => frontTrap s o.a.toNat
    | _, none => frontTrap s o.b.toNat
    | some w, some v =>
      if !alike w v then frontTrap s o.b.toNat
      else
        let r := Front.merge w a b
        landF s 12 o.d.toNat (.replace r.1 r.2)

/-- The three lane words of a tuple (R340). -/
def tupleWords (t : Tuple) : List Lane := [t.o1 ++ t.o0, t.o3 ++ t.o2, t.payload]

def execFpeel (h : Hdr) (o : LReg) (s : State) : Answer :=
  issued (.fpeel h o) s fun s =>
    let es := (s.core.front o.a.toNat).ordered
    let k := (s.core.bcommon o).toNat
    let ws := (List.range 3).flatMap fun r => s.core.laneWrites (o.d.toNat + r) (s.core.active h o.km) fun L =>
      match es[k + L % 16]? with
      | some t => nth (tupleWords t) r 0
      | none => 0xFFFFFFFF
    .ok (s.fly 8 (.vecs ws)) (some 8)

def execFcnt (h : Hdr) (o : LReg) (s : State) : Answer := issued (.fcnt h o) s fun s => landS s 2 o.d.toNat (s.core.front o.a.toNat).count

def execFclr (h : Hdr) (o : LReg) (s : State) : Answer := issued (.fclr h o) s fun s => landF s 1 o.d.toNat (.clear false)
def execFclrAll (h : Hdr) (o : LReg) (s : State) : Answer := issued (.fclrAll h o) s fun s => landF s 1 o.d.toNat (.clear true)

/-- Check 3 of R249 on every byte of an image: the lowest byte outside. DEDUCED (log 35). -/
def imageRange (b : SpBlock) : Option SpFault :=
  if b.start < 0 then some (0x21, BitVec.ofInt 64 b.start)
  else if (spBytes : Int) < b.start + b.len then some (0x21, BitVec.ofInt 64 (max b.start spBytes))
  else none

/-- The checks of R346. -/
def imageFault (c : StreamCore) (b : SpBlock) : Option SpFault :=
  firstFault
    [if recKind (c.entry b.rcd) = 1 then none else some (0x20, BitVec.ofNat 64 b.rcd),
     imageRange b,
     if b.write then c.compressedFault (blockRefs b.start b.len) else none,
     if b.write then none else c.blockLost b]

/-- Record the berm touch of a block, if it meets a berm byte. DEDUCED (log 49). -/
def touchBlock (s : State) (b : SpBlock) : State :=
  match s.core.firstBerm b with
  | some e => touchBerm s b.write e
  | none => s

def execFsave (h : Hdr) (o : LReg) (s : State) : Answer :=
  issued (.fsave h o) s fun s =>
    match s.core.blockOf (.fsave h o) with
    | none => .ok s (some 16)
    | some b => match imageFault s.core b with
      | some f => .trap (s.trapHere 3 f.1 0 f.2)
      | none =>
        let ws := (withKeys b.start.toNat (s.core.front o.b.toNat).image).filter fun w => !s.core.bermAt w.1
        .ok ((touchBlock s b).fly 16 (.store ws)) (some 16)

def execFload (h : Hdr) (o : LReg) (s : State) : Answer :=
  issued (.fload h o) s fun s =>
    match s.core.blockOf (.fload h o) with
    | none => .ok s (some 16)
    | some b => match imageFault s.core b with
      | some f => .trap (s.trapHere 3 f.1 0 f.2)
      | none => match imageOp (s.core.blockBytes b) with
        | none => frontTrap s o.d.toNat
        | some op => landF (touchBlock (readGranules s s.core.seat.cid (s.core.blockGranules b)) b) 16 o.d.toNat op

end Sys2Proof.Machine
end

