-- ==== Sys2Proof/Machine/Engines.lean ====
section
/-! DEFINITION. Issue of engine commands: their checks, locks and tags; TAGCLR (R51, R307 to R310, R315 to R325, R421). -/
namespace Sys2Proof.Machine

/-! ### Operands -/

/-- Scratchpad byte at an offset of a record (R316). -/
def StreamCore.spAt (c : StreamCore) (rcd : Nat) (off : Int) : Int := c.recStart rcd + off

/-- Scalar operands as offsets, and as a natural value. -/
def offA (c : StreamCore) (o : LEcmd) : Int := signed64 (c.sreg o.a.toNat)
def offB (c : StreamCore) (o : LEcmd) : Int := signed64 (c.sreg o.b.toNat)
def natC (c : StreamCore) (o : LEcmd) : Nat := (c.sreg o.c.toNat).toNat

/-! ### Locks (R51, R421) -/

/-- Does a tile hold a byte of a range of the scratchpad that lies in no berm? -/
def StreamCore.tileServes (c : StreamCore) (lo hi tile : Nat) : Bool :=
  (List.range 64).any fun k => let g := 64 * tile + k; decide (lo < 64 * g + 64) && decide (64 * g < hi) && inBuffer c.pool g

/-- Tiles of a range given by a record: it stops at the record's end, and covers no berm; with a negative offset it begins before the record. -/
def StreamCore.recTiles (c : StreamCore) (rcd : Nat) (e : Int) (n : Nat) : List Nat :=
  let r := c.entry rcd
  let lo := (max e 0).toNat
  let hi := (min (e + n) (64 * (recBase r + recLen r) : Nat)).toNat
  if recKind r = 1 then (tilesOf lo (hi - lo)).filter (c.tileServes lo hi) else []

/-! ### Nests (R160, R317) -/

/-- Trips of a dimension. -/
def trips (e : Nat) (d : Nat) : Nat := nestBound e d + 1

/-- Product of the trip counts below dimension d. -/
def tripsBelow (e d : Nat) : Nat := ((List.range d).map (trips e)).foldl (· * ·) 1

/-- Offset of position p of a nest, i0 fastest. -/
def posOff (e p : Nat) : Int := nestOff e fun d => p / tripsBelow e d % trips e d

/-- Least and greatest offset of a nest. -/
def nestHull (e : Nat) : Int × Int :=
  let ends := (List.range 6).map fun d => (nestBound e d : Int) * nestStride e d
  let k : Int := (2 ^ nestShift e : Nat)
  (k * (ends.map fun x => min x 0).foldl (· + ·) 0, k * (ends.map fun x => max x 0).foldl (· + ·) 0)

/-! ### Checks (R315) -/

/-- Check 1 on a record operand: a buffer, and compressed where it must be. -/
def StreamCore.bufferFault (c : StreamCore) (r : Nat) (comp : Bool) : Option SpFault :=
  if recKind (c.entry r) = 1 && (!comp || recComp (c.entry r)) then none else some (0x20, BitVec.ofNat 64 r)

/-- Check 1 on a nest index (R317). -/
def StreamCore.nestFault (c : StreamCore) (r : Nat) : Option SpFault := if recKind (c.entry r) = 3 then none else some (0x20, BitVec.ofNat 64 r)

/-- Check 2 on a range of an extent. -/
def StreamCore.devFault (c : StreamCore) (x : Nat) (off : Int) (n need : Nat) : Option SpFault :=
  (rangeCheck c x off n need false).map fun code => (code, xoWord x off)

/-- Check 3 on a range of the scratchpad. -/
def spRange (e : Int) (n : Nat) : Option SpFault :=
  if n = 0 then none else imageRange { rcd := 0, start := e, len := n, write := false }

/-! ### Putting a command in flight (R307 to R309) -/

/-- Commands that a consumed pending tag waits for, and a consumed tag that is set with its error bit. -/
def StreamCore.consume (c : StreamCore) (tags : List Nat) : List Nat × Option Nat :=
  (tags.flatMap fun t => if c.regs.tagPend.getLsbD t then (c.dev.cmds.filter fun k => k.tag == t).map fun k => k.uid else [],
   tags.find? fun t => (c.regs.tagr.getLsbD t && c.regs.tagErr.getLsbD t) || c.dev.tagDone.any fun d => d.tag == t && d.err)

/-- Issue a command: it waits for its consumed tags, its locks and an issue slot; its tag becomes pending. It is enqueued at +1. -/
def enqueue (s : State) (o : LEcmd) (cls : Nat) (kind : CmdKind) (rl wl : List Nat) (found : Option CmdError) (touched : Bool) : Res :=
  let w := s.core.consume (consumedTags o)
  let k : Cmd :=
    { uid := s.uid, seq := s.core.pipe.seq, tag := o.tp.toNat, cls := cls, kind := kind, waits := w.1, upstream := w.2, rlocks := rl, wlocks := wl
      found := found, stage := .queued, granted := false, due := s.wall + 1, wrote := [], touched := touched, resolving := none }
  .ok ({ s with uid := s.uid + 1 }.onCore fun c => StreamCore.regrant { c with
    dev := { c.dev with cmds := c.dev.cmds ++ [k] }
    pipe := { c.pipe with after := c.pipe.after ++ [After.tagPend (BitVec.ofNat 64 (2 ^ o.tp.toNat))] } }) (some 1)

/-- A command's trap. -/
def cmdTrap (s : State) (f : SpFault) : Res := .trap (s.trapHere 9 f.1 0 f.2)

/-- Record an engine's berm touch (R41). DEDUCED (log 32). -/
def touchEngine (write : Bool) (e : Nat) (c : StreamCore) : StreamCore :=
  { c with sp := c.sp.touch (if write then 1 else 0) 1 c.seat.member e }

/-- Bytes a command reads at its issue (R421): an uncorrectable one completes it with error 5. The flag says that a berm was touched. They are read at once, also from a tile to which an own store is still in flight or which an earlier command has write-locked: the manual says of these reads that they are made at issue, and R51 and R52 do not name them. DEDUCED (log 32). DESIGN CHOICE (log 32). -/
def readAtIssue (s : State) (rcd : Nat) (e : Int) (n : Nat) : List Byte × Option CmdError × Bool × State :=
  let c := s.core
  let b : SpBlock := { rcd := rcd, start := e, len := n, write := false }
  match c.blockLost b with
  | some f =>
    let off := f.2.toNat
    ([], some { code := 5, d0 := off, d1 := 0 }, false, emitSoft s c 4 (off / 64 % 16) (off / 1024) off (c.sp.counts.get (off / 64 % 16)).toNat)
  | none =>
    let s := readGranules s c.seat.cid (c.blockGranules b)
    match c.firstBerm b with
    | some at_ => (c.blockBytes b, none, true, s.onCore (touchEngine false at_))
    | none => (c.blockBytes b, none, false, s)

/-- A command without checks of its own beyond a list of faults. -/
def command (i : Instr) (s : State) (faults : State → List (Option SpFault)) (go : State → Res) : Answer :=
  issued i s fun s => match firstFault (faults s) with
    | some f => cmdTrap s f
    | none => go s

/-! ### CPY (R316) -/

/-- Tiles a copy end reads or writes. -/
def endTiles (c : StreamCore) (rcd : Nat) (e : CopyEnd) (n : Nat) : List Nat :=
  match e with
  | .scratch at_ => c.recTiles rcd at_ n
  | _ => []

/-- Check 3 on a copy end. -/
def endRange (e : CopyEnd) (lo hi : Int) (n : Nat) : Option SpFault :=
  match e with
  | .scratch at_ => spRange (at_ + lo) ((hi - lo).toNat + n)
  | _ => none

/-- Check 2 on a copy end. -/
def endDev (c : StreamCore) (e : CopyEnd) (lo hi : Int) (n need : Nat) : Option SpFault :=
  match e with
  | .device x off => c.devFault x (off + lo) ((hi - lo).toNat + n) need
  | _ => none

/-- A copy between two ends of plain ranges. -/
def copyCmd (i : Instr) (o : LEcmd) (src dst : StreamCore → CopyEnd) (recs : StreamCore → List (Option SpFault)) (comp : Bool) (s : State) : Answer :=
  command i s
    (fun s =>
      let c := s.core
      let n := natC c o
      recs c ++ [endDev c (src c) 0 0 n needRead, endDev c (dst c) 0 0 n needWrite, endRange (src c) 0 0 n, endRange (dst c) 0 0 n])
    fun s =>
      let c := s.core
      let n := natC c o
      enqueue s o 1 (.copy (src c) (dst c) n none comp (0, 0)) (endTiles c o.rec1.toNat (src c) n) (endTiles c o.rec2.toNat (dst c) n) none false

def srcDev (o : LEcmd) (c : StreamCore) : CopyEnd := .device o.x.toNat (offA c o)
def srcSp (o : LEcmd) (c : StreamCore) : CopyEnd := .scratch (c.spAt o.rec1.toNat (offA c o))
def dstSp (o : LEcmd) (c : StreamCore) : CopyEnd := .scratch (c.spAt o.rec2.toNat (offB c o))
def buf1 (o : LEcmd) (c : StreamCore) : Option SpFault := c.bufferFault o.rec1.toNat false
def buf2 (o : LEcmd) (comp : Bool) (c : StreamCore) : Option SpFault := c.bufferFault o.rec2.toNat comp

def execCpyD2s (h : Hdr) (o : LEcmd) (s : State) : Answer := copyCmd (.cpyD2s h o) o (srcDev o) (dstSp o) (fun c => [buf2 o false c]) false s
def execCpyS2d (h : Hdr) (o : LEcmd) (s : State) : Answer :=
  copyCmd (.cpyS2d h o) o (srcSp o) (fun c => .device o.x.toNat (offB c o)) (fun c => [buf1 o c]) false s
def execCpyD2d (h : Hdr) (o : LEcmd) (s : State) : Answer :=
  copyCmd (.cpyD2d h o) o (srcDev o) (fun c => .device (bits o.rec2.toNat 3 0) (offB c o)) (fun _ => []) false s
def execCpyS2s (h : Hdr) (o : LEcmd) (s : State) : Answer := copyCmd (.cpyS2s h o) o (srcSp o) (dstSp o) (fun c => [buf1 o c, buf2 o false c]) false s
def execCpyD2sz (h : Hdr) (o : LEcmd) (s : State) : Answer := copyCmd (.cpyD2sz h o) o (srcDev o) (dstSp o) (fun c => [buf2 o true c]) true s
def execCpyS2sz (h : Hdr) (o : LEcmd) (s : State) : Answer := copyCmd (.cpyS2sz h o) o (srcSp o) (dstSp o) (fun c => [buf1 o c, buf2 o true c]) true s

/-- The tap checks of CPY.D2T. -/
def faceFault (c : StreamCore) (sig n : Nat) : Option SpFault :=
  match c.sig sig with
  | none => some (0x18, tapTval sig 0)
  | some g => if !g.bridged || decide (g.face c.sys.now < 0) || n != g.sampleBytes then some (0x1B, tapTval sig 0) else none

def execCpyD2t (h : Hdr) (o : LEcmd) (s : State) : Answer :=
  command (.cpyD2t h o) s
    (fun s => [s.core.devFault o.x.toNat (offA s.core o) (natC s.core o) needRead, faceFault s.core o.rec2.toNat (natC s.core o)])
    fun s => enqueue s o 1 (.copy (srcDev o s.core) (.face o.rec2.toNat) (natC s.core o) none false (0, 0)) [] [] none false

/-! ### CPYM (R317) -/

/-- The ends of a CPYM by its SUB. -/
def cpymEnds (o : LEcmd) (c : StreamCore) : CopyEnd × CopyEnd :=
  match o.sub.toNat with
  | 0 => (srcDev o c, dstSp o c)
  | 1 => (srcSp o c, .device o.x.toNat (offB c o))
  | 2 => (srcDev o c, .device (bits o.rec2.toNat 3 0) (offB c o))
  | _ => (srcSp o c, dstSp o c)

/-- With a row length of 0 the hulls are checked all the same (R317). -/
def execCpym (h : Hdr) (o : LEcmd) (s : State) : Answer :=
  let nests := fun (c : StreamCore) => (bits (natC c o) 7 0, bits (natC c o) 15 8)
  let len := fun (c : StreamCore) => bits (natC c o) 39 16
  let shift := fun (e : CopyEnd) (d : Int) => (match e with
    | .scratch at_ => .scratch (at_ + d)
    | e => e : CopyEnd)
  command (.cpym h o) s
    (fun s =>
      let c := s.core
      let es := cpymEnds o c
      let hs := nestHull (c.entry (nests c).1)
      let hd := nestHull (c.entry (nests c).2)
      let n := len c
      (match o.sub.toNat with
        | 0 => [buf2 o false c]
        | 1 => [buf1 o c]
        | 2 => []
        | _ => [buf1 o c, buf2 o false c]) ++
      [c.nestFault (nests c).1, c.nestFault (nests c).2, endDev c es.1 hs.1 hs.2 n needRead, endDev c es.2 hd.1 hd.2 n needWrite,
       endRange es.1 hs.1 hs.2 n, endRange es.2 hd.1 hd.2 n])
    fun s =>
      let c := s.core
      let es := cpymEnds o c
      let hs := nestHull (c.entry (nests c).1)
      let hd := nestHull (c.entry (nests c).2)
      let n := len c
      let tiles := fun rcd e (hull : Int × Int) => if n = 0 then [] else endTiles c rcd (shift e hull.1) ((hull.2 - hull.1).toNat + n)
      enqueue s o 1 (.copy es.1 es.2 n (some (BitVec.ofNat 256 (c.entry (nests c).1), BitVec.ofNat 256 (c.entry (nests c).2))) false (nests c))
        (tiles o.rec1.toNat es.1 hs) (tiles o.rec2.toNat es.2 hd) none false

/-! ### ADEC and the seam commands (R318 to R324) -/

/-- A command that reads n bytes at REC1, offset sA, when it issues, and writes a result at REC2, offset sB. -/
def descCmd (i : Instr) (o : LEcmd) (cls n : Nat) (kind : StreamCore → List Byte → Int → Int → CmdKind) (rl wl : StreamCore → List Byte → Int → Int → List Nat)
    (s : State) : Answer :=
  let src := fun (c : StreamCore) => c.spAt o.rec1.toNat (offA c o)
  let dst := fun (c : StreamCore) => c.spAt o.rec2.toNat (offB c o)
  command i s (fun s => [buf1 o s.core, buf2 o false s.core, spRange (src s.core) n, spRange (dst s.core) 64])
    fun s =>
      let c := s.core
      let r := readAtIssue s o.rec1.toNat (src c) n
      enqueue r.2.2.2 o cls (kind c r.1 (src c) (dst c)) (rl c r.1 (src c) (dst c)) (wl c r.1 (src c) (dst c)) r.2.1 r.2.2.1

def execAdec (h : Hdr) (o : LEcmd) (s : State) : Answer :=
  let hd := fun (b : List Byte) => 32 * (bits (leNat b) 343 341 + 1)
  let rows := fun (b : List Byte) => bits (leNat b) 340 337 + 1
  descCmd (.adec h o) o 2 64 (fun _ b src dst => .adec b src.toNat dst.toNat)
    (fun c b src _ =>
      let q := bits (leNat b) 336 329
      c.recTiles o.rec1.toNat src 64 ++ c.recTiles q (c.spAt q (bits (leNat b) 328 306 : Nat)) (2 * hd b * rows b))
    (fun c b _ dst => c.recTiles o.rec2.toNat dst (64 + 4 * hd b * rows b)) s

def execPlDec (h : Hdr) (o : LEcmd) (s : State) : Answer :=
  descCmd (.plDec h o) o 3 16 (fun c b src dst => .plDec b src.toNat (bits (natC c o) 19 0) (bits (natC c o) 39 20) dst.toNat)
    (fun c _ src _ => c.recTiles o.rec1.toNat src 16)
    (fun c _ _ dst => c.recTiles o.rec2.toNat dst (64 + 8 * 128 * bits (natC c o) 39 20)) s

/-- Bytes of a query record: its header and its term entries (R321). -/
def queryBytes (c : StreamCore) (src : Int) : Nat :=
  -- NT lies in byte 57 of the header
  let nt := bits (leNat (c.blockBytes { rcd := 0, start := src, len := 64, write := false })) 459 457
  64 + 16 * (nt + 1)

/-- PL.AND and PL.OR: the header, then the term entries, are read at issue. -/
def queryCmd (i : Instr) (o : LEcmd) (union docs : Bool) (s : State) : Answer :=
  let src := fun (c : StreamCore) => c.spAt o.rec1.toNat (offA c o)
  let dst := fun (c : StreamCore) => c.spAt o.rec2.toNat (offB c o)
  command i s (fun s => [buf1 o s.core, buf2 o false s.core, spRange (src s.core) 64, spRange (dst s.core) 64])
    fun s =>
      let c := s.core
      let n := queryBytes c (src c)
      let beyond := decide ((spBytes : Int) < src c + n)
      let r := readAtIssue s o.rec1.toNat (src c) (if beyond then 64 else n)
      let head := leNat (slice r.1 0 64)
      let size := if docs then bits head 430 408 else bits head 440 431 + 1
      enqueue r.2.2.2 o 3 (.plQuery r.1 (src c).toNat union docs (dst c).toNat) (c.recTiles o.rec1.toNat (src c) n)
        (c.recTiles o.rec2.toNat (dst c) (64 + 8 * size)) (if beyond then some { code := 2, d0 := spBytes, d1 := 0 } else r.2.1) r.2.2.1

def execPlAnd (h : Hdr) (o : LEcmd) (s : State) : Answer := queryCmd (.plAnd h o) o false false s
def execPlAndDocs (h : Hdr) (o : LEcmd) (s : State) : Answer := queryCmd (.plAndDocs h o) o false true s
def execPlOr (h : Hdr) (o : LEcmd) (s : State) : Answer := queryCmd (.plOr h o) o true false s
def execPlOrDocs (h : Hdr) (o : LEcmd) (s : State) : Answer := queryCmd (.plOrDocs h o) o true true s

/-- Tiles from an offset to the end of a record. -/
def streamTiles (c : StreamCore) (rcd off : Nat) : List Nat := c.recTiles rcd (c.spAt rcd off) (64 * recLen (c.entry rcd) - off)

def execPlFuse (h : Hdr) (o : LEcmd) (s : State) : Answer :=
  descCmd (.plFuse h o) o 3 64 (fun _ b src dst => .plFuse b src.toNat dst.toNat)
    (fun c b src _ =>
      let n := leNat b
      c.recTiles o.rec1.toNat src 64 ++ streamTiles c (bits n 511 504) (bits n 503 481) ++ streamTiles c (bits n 480 473) (bits n 472 450))
    (fun c b _ dst => c.recTiles o.rec2.toNat dst (64 + 8 * (bits (leNat b) 417 408 + 1))) s

/-! ### LAUNCH and TAGCLR (R310, R325) -/

/-- LAUNCH reads its record when it issues. -/
def launchCmd (i : Instr) (o : LEcmd) (done : Bool) (s : State) : Answer :=
  let src := fun (c : StreamCore) => c.spAt o.rec1.toNat (offA c o)
  command i s (fun s => [buf1 o s.core, spRange (src s.core) 64])
    fun s =>
      let c := s.core
      let r := readAtIssue s o.rec1.toNat (src c) 64
      enqueue r.2.2.2 o 4 (.launch r.1 (bits (c.sreg o.b.toNat).toNat 3 0) done) (c.recTiles o.rec1.toNat (src c) 64) [] r.2.1 r.2.2.1

def execLaunchAcc (h : Hdr) (o : LEcmd) (s : State) : Answer := launchCmd (.launchAcc h o) o false s
def execLaunchDone (h : Hdr) (o : LEcmd) (s : State) : Answer := launchCmd (.launchDone h o) o true s

def execTagclr (h : Hdr) (o : LEcmd) (s : State) : Answer :=
  issued (.tagclr h o) s fun s =>
    let m := s.core.sreg o.b.toNat &&& s.core.regs.tagr
    let s' := s.onPipe fun p => { p with after := p.after ++ [.tagIdle m] }
    .ok (s'.fly 1 (.sreg o.a.toNat (s.core.regs.tagErr &&& m))) (some 1)

end Sys2Proof.Machine
end

