-- ==== Sys2Proof/Machine/Launch.lean ====
section
/-! DEFINITION. Launch records: their checks, acceptance and refusal (R152, R353 to R357). -/
namespace Sys2Proof.Machine

/-! ### Reading through a function's translation (R354) -/

/-- What a read by the scheduler or the loader comes to. -/
inductive Read where
  | ok (bs : List Byte)
  | unreadable
  /-- held on a migrating page (R72) -/
  | hold
  /-- under the resolution of a request (R65) -/
  | request (id : Nat)

/-- One byte at a VA of a function, as it is at device scope (R112), read for a task or for none (R406). Where pages are translated per access (`lazy_` gives the request of such a page), a missing page is asked for; else it cannot be read. DEDUCED (log 33). -/
def readVirtByte (f : Func) (task : Nat) (lazy_ : Option Resolution) (pick va : Nat) (s : State) : Read × State :=
  let ask := fun (place : Nat × Nat) (cond : Nat) (s : State) => match lazy_ with
    | none => (Read.unreadable, s)
    | some r =>
      let q := raiseRequest s f.num { r with access := va, va := place.2, stage := place.1, cond := cond }
      (Read.request q.2, q.1)
  match translate s f pick va with
  | .page p =>
    if p.mg then (.hold, s)
    else if !p.rd then ask (p.faultPlace va (!p.firstStage.rd)) 1 s
    else if (lazy_.map fun r => decide (r.lcreq < p.cls r.die)).getD false then ask (p.faultPlace va ((lazy_.map fun r => decide (r.lcreq < p.firstStage.lc)).getD true)) 2 s
    else if unowned s pick p.pa then (.unreadable, s)
    else (.ok [peek (devImage s) (routed s pick p.pa)], markLeaves 4 p.leaves s)
  | .bad stage level addr e => (.unreadable, emitBadEntry s f.num noneId task stage level addr e)
  | .absent stage addr _ => ask (stage, addr) 0 s
  | .held => (.hold, s)

/-- n bytes from a VA. -/
def readVirt (f : Func) (task : Nat) (lazy_ : Option Resolution) (pick : Nat) : Nat → Nat → State → Read × State
  | _, 0, s => (.ok [], s)
  | va, n + 1, s => match readVirtByte f task lazy_ pick va s with
    | (.ok bs, s) =>
      let r := readVirt f task lazy_ pick (va + 1) n s
      (match r.1 with
      | .ok cs => .ok (bs ++ cs)
      | x => x, r.2)
    | r => r

/-! ### The record and the task block (R152, R353, R354) -/

/-- Widths of a WID field. -/
def widWidths (w : Nat) : List Nat := (List.range 6).map fun j => bits w (7 * j + 6) (7 * j)
/-- F of a WID field. -/
def widFields (w : Nat) : Nat := bits w 44 42

/-- The conditions of R152. -/
def layoutOk (widths counts : List Nat) (F : Nat) : Bool :=
  1 ≤ F && F ≤ 6 && widths.foldl (· + ·) 0 ≤ 64 &&
    (List.range 6).all fun j =>
      if j < F then nth widths j 0 != 0 && decide (1 ≤ nth counts j 1) && decide (nth counts j 1 ≤ 2 ^ nth widths j 0)
      else nth widths j 0 == 0 && nth counts j 1 == 1

/-- Does a descriptor keep R58? -/
def extentOk (code : Bool) (d : Nat) : Bool :=
  bits d 255 176 % 64 == 0 && bits d 175 128 != 0 && (!bit d 125 || (bit d 127 && bit d 126)) && bit d 121 == code && bits d 120 0 == 0

/-- The code extent descriptor of a task block, and operand extent descriptor x. -/
def blockCode (b : List Byte) : Nat := leNat (slice b 64 32)
def blockExt (b : List Byte) (x : Nat) : Nat := leNat (slice b (96 + 32 * x) 32)
def blockCounts (b : List Byte) : List Nat := (List.range 6).map fun j => leNat (slice b (8 * j) 8) + 1

/-- Names a record waits for. -/
def recordDeps (r : Nat) : List Nat := (List.range 4).map fun k => bits r (317 - 16 * k) (302 - 16 * k)

/-- Live tasks of a partition (R356). -/
def maxTasks : Nat := 4096

/-- The lowest free task number. -/
def freeNumber (f : Func) : Nat := ((List.range maxTasks).find? fun n => !(f.tasks.any fun t => t.num == n)).getD 0

/-- The task an accepted record makes. -/
def taskOfRecord (f : Func) (queue now r : Nat) (b : List Byte) (doneTag : Option (Nat × Nat)) : Task :=
  let deps := (recordDeps r).filter fun n => n != 0
  let met := f.tasks.filter fun t => deps.contains t.name
  { num := freeNumber f, name := bits r 333 318, queue := queue, prio := bits r 381 374, deadline := bits r 373 342, accepted := now
    demand := bits r 341 334 + 1, budget := bits r 253 206, widths := widWidths (bits r 431 387), counts := blockCounts b, fields := widFields (bits r 431 387)
    delivered := 0, returned := [], reqs := [], codeDesc := BitVec.ofNat 256 (blockCode b), extDescs := (List.range (bits r 386 382)).map fun x => BitVec.ofNat 256 (blockExt b x)
    edges := (met.filter fun t => t.ended.isNone).map fun t => t.num
    upstream := met.any fun t => match t.ended with
      | some status => status != 0
      | none => false
    binds := 0, saved := [], doneTag := doneTag, ended := none, dispatches := 0, killed := false, killReq := false, unloadable := false }

/-- The first check of R356 that fails, once the block has been read or not. DEDUCED (log 33). -/
def recordRefusal (f : Func) (r : Nat) (block : Option (List Byte)) : Option Nat :=
  let nx := bits r 386 382
  if bits r 205 0 != 0 || 16 < nx then some 1
  else match block with
    | none => some 3
    | some b =>
      if !layoutOk (widWidths (bits r 431 387)) (blockCounts b) (widFields (bits r 431 387)) then some 2
      else if (slice b 48 16).any fun x => x != 0 then some 3
      else if !extentOk true (blockCode b) || !((List.range nx).all fun x => extentOk false (blockExt b x)) then some 4
      else if bits r 333 318 != 0 && f.tasks.any fun t => t.name == bits r 333 318 then some 5
      else if maxTasks ≤ f.tasks.length then some 6
      else none

/-- What the submission of a record comes to: the task number, the refusal, or a wait for a migration to end (R72). -/
inductive Submit where
  | accepted (num : Nat)
  | refused (reason : Nat)
  | held

/-- Submit a record to a queue (R355 to R357). DEDUCED (log 33). -/
def submitRecord (s : State) (fn queue : Nat) (rec : List Byte) (doneTag : Option (Nat × Nat)) : Submit × State :=
  match fnOf s fn with
  | none => (.refused 1, s)
  | some f0 =>
    let r := leNat (slice rec 0 64)
    let nx := bits r 386 382
    let d := draw s
    let read := if bits r 205 0 != 0 || 16 < nx || bits r 511 432 % 64 != 0 then (Read.unreadable, s) else readVirt f0 noneId none d.1 (bits r 511 432) (96 + 32 * nx) d.2
    let block := match read.1 with
      | .ok bs => some bs
      | _ => none
    match read.1, fnOf read.2 fn with
    | .hold, _ => (.held, read.2)
    | _, none => (.refused 1, read.2)
    | _, some f =>
      let s := read.2
      match recordRefusal f r block with
      | some k => (.refused k, emitLaunchRefused s fn k queue (bits r 511 432))
      | none =>
        let t := taskOfRecord f queue s.wall r (block.getD []) doneTag
        let s := onFn s fn fun f => { f with tasks := f.tasks ++ [t], queues := modifyNth f.queues queue fun q => q ++ [t.num] }
        let s := if t.upstream then completeTask maxTasks s fn t 2 else if t.edges.isEmpty then raiseArrive s fn t else s
        (.accepted t.num, s)

end Sys2Proof.Machine
end

