-- ==== Sys2Proof/Machine/EngineRun.lean ====
section
/-! DEFINITION. How engine commands run: units read and written one at a time, compression, errors, completion (R48, R49, R104, R118 to R120, R125, R308, R315 to R326). -/
namespace Sys2Proof.Machine

/-! ### Copies (R316, R317) -/

/-- A byte a copy moves: space and place of its source and of its destination. -/
structure Move where
  ssp : Nat
  soff : Nat
  dsp : Nat
  doff : Nat

/-- Space and first place of an end. A face is addressed by the byte of its sample. -/
def CopyEnd.base : CopyEnd → Nat × Int
  | .device x off => (x, off)
  | .scratch e => (16, e)
  | .face _ => (17, 0)

/-- The moves of one row. -/
def rowMoves (src dst : CopyEnd) (n : Nat) (ds dd : Int) : List Move :=
  (List.range n).map fun i =>
    { ssp := src.base.1, soff := (src.base.2 + ds + (i : Nat)).toNat, dsp := dst.base.1, doff := (dst.base.2 + dd + (i : Nat)).toNat }

/-- Product of all trip counts of a nest. -/
def allTrips (e : Nat) : Nat := tripsBelow e 6

/-- The moves of a copy in increasing position, or none where the trip products differ. -/
def copyMoves (src dst : CopyEnd) (n : Nat) : Option (Entry256 × Entry256) → Option (List Move)
  | none => some (rowMoves src dst n 0 0)
  | some (a, b) =>
    if n = 0 then some []
    else if allTrips a.toNat != allTrips b.toNat then none
    else some ((List.range (allTrips a.toNat)).flatMap fun p => rowMoves src dst n (posOff a.toNat p) (posOff b.toNat p))

/-- Writes grouped by aligned unit (R104); in a unit a later write of a byte wins. -/
def unitWrites (sp : Nat) (ws : List (Nat × Byte)) : List UnitWrite :=
  ((ws.map fun w => w.1 / 64).eraseDups).map fun u => { space := sp, ws := ws.filter fun w => w.1 / 64 == u }

/-- Writes of a compressing copy from the start of a region on: the tiles of its stream in order, one that the stream breaks off in as far as it goes; and the error of a stream that is not whole regions (R49, R316). -/
def tileWrites (e : Nat) (bs : List Byte) : List UnitWrite × Option CmdError :=
  if e % 65536 ≠ 0 then ([], some { code := 4, d0 := e, d1 := 0 })
  else
    ((List.range ((bs.length + 4095) / 4096)).map fun t => { space := 18, ws := withKeys (e + 4096 * t) (slice bs (4096 * t) (min 4096 (bs.length - 4096 * t))) },
     if bs.length % 65536 = 0 then none else some { code := 4, d0 := e + bs.length / 65536 * 65536, d1 := 0 })

/-! ### Compression (R46 to R49) -/

/-- A tile's 1,024 words, each with its bytes. -/
def tileWords (bs : List Byte) : List (List Byte) := (List.range 1024).map fun w => slice bs (4 * w) 4

/-- Is a word of a tile nonzero? -/
def wordSet (w : List Byte) : Bool := w.any fun b => b != 0

/-- Encode a tile: MODE, LEN and stored bytes (R48). -/
def encodeTile (bs : List Byte) : Nat × Nat × List Byte :=
  let ws := tileWords bs
  let on := ws.filter wordSet
  let nz := on.length
  let len := 2 + (4 * nz + 63) / 64
  if nz = 0 then (0, 0, [])
  else if len < 64 then
    let mask := packNat 1 (ws.map fun w => if wordSet w then 1 else 0)
    let payload := on.flatten
    (1, len, leBytes 128 mask ++ payload ++ List.replicate (64 * (len - 2) - payload.length) 0)
  else (2, 64, bs)

/-- Open a region: its summary bit is set, its granules are valid, its tiles are zero tiles (R49). -/
def Scratch.openRegion (sp : Scratch) (n : Nat) : Scratch :=
  { sp with
    tentative := { sp.tentative with bytes := sp.tentative.bytes.filter fun r => r.key / 65536 != n, valid := sp.tentative.valid.filter fun r => r.key / 1024 != n }
    summary := sp.summary.set n 1
    valid := Store.setAll ((List.range 1024).map fun g => (1024 * n + g, 1#1)) sp.valid
    table := sp.table.keep fun k => decide (k / 16 ≠ n) }

/-- Close a region for a raw write of all of it (R49, R50). -/
def Scratch.closeRegion (sp : Scratch) (n : Nat) : Scratch := { sp with summary := sp.summary.set n 0, table := sp.table.keep fun k => decide (k / 16 ≠ n) }

/-- The tile at e of a compressed stream: the first tile of a region opens it, and a tile that is whole is appended to it, encoded; one that the stream breaks off in is not installed (R49). -/
def Scratch.installTile (sp : Scratch) (e : Nat) (bs : List Byte) : Scratch :=
  let n := e / 65536
  let t := e % 65536 / 4096
  let sp := if t = 0 then sp.openRegion n else sp
  if bs.length < 4096 then sp
  else
  let start := ((List.range t).map fun i => bits (sp.table.get (16 * n + i)).toNat 19 13).foldl (· + ·) 0
  let r := encodeTile bs
  let sp := sp.write (withKeys (65536 * n + 64 * start) r.2.2)
  { sp with table := sp.table.set (16 * n + t) (BitVec.ofNat 32 (r.1 * 2 ^ 30 + (if r.1 = 0 then 0 else start) * 2 ^ 20 + r.2.1 * 2 ^ 13)) }

/-! ### What a command does with what it has read -/

/-- What comes next: units to read, each by its first byte that is needed, or writes and the way it ends. -/
inductive Plan where
  | need (us : List Nat)
  | write (ws : List UnitWrite) (err : Option CmdError) (insert : Option (Nat × List Tuple))

/-- The result header of a seam command that ends with an error (R322). -/
def errorHeader (out code : Nat) : List (Nat × Byte) := resultBytes out code 0xFF800000 []

/-- Where a seam command's result lies. -/
def CmdKind.result : CmdKind → Option Nat
  | .plDec _ _ _ _ out => some out
  | .plQuery _ _ _ _ out => some out
  | .plFuse _ _ out => some out
  | _ => none

/-- A PL.DEC header has word 2 zero (R323). -/
def CmdKind.isDec : CmdKind → Bool
  | .plDec _ _ _ _ _ => true
  | _ => false

/-- Writes of a command that ends with an error before it has written anything: a seam command writes its header, unless an upstream error lets it make no access (R309, R322). -/
def errorWrites (k : Cmd) (e : CmdError) : List UnitWrite :=
  match k.kind.result with
  | some out => if e.code = 10 then [] else unitWrites 16 (if k.kind.isDec then resultBytes out e.code 0 [] else errorHeader out e.code)
  | none => []

/-- The plan of a computation that writes a result. DEDUCED (log 32). -/
def planOf (k : Cmd) (t : Take EngineOut) : Plan :=
  match t with
  | .need us => .need us
  | .fail e => .write (errorWrites k e) (some e) none
  | .ok r => .write (unitWrites 16 r.ws) r.err r.insert

/-- What a command does next, given what it has read. -/
def Cmd.plan (k : Cmd) (c : StreamCore) (seen : List Nat) (got : Store 8) : Plan :=
  let g : Got := { seen := seen, bytes := got, tiles := k.rlocks ++ k.wlocks }
  match k.kind with
  | .copy src dst n nests comp ix =>
    (match copyMoves src dst n nests with
    | none => .write [] (some { code := 13, d0 := ix.1, d1 := ix.2 }) none
    | some ms =>
      match (ms.map fun m => byteKey m.ssp m.soff).filter fun b => !seen.contains (b / 64) with
      | [] =>
        let bs := ms.map fun m => got.get (byteKey m.ssp m.soff)
        if comp then
          let r := tileWrites (match ms with
            | m :: _ => m.doff
            | [] => 0) bs
          .write r.1 (if ms.isEmpty then none else r.2) none
        else
          let ws := (ms.map fun m => m.doff).zip bs
          (match dst with
          | .face _ => .write [{ space := 17, ws := ws }] none none
          | _ => .write (unitWrites dst.base.1 ws) none none)
      | us => .need us)
  | .adec desc descOff out =>
    if adecBad c (leNat desc) then .write [] (some { code := 14, d0 := descOff, d1 := 0 }) none
    else planOf k ((adecRun g c (leNat desc) out).bind fun ws => .ok { ws := ws, err := none, insert := none })
  | .plDec entry descOff first count out => planOf k (decRun g c entry descOff first count out)
  | .plQuery head descOff union docs out => planOf k (queryRun g c head descOff union docs out)
  | .plFuse desc descOff out => planOf k (fuseRun g c desc descOff out)
  | .launch _ _ _ => .write [] none none

/-! ### Progress -/

/-- Change a command of a core; its next step comes at a time of its own. -/
def onCmd (s : State) (cid uid : Nat) (f : Cmd → Cmd) : State :=
  let d := draw s
  onCore d.2 cid fun c => { c with dev := { c.dev with cmds := c.dev.cmds.map fun k => if k.uid = uid then { f k with due := s.wall + d.1 } else k } }

def setCmd (s : State) (cid uid : Nat) (st : CmdStage) : State := onCmd s cid uid fun k => { k with stage := st, resolving := none }

/-- Wait for a resolution, or for a migration to end; it is tried again no earlier than the next wall cycle. -/
def holdCmd (s : State) (cid uid : Nat) (r : Option Nat) : State :=
  let d := draw s
  onCore d.2 cid fun c => { c with dev := { c.dev with cmds := c.dev.cmds.map fun k => if k.uid = uid then { k with resolving := some r, due := s.wall + 1 + d.1 } else k } }

/-- Keep a free choice of a list of writes: those an error completion has made (R326). -/
def someOf (s : State) (ws : List UnitWrite) : List UnitWrite := (ws.mapIdx fun i w => if Config.freeNat (s.draws + i) % 2 = 0 then [w] else []).flatten

/-- The writes of a list that a raw write may make: no byte beyond the scratchpad or in a compressed region (R49, R326). -/
def rawWrites (s : State) (cid : Nat) (ws : List UnitWrite) : List UnitWrite :=
  match coreOf s cid with
  | some c => ws.filter fun w => w.space != 16 || w.ws.all fun x => decide (x.1 < spBytes) && !c.sp.compressed x.1
  | none => ws

/-- A command ends with an error after its writes so far: one that has written nothing writes its header, unless that cannot be written either (R322). -/
def failCmd (s : State) (cid : Nat) (k : Cmd) (e : CmdError) : State :=
  setCmd s cid k.uid (match k.stage with
    | .writing _ _ _ => .finished (some e) none
    | _ => match rawWrites s cid (errorWrites k e) with
      | [] => .finished (some e) none
      | ws => .writing ws (some e) none)

/-- One berm touch for each command (R41). -/
def touchCmd (s : State) (cid : Nat) (k : Cmd) (write : Bool) (e : Nat) : State :=
  if k.touched then s
  else onCore s cid fun c =>
    let c := touchEngine write e c
    { c with dev := { c.dev with cmds := c.dev.cmds.map fun x => if x.uid = k.uid then { x with touched := true } else x } }

/-- Bytes of a unit, as read. DEDUCED (log 31). -/
def gotUnit (seen : List Nat) (got : Store 8) (u : Nat) (bs : List Byte) : CmdStage := .reading (u :: seen) (Store.setAll (withKeys (64 * u) bs) got)

/-- The core's own stores issued before a command and not yet current, with the values of its releases, in program order (R118). -/
def issuedBytes (s : State) (c : StreamCore) (seq : Nat) : List (Nat × Byte) :=
  let released := (c.dev.vars.filter fun v => v.kind == .release && v.isOpen).map fun v =>
    ({ seq := v.seq, phase := 0, x := v.x, off := v.off, bytes := leBytes v.n v.a.toNat, req := none } : PendStore)
  bytesOfStores s c ((c.dev.stores ++ released).filter fun p => decide (p.seq < seq))

/-- Read a unit of an extent: the core's own stores issued before the command, over current memory at system scope, where what the core has read is current by then: its command comes after what its acquires came after (R79, R103, R118). DEDUCED (log 12). -/
def readDevice (s : State) (c : StreamCore) (k : Cmd) (seen : List Nat) (got : Store 8) (u : Nat) : State :=
  let x := u / 2 ^ 58
  let off := u % 2 ^ 58 * 64
  let cid := c.seat.cid
  let r := lookPage s c x ((c.dev.extent x).base + off) needRead
  match r.1 with
  | .at_ pa =>
    let pas := (List.range 64).map (pa + ·)
    let s := settleSeen r.2 cid
    let img := engineView s cid k.seq
    setCmd s cid k.uid (gotUnit seen got u (overBytes (issuedBytes s c k.seq) pas (pas.map (peek img))))
  | .refused _ => failCmd r.2 cid k { code := 1, d0 := x, d1 := off }
  | .request q => holdCmd r.2 cid k.uid (some q)
  | .hold => holdCmd r.2 cid k.uid none

/-- Read a granule of the scratchpad of which byte `first` is the first that is needed (R41, R42, R48, R421). Of an uncorrectable one in a compressed region the error names the offset read, and the event that of the granule that holds it: the manual says only that both give an offset (R34). DESIGN CHOICE (log 51). -/
def readScratch (s : State) (c : StreamCore) (k : Cmd) (seen : List Nat) (got : Store 8) (u first : Nat) : State :=
  let e := u % 2 ^ 58 * 64
  let cid := c.seat.cid
  if c.bermAt e then setCmd (touchCmd s cid k false first) cid k.uid (gotUnit seen got u [])
  else if !(k.rlocks.contains (e / 4096) || k.wlocks.contains (e / 4096)) then setCmd s cid k.uid (gotUnit seen got u [])
  else
    let gs := ((List.range 16).flatMap fun w => c.sp.granulesOf (e + 4 * w)).eraseDups
    match gs.find? fun g => c.sp.lost g with
    | some g => failCmd (emitSoft s c 4 (g % 16) (g / 16) (64 * g) (c.sp.counts.get (g % 16)).toNat) cid k { code := 5, d0 := e, d1 := 0 }
    | none => setCmd (readGranules s cid gs) cid k.uid (gotUnit seen got u ((List.range 64).map fun i => c.sp.byte (e + i)))

/-- May the command write a scratchpad byte: one of its locked tiles, outside every berm (R41, R421)? -/
def StreamCore.writable (c : StreamCore) (k : Cmd) (e : Nat) : Bool := !c.bermAt e && k.wlocks.contains (e / 4096)

/-- Bytes of the scratchpad that a list of writes without compression reaches. -/
def spWrites (ws : List UnitWrite) : List Nat := (ws.filter fun w => w.space == 16).flatMap fun w => w.ws.map fun x => x.1

/-- Does a list of bytes cover a region whole? -/
def coversRegion (es : List Nat) (n : Nat) : Bool := (es.filter fun e => e / 65536 == n).eraseDups.length == 65536

/-- The writes of a command that is found, as it begins to write, to end with an error: a seam command's header, unless that cannot be written either, and of any other command a free choice of what it may write; the first error met stays the command's (R322, R326). -/
def failWrites (s : State) (cid : Nat) (k : Cmd) (ws : List UnitWrite) (err : Option CmdError) (e : CmdError) : State :=
  let e := err.getD e
  match k.kind.result with
  | some _ => failCmd s cid k e
  | none => setCmd { s with draws := s.draws + ws.length } cid k.uid (.writing (someOf s (rawWrites s cid ws)) (some e) none)

/-- Begin the writes: a byte beyond the scratchpad is an error (R326); a region written whole is uncompressed, any other write into a compressed region is an error (R49). DEDUCED (log 31). -/
def beginWrites (s : State) (c : StreamCore) (k : Cmd) (ws : List UnitWrite) (err : Option CmdError) (insert : Option (Nat × List Tuple)) : State :=
  let cid := c.seat.cid
  let es := spWrites ws
  match es.filter fun e => decide (spBytes ≤ e) with
  | e :: far => failWrites s cid k ws err { code := 2, d0 := far.foldl min e, d1 := 0 }
  | [] =>
    let es := es.filter fun e => c.sp.compressed e && c.writable k e
    let packed := (es.map fun e => e / 65536).eraseDups
    match es.filter fun e => !coversRegion es (e / 65536) with
    | [] =>
      let s := if packed.isEmpty then s else onCore s cid fun c => { c with sp := packed.foldl Scratch.closeRegion c.sp }
      setCmd s cid k.uid (.writing ws err insert)
    | e :: bad => failWrites s cid k ws err { code := 3, d0 := bad.foldl min e, d1 := 0 }

/-- Write one unit; the others stay to be written. DEDUCED (log 31). -/
def writeUnit (s : State) (c : StreamCore) (k : Cmd) (w : UnitWrite) (rest : List UnitWrite) (err : Option CmdError) (insert : Option (Nat × List Tuple)) : State :=
  let cid := c.seat.cid
  let go := fun (s : State) => setCmd s cid k.uid (.writing rest err insert)
  if w.space < 16 then
    match w.ws with
    | [] => go s
    | (off, _) :: _ =>
      let r := lookPage s c w.space ((c.dev.extent w.space).base + off) needWrite
      match r.1 with
      | .at_ pa =>
        let ws := w.ws.map fun x => (pa + x.1 - off, x.2)
        let s := writeSys r.2 ws
        go (onCmd s cid k.uid fun k => { k with wrote := k.wrote ++ ws.map fun x => { seq := k.seq, stamp := s.stamp, pa := x.1, val := x.2 } })
      | .refused _ => failCmd r.2 cid k { code := 1, d0 := w.space, d1 := off }
      | .request q => holdCmd r.2 cid k.uid (some q)
      | .hold => holdCmd r.2 cid k.uid none
  else if w.space = 16 then
    let berm := w.ws.find? fun x => c.bermAt x.1
    let s := match berm with
      | some x => touchCmd s cid k true x.1
      | none => s
    let ws := w.ws.filter fun x => c.writable k x.1
    go (if ws.isEmpty then s else onCore s cid fun c => { c with sp := c.sp.write ws })
  else if w.space = 17 then
    match k.kind with
    | .copy _ (.face sig) _ _ _ _ =>
      let cls := ((c.sig sig).map fun g => (setBits 8 g.clusters, g.vecs)).getD ([], 0)
      let n := cls.2 + 1
      let bs := w.ws.map fun x => x.2
      let words := (List.range (bs.length / 4)).map fun i => (tapKey (nth cls.1 (i / (16 * n)) 0) (i / 16 % n) (i % 16), BitVec.ofNat 32 (leNat (slice bs (4 * i) 4)))
      go (onCore s cid fun c => onSig c sig fun g => g.onFace fun f => Store.setAll words f)
    | _ => go s
  else
    match w.ws with
    | [] => go s
    | (e, _) :: _ =>
      let s := match w.ws.find? fun x => c.bermAt x.1 with
        | some x => touchCmd s cid k true x.1
        | none => s
      go (if w.ws.all fun x => c.writable k x.1 then onCore s cid fun c => { c with sp := c.sp.installTile e (w.ws.map fun x => x.2) } else s)

/-- Try a command again, no earlier than the next wall cycle. -/
def delayCmd (s : State) (cid uid : Nat) : State :=
  let d := draw s
  onCore d.2 cid fun c => { c with dev := { c.dev with cmds := c.dev.cmds.map fun k => if k.uid = uid then { k with resolving := none, due := s.wall + 1 + d.1 } else k } }

/-- Is everything a release at this place would publish current (R113, R125)? -/
def StreamCore.published (c : StreamCore) (seq : Nat) : Bool := !c.lateBefore seq && !(c.dev.vars.any fun v => v.isOpen && v.writes && decide (v.seq < seq))

/-- Present a launch record (R125, R325): what the core would publish by a release, and what it has read, is current first, at once at system scope, which the first snapshot of the task it makes is taken at (R105, R113, R117). DEDUCED (log 33). -/
def presentLaunch (s : State) (c : StreamCore) (k : Cmd) (rec : List Byte) (queue : Nat) (done : Bool) : State :=
  let cid := c.seat.cid
  let s := settleSeen (settleAll (publish s cid 4 true fun p => decide (p.seq < k.seq)) cid) cid
  if !((coreOf s cid).map fun c => c.published k.seq).getD true then delayCmd s cid k.uid
  else
    let r := submitRecord s c.seat.fn queue rec (if done then some (cid, k.uid) else none)
    match r.1 with
    | .accepted num =>
      if done then
        match taskOf r.2 c.seat.fn num with
        | some t => (match t.ended with
          | some status => setCmd r.2 cid k.uid (.finished (if status = 0 then none else some { code := 16, d0 := status, d1 := num }) none)
          | none => setCmd r.2 cid k.uid (.waitTask num))
        | none => r.2
      else setCmd r.2 cid k.uid (.finished none none)
    | .refused _ => setCmd r.2 cid k.uid (.finished (some { code := 11, d0 := queue, d1 := 0 }) none)
    | .held => holdCmd r.2 cid k.uid none

/-- Pick one of a list by a free value, the first where the order is fixed. DEDUCED (log 31). -/
def pickFree {α : Type} (s : State) (ordered : Bool) (l : List α) : Nat := if ordered || l.isEmpty then 0 else freeNow s % l.length

/-- A copy of no bytes makes no access and completes at once (R316, R317). -/
def CmdKind.isNothing : CmdKind → Bool
  | .copy _ _ 0 _ _ _ => true
  | _ => false

/-- Issue slots of an engine class that a core has in 4,096 cycles: SLICE/256 of them, at least 1/256 (R155, R166). -/
def slotShare (c : StreamCore) : Nat := 16 * max 1 c.seat.slice

/-- Wall cycles within which a command that may start now is granted an issue slot of its engine class: 4,096, counted from now or, where as many of the core's commands of the class as its share have slots still to come, from the last but that many of those slots. So no window of 4,096 cycles in which a command waits has fewer slots than the share (R166). No bound for the scheduler's commands. -/
def slotBound (wall : Nat) (c : StreamCore) (k : Cmd) : Option Nat :=
  if 3 < k.cls then none
  else
    let slots := sortBy (fun a b => decide (b < a)) ((c.dev.cmds.filter fun e => e.cls == k.cls && e.granted && e.stage == .queued).map fun e => e.due - wall)
    some (4096 + nth slots (slotShare c - 1) 0)

/-- Grant a command an issue slot: when within the bound is a free choice (R166). DEDUCED (log 48). -/
def grantSlot (s : State) (c : StreamCore) (k : Cmd) : State :=
  let d := draw s
  let n := match slotBound s.wall c k with
    | some b => d.1 % b
    | none => d.1
  onCore d.2 c.seat.cid fun c => { c with dev := { c.dev with cmds := c.dev.cmds.map fun x => if x.uid = k.uid then { x with granted := true, due := s.wall + n } else x } }

/-- A command that has its issue slot starts. -/
def startCmd (s : State) (c : StreamCore) (k : Cmd) : State :=
  let cid := c.seat.cid
  match k.upstream, k.found, k.kind with
  | some t, _, _ => failCmd s cid k { code := 10, d0 := t, d1 := 0 }
  | none, some e, _ => failCmd s cid k e
  | none, none, .launch rec queue done => presentLaunch s c k rec queue done
  | none, none, _ => setCmd s cid k.uid (.reading [] [])

/-- One step of a command that may proceed. -/
def runCmd (s : State) (c : StreamCore) (k : Cmd) : State :=
  let cid := c.seat.cid
  match k.stage with
  | .queued =>
    if k.kind.isNothing && k.upstream.isNone then
      onCore s cid fun c => { c with dev := { c.dev with cmds := c.dev.cmds.map fun x => if x.uid = k.uid then { x with stage := .finished none none } else x } }
    else if k.granted then startCmd s c k else grantSlot s c k
  | .reading seen got =>
    (match k.plan c seen got with
    | .need bs =>
      let u := nth bs (pickFree s false bs) 0 / 64
      let first := (bs.filter fun b => b / 64 == u).foldl min (64 * u + 63)
      let s := { s with draws := s.draws + 1 }
      if u / 2 ^ 58 = 16 then readScratch s c k seen got u (first % 2 ^ 64) else readDevice s c k seen got u
    | .write ws err insert => beginWrites s c k ws err insert)
  | .writing left err insert =>
    (match left with
    | [] => setCmd s cid k.uid (.finished err insert)
    | w :: ws =>
      let i := pickFree s (w.space == 18) left
      writeUnit { s with draws := s.draws + 1 } c k (nth left i w) (if i = 0 then ws else left.eraseIdx i) err insert)
  | _ => s

/-! ### What may proceed -/

/-- The class in which a command's tag keeps the issue order: its engine class; LAUNCH.acc and LAUNCH.done make one each, so that a tag set at acceptance does not wait for a task to complete (R165, R308, R325). DEDUCED (log 32). -/
def Cmd.order (k : Cmd) : Nat :=
  match k.kind with
  | .launch _ _ true => 5
  | _ => k.cls

/-- Is a later command of the class held back by an earlier one (R165)? One that waits for a consumed tag holds nobody back. DEDUCED (log 32). -/
def orderHeld (c : StreamCore) (k : Cmd) : Bool := c.dev.cmds.any fun e => e.order == k.order && decide (e.uid < k.uid) && e.waits.isEmpty

/-- Does a list of writes meet a tile of the command? -/
def Cmd.touches (k : Cmd) (ws : List (Nat × Byte)) : Bool := ws.any fun w => k.rlocks.contains (w.1 / 4096) || k.wlocks.contains (w.1 / 4096)

/-- Is a store of the core's own slots still in flight to one of the command's tiles of its own scratchpad, by a buffer record or by a window record that names the core itself (R52)? -/
def storeInFlight (s : State) (c : StreamCore) (k : Cmd) : Bool :=
  ((c.pipe.flights ++ c.pipe.held1 ++ c.pipe.held2).any fun f => match f.eff with
    | .store ws => k.touches ws
    | _ => false)
  || s.windows.any fun w => w.cid == some c.seat.cid && w.dest.contains c.seat.cid && k.touches w.ws

/-- May the command start: its tags are there, its locks granted and the stores to its tiles landed (R51, R52, R120, R309)? DEDUCED (log 39). -/
def mayStart (s : State) (c : StreamCore) (k : Cmd) : Bool :=
  k.waits.isEmpty && !(c.dev.cmds.any fun e => decide (e.uid < k.uid) && e.excludes k) && !storeInFlight s c k

/-- Does the command run on its engine: granted a slot, not at its end? -/
def Cmd.runs (k : Cmd) : Bool := k.granted && (match k.stage with
  | .finished _ _ => false
  | .waitTask _ => false
  | _ => true)

/-- Has the function's quota of the engine class on the core's die room for one more command (R40, R412)? The scheduler has none. DEDUCED (log 48). -/
def quotaLeft (s : State) (c : StreamCore) (k : Cmd) : Bool :=
  match fnOf s c.seat.fn with
  | none => true
  | some f =>
    decide (3 < k.cls) ||
      decide ((((allCores s).filter fun d => d.seat.fn == c.seat.fn && d.seat.die == c.seat.die).flatMap fun d => d.dev.cmds.filter fun x => x.cls == k.cls && x.runs).length
        < (f.engineQuotas.extractLsb' (8 * (k.cls - 1)) 8).toNat)

/-- May a queued command take its next step: it may start, and has its slot or finds room in the quota? -/
def mayProceed (s : State) (c : StreamCore) (k : Cmd) : Bool := mayStart s c k && (k.granted || k.kind.isNothing || quotaLeft s c k)

/-- May the command take a step of its own on this wall cycle? -/
def mayRun (s : State) (c : StreamCore) (k : Cmd) : Bool :=
  decide (k.due ≤ s.wall) && (match k.resolving with
    | some (some _) => false
    | _ => true) && (match k.stage with
    | .queued => mayProceed s c k
    | .reading _ _ => true
    | .writing _ _ _ => true
    | _ => false)

/-- May the command complete? -/
def mayFinish (wall : Nat) (c : StreamCore) (k : Cmd) : Bool :=
  decide (k.due ≤ wall) && !orderHeld c k && (match k.stage with
    | .finished _ _ => true
    | _ => false)

/-- Complete a command: PL.FUSE finds on this cycle which insertions its front refuses (R324). -/
def completeCmd (s : State) (c : StreamCore) (k : Cmd) (err : Option CmdError) (insert : Option (Nat × List Tuple)) : State :=
  let cid := c.seat.cid
  match insert, k.kind.result with
  | some (n, ts), some out =>
    -- insertions of commands that have completed before it and are not yet visible are made first
    let f := c.dev.tagDone.foldl (fun f d => match d.insert with
      | some (m, us) => if m = n then (f.insertDrop us).1 else f
      | none => f) (c.front n)
    if (f.insertDrop ts).2 = 0 then finishCommand s cid k err insert
    else
      let ws := (withKeys (out + 4) (leBytes 4 12)).filter fun x => c.writable k x.1
      finishCommand (onCore s cid fun c => { c with sp := c.sp.write ws }) cid k (some { code := 12, d0 := n, d1 := 0 }) insert
  | _, _ => finishCommand s cid k err insert

/-- The core that a command belongs to. -/
def cmdOf (s : State) (uid : Nat) : Option (StreamCore × Cmd) :=
  (allCores s).findSome? fun c => (c.dev.cmds.find? fun k => k.uid == uid).map fun k => (c, k)

/-- Completion of an engine command (R308). -/
def execEngineCommandCompletion (uid : Nat) (s : State) : Answer :=
  match cmdOf s uid with
  | none => .refused (.notEnabled "ENGINE_COMMAND_COMPLETION")
  | some (c, k) => match k.stage with
    | .finished err insert => if orderHeld c k then .refused (.notEnabled "ENGINE_COMMAND_COMPLETION") else .next (completeCmd s c k err insert)
    | _ => .refused (.notEnabled "ENGINE_COMMAND_COMPLETION")

end Sys2Proof.Machine
end

