-- ==== Sys2Proof/Machine/Loader.lean ====
section
/-! DEFINITION. The loader and the dispatch of a bind: the code object and its checks, translation of the extents, first contexts and restores (R5, R6, R28, R39, R40, R59 to R61, R151, R155, R163, R190, R203, R389, R422). -/
namespace Sys2Proof.Machine

/-! ### The code object (R422) -/

/-- The directory of a code object. -/
structure Directory where
  entry : Nat
  codeLen : Nat
  sigOff : Nat
  sigN : Nat
  recN : Nat
  imgN : Nat
  recOff : Nat
  imgOff : Nat

/-- Read a directory; `top` is its own offset. A code image that overlaps the directory is refused, and an empty table may stand at any offset that is a multiple of 64. An ENTRY at or beyond CODELEN is accepted: the table asks only for a multiple of 16. DESIGN CHOICE (log 59). -/
def directoryOf (b : List Byte) (top : Nat) : Option Directory :=
  let w := fun (i n : Nat) => leNat (slice b i n)
  let d : Directory := { entry := w 8 8, codeLen := w 16 8, sigOff := w 24 8, sigN := w 32 2, recN := w 34 2, imgN := w 36 2, recOff := w 40 8, imgOff := w 48 8 }
  let table := fun (off size n : Nat) => off % 64 == 0 && (n == 0 || decide (off + size * n ≤ top))
  if w 0 4 == 0x31424D4F && w 4 4 == 0 && w 38 2 == 0 && w 56 8 == 0 && d.entry % 16 == 0 && d.codeLen % 16 == 0 && decide (d.codeLen ≤ top) &&
      decide (d.sigN ≤ 256) && decide (d.recN ≤ 256) && table d.sigOff 16 d.sigN && table d.recOff 32 d.recN && table d.imgOff 16 d.imgN then some d
  else none

/-- An image: pool index, offset in the buffer, bytes. -/
structure Image where
  rcd : Nat
  off : Nat
  bytes : List Byte

/-- A code object as the loader holds it. -/
structure CodeObject where
  entry : Nat
  sigs : List (BitVec 128)
  pool : List Entry256
  images : List Image

/-- Records of a table. -/
def tableRows (b : List Byte) (size n : Nat) : List Nat := (List.range n).map fun i => leNat (slice b (size * i) size)

/-- What the loader's reading comes to (R422). -/
inductive Loaded (α : Type) where
  | ok (a : α)
  | refused
  | hold
  | request (id : Nat)

def Loaded.map {α β : Type} (l : Loaded α) (f : α → β) : Loaded β :=
  match l with
  | .ok a => .ok (f a)
  | .refused => .refused
  | .hold => .hold
  | .request id => .request id

/-- The code extent as the loader reads it: its function and task, the request of a page where it is translated per access, a free value, the extent. -/
structure CodeSource where
  f : Func
  task : Nat
  lazy_ : Option Resolution
  pick : Nat
  ext : Ext

/-- Go on with n bytes of the code extent. -/
def CodeSource.read {α : Type} (x : CodeSource) (off n : Nat) (s : State) (k : List Byte → State → Loaded α × State) : Loaded α × State :=
  match readVirt x.f x.task x.lazy_ x.pick (x.ext.base + off) n s with
  | (.ok bs, s) => k bs s
  | (.unreadable, s) => (.refused, s)
  | (.hold, s) => (.hold, s)
  | (.request id, s) => (.request id, s)

/-- Read the images of an image table. An image of no bytes must lie in its buffer and in the extent as any other, and a FLAGS byte with one of bits 7:1 set is refused. DESIGN CHOICE (log 59). -/
def readImages (x : CodeSource) (top : Nat) (pool : List Entry256) : List Nat → State → Loaded (List Image) × State
  | [], s => (.ok [], s)
  | e :: es, s =>
    let rcd := bits e 7 0
    let off := bits e 63 32
    let len := bits e 95 64
    let at_ := bits e 127 96
    let r := (nth pool rcd 0#256).toNat
    if bits e 15 9 != 0 || bits e 31 16 != 0 || recKind r != 1 || decide (64 * recLen r < off + len) || decide (top < at_ + len) then (.refused, s)
    else x.read at_ len s fun bs s =>
      let rest := readImages x top pool es s
      (rest.1.map fun is => { rcd := rcd, off := off, bytes := bs } :: is, rest.2)

/-- Read the code object of an extent; a restore takes no images (R389). DEDUCED (log 17). -/
def readObject (x : CodeSource) (images : Bool) (s : State) : Loaded CodeObject × State :=
  if x.ext.len < 64 then (.refused, s)
  else
    let top := x.ext.len - 64
    x.read top 64 s fun b s => match directoryOf b top with
      | none => (.refused, s)
      | some d =>
        x.read d.sigOff (16 * d.sigN) s fun sb s => x.read d.recOff (32 * d.recN) s fun rb s =>
          let pool := (tableRows rb 32 d.recN).map (BitVec.ofNat 256)
          let done := fun (is : List Image) => ({ entry := d.entry, sigs := (tableRows sb 16 d.sigN).map (BitVec.ofNat 128), pool := pool, images := is } : CodeObject)
          if images then x.read d.imgOff (16 * d.imgN) s fun ib s =>
            let r := readImages x top pool (tableRows ib 16 d.imgN) s
            (r.1.map done, r.2)
          else (.ok (done []), s)

/-! ### The signal table (R5, R6) -/

/-- A signal as its descriptor gives it, without samples. -/
def sigOf (d : BitVec 128) (replica : Bool) : Sig := { desc := d, replica := replica, samples := [] }

/-- An EFMT byte names a format and has MODE zero (R80). -/
def efmtOk (x : Nat) : Bool := x % 4 == 0 && (fmtOf (BitVec.ofNat 6 (x / 4))).isSome

/-- The loader's checks of one descriptor. -/
def sigOk (d : BitVec 128) : Bool :=
  let g := sigOf d false
  let kind := bits d.toNat 65 64
  g.depth != 0 && g.rate != 0 && g.clusters != 0 && decide (g.skew < g.rate) && decide (kind < 2) && decide (g.owner ≤ 16) && bits d.toNat 10 0 == 0 && efmtOk (bits d.toNat 108 101) &&
    !(kind == 1 && (g.owner != 16 || g.exports != 0)) && !(g.owner == 16 && g.exports != 0)

/-- The signals member m holds: private ones, its own, and replicas. -/
def sigsOf (ds : List (BitVec 128)) (m : Nat) : List Sig :=
  ds.filterMap fun d =>
    let g := sigOf d false
    if g.owner = 16 || g.owner = m then some g
    else if bit g.exports m then some (sigOf d true) else none

/-- The refusals of R6. -/
def sigTableOk (ds : List (BitVec 128)) (n : Nat) : Bool :=
  ds.all sigOk && decide ((ds.map fun d => (sigOf d false).id).eraseDups.length = ds.length) &&
    (ds.all fun d => ((sigOf d false).owner == 16 || decide ((sigOf d false).owner < n)) && decide ((sigOf d false).exports < 2 ^ n)) &&
    (List.range n).all fun m => decide (((sigsOf ds m).map fun g => g.depth * g.sampleBytes).foldl (· + ·) 0 ≤ 3145728)

/-! ### The pool (R39, R40) -/

/-- Granules of a scratchpad. -/
def poolGranules : Nat := 98304

/-- A buffer's fields. -/
def bufferOk (e : Nat) : Bool :=
  let comp := recComp e
  efmtOk (bits e 207 200) && 1 ≤ recLen e && recBase e + recLen e ≤ poolGranules && (comp || (bits e 217 214 != 0 && bits e 213 210 != 0)) && recMembers e == 0 && bits e 154 0 == 0 &&
    (!comp || (recBase e % 1024 == 0 && recLen e % 1024 == 0))

/-- A window's fields; it lies in exactly one buffer. -/
def windowEntryOk (pool : List Nat) (n e : Nat) : Bool :=
  efmtOk (bits e 207 200) && 1 ≤ recLen e && recBase e + recLen e ≤ poolGranules && bits e 217 214 == 0 && bits e 213 210 == 0 && !recCarried e && bits e 154 0 == 0 && decide (recMembers e < 2 ^ n) &&
    decide ((pool.filter fun b => recKind b == 1 && decide (recBase b ≤ recBase e) && decide (recBase e + recLen e ≤ recBase b + recLen b)).length = 1)

def entryOk (pool : List Nat) (n e : Nat) : Bool :=
  match recKind e with
  | 0 => e == 0
  | 1 => bufferOk e
  | 2 => windowEntryOk pool n e
  | 3 => bits e 7 0 == 0
  | _ => false

/-- Two buffers, apart by the berms of both. -/
def bermsApart (a b : Nat) : Bool :=
  (recBase a + recLen a + max (bits a 213 210) (bits b 217 214) ≤ recBase b) || (recBase b + recLen b + max (bits b 213 210) (bits a 217 214) ≤ recBase a)

/-- The refusals of R39. -/
def poolOk (pool : List Nat) (n : Nat) : Bool :=
  let bufs := pool.filter fun e => recKind e == 1
  pool.all (entryOk pool n) && (bufs.all fun e => bits e 217 214 ≤ recBase e && recBase e + recLen e + bits e 213 210 ≤ poolGranules) &&
    (List.range bufs.length).all fun i => (List.range i).all fun j => bermsApart (nth bufs i 0) (nth bufs j 0)

/-- The loader's fields of an entry, for the member on a core (R40). -/
def patchEntry (cids : List Nat) (cid : Nat) (e : Entry256) : Entry256 :=
  let n := e.toNat
  if recKind n = 1 || recKind n = 2 then
    let cores := if recKind n = 2 then ((setBits 16 (recMembers n)).map fun m => match cids[m]? with
        | some c => 2 ^ (c % 16)
        | none => 0).foldl (· + ·) 0 else 0
    let hoist := 4 * (cid / 16 % 4) + cid % 16 / 4
    BitVec.ofNat 256 (n - bits n 174 155 * 2 ^ 155 + (cores * 16 + hoist) * 2 ^ 155)
  else e

/-! ### Translation at dispatch (R59 to R61) -/

/-- Extents of a task and their runs. -/
structure Translated where
  exts : List Ext
  code : Ext
  runs : List Run

/-- Operand extents from number x on: after the 257th run every one is translated per access (R60). -/
def translateExts (fn core task die : Nat) : Nat → Bool → List Ext → List Run → State → Except (Nat × DispatchFail) (List Ext × List Run) × State
  | _, _, [], rs, s => (.ok ([], rs), s)
  | x, beyond, e :: es, rs, s =>
    let next := fun (e : Ext) (beyond : Bool) (rs : List Run) (s : State) =>
      let r := translateExts fn core task die (x + 1) beyond es rs s
      (match r.1 with
      | .ok (l, rs) => (.ok (e :: l, rs) : Except (Nat × DispatchFail) (List Ext × List Run))
      | .error k => .error k, r.2)
    if beyond || e.perAccess then next { e with perAccess := true } beyond rs s
    else match walkExtent fn core task die x e 256 e.pages rs s with
      | (.error k, s) => (.error (x, k), s)
      | (.ok none, s) => next { e with perAccess := true } true rs s
      | (.ok (some rs), s) => next e beyond rs s

/-- Walk the extents of a bind. DEDUCED (log 17). -/
def translateTask (fn core task die : Nat) (t : Task) (s : State) : Except (Nat × DispatchFail) Translated × State :=
  let code := extOf t.codeDesc
  match translateExts fn core task die 0 false (t.extDescs.map extOf) [] s with
  | (.error k, s) => (.error k, s)
  | (.ok (es, rs), s) =>
    let exts := es ++ List.replicate (16 - es.length) Ext.none
    if code.perAccess then (.ok { exts := exts, code := code, runs := rs }, s)
    else match walkCode fn core task die code code.pages [] s with
      | (.error k, s) => (.error (freeNow s % 16, k), { s with draws := s.draws + 1 })
      | (.ok none, s) => (.ok { exts := exts, code := { code with perAccess := true }, runs := rs }, s)
      | (.ok (some cs), s) => (.ok { exts := exts, code := code, runs := rs ++ cs }, s)

/-! ### Contexts (R151, R163, R203) -/

/-- The array state given at dispatch: exclusive beside an unbound partner, alternate beside a bound one (R163). -/
def arrayAt (s : State) (cid : Nat) : Nat :=
  match coreOf s (pairOf cid) with
  | some p => if p.seat.status = .free then 1 else 0
  | none => 1

/-- Write the images of a first dispatch (R190), in the order of their table: of two that cover one byte the later stands. DESIGN CHOICE (log 59). -/
def writeImages (sp : Scratch) (pool : List Entry256) (is : List Image) : Scratch :=
  is.foldl (fun sp i => if i.bytes.isEmpty then sp else sp.write (withKeys (64 * recBase (nth pool i.rcd 0#256).toNat + i.off) i.bytes)) sp

/-- The context of member m on a core before its first group (R203), which issues no earlier than the next wall cycle (R389); its snapshot is `view`, and what it may fetch is what device scope holds now (R128). DESIGN CHOICE (log 2). -/
def firstContext (s : State) (view : List Host.Cell) (c : StreamCore) (b : Bind) (t : Task) (tr : Translated) (o : CodeObject) (cids : List Nat) (m : Nat) : StreamCore :=
  let cid := c.seat.cid
  let r := c.vacate
  let a := arrayAt s cid
  let pool := o.pool.map (patchEntry cids cid)
  { r with
    seat := { r.seat with
      fn := c.seat.fn, task := t.num, member := m, gsize := cids.length, slice := b.slice, status := .live, preempt := c.seat.preempt, started := s.wall }
    regs := { r.regs with gen := seedGens 0 0 }
    sys := { r.sys with budget := b.budget, widr := t.widr, amode := a, mmode := a }
    pipe := { r.pipe with pc := BitVec.ofNat 80 (tr.code.base + o.entry), mark := .held .freezeFree }
    taps := (sigsOf o.sigs m).map fun g => if g.skew = 0 then { g with samples := [g.opened 0] } else g
    sp := writeImages r.sp pool (if b.restore.isSome then [] else o.images)
    pool := pool
    dev := { r.dev with exts := tr.exts, code := tr.code, runs := tr.runs, snap := view, snapStamp := s.stamp, fetchOld := devImage s } }

/-! ### Dispatch (R59, R155, R389) -/

/-- Cores of a bind in increasing number. -/
def Bind.cids (b : Bind) : List Nat := (setBits 16 b.cores).map fun i => 16 * b.bench + i

/-- The bind leaves the slot table. -/
def dropBind (s : State) (fn : Nat) (b : Bind) : State := onFn s fn fun f => { f with binds := f.binds.filter fun x => x != b }

/-- A bind that is not dispatched: its cores are free again and its saved group stays saved, as the oldest. -/
def undoBind (s : State) (fn : Nat) (b : Bind) : State :=
  let s := onTask (dropBind s fn b) fn b.task fun t => { t with saved := match b.restore with
    | some x => x :: t.saved
    | none => t.saved }
  freeList s fn b.task b.cids

/-- DETAIL of an XLATE event (R365). DEDUCED (log 17). -/
def xlateDetail (x page cond : Nat) : Nat := x % 16 * 2 ^ 28 + cond % 4 * 2 ^ 26 + min page (2 ^ 26 - 1)

/-- What earlier members on these cores have read of narrower writes binds no later one (R105). -/
def forgetSeen (s : State) (cids : List Nat) : State :=
  { s with limited := s.limited.map fun l => { l with seen := l.seen.filter fun c => !cids.contains c } }

/-- What REFILL makes of a COUNT (R366). -/
def refilled (count b : Nat) : Nat := min (count + b * 65536) (2 ^ 48 - 1)

/-- Put the contexts of a bind in place: their first snapshot is current memory at system scope (R105). The spec orders members by CORE at a first dispatch only (R151); a restoring bind gives saved member m its m-th core in increasing CORE too. DESIGN CHOICE (log 59). -/
def placeContexts (s : State) (fn : Nat) (b : Bind) (t : Task) (tr : Translated) (o : CodeObject) : State :=
  let cids := b.cids
  let s := forgetSeen s cids
  let fresh := cids.mapIdx fun m cid => (coreOf s cid).map fun c => firstContext s s.mem c b t tr o cids m
  let g := fresh.filterMap id
  let g := match b.restore with
    | some x => restoreGroup g (peekBytes s.mem x.pa x.len)
    | none => g
  let s := g.foldl (fun s c => onCore s c.seat.cid fun _ => { c with sys := { c.sys with budget := refilled c.sys.budget b.refill } }) s
  onTask (dropBind s fn b) fn t.num fun t => { t with binds := t.binds + 1, dispatches := t.dispatches + 1 }

/-- The loader refuses the code object: the task ends and completes with status 3 (R6, R39, R155, R422). -/
def refuseObject (s : State) (fn : Nat) (t : Task) : State := killTask (onTask s fn t.num fun t => { t with unloadable := true }) fn t

/-- A bind that waits for a page: for the answer to a request, or for a migration to end, when it is tried again no earlier than the next wall cycle (R65, R72). -/
def holdBind (s : State) (fn : Nat) (b : Bind) (q : Option Nat) : State :=
  onFn s fn fun f => { f with binds := f.binds.map fun x => if x = b then { x with wait := q, due := s.wall + 1 } else x }

/-- How the loader reads the code of a translated bind. -/
def codeSource (f : Func) (task pick die : Nat) (tr : Translated) : CodeSource :=
  { f := f, task := task, pick := pick, ext := tr.code
    lazy_ := if tr.code.perAccess then some { id := 0, va := 0, stage := 1, need := needRead, cond := 0, ext := 0xFF, lcreq := tr.code.lcreq, access := 0, cid := noneId, task := task, die := die, due := 0 } else none }

/-- Dispatch a bind. -/
def dispatchBind (s : State) (fn : Nat) (b : Bind) : State :=
  match taskOf s fn b.task, fnOf s fn with
  | some t, some f =>
    let die := b.cids.headD 0 / 64
    if t.ended.isSome || t.killReq || !(b.cids.all fun c => f.holds c) then undoBind s fn b
    else if b.unread then refuseObject s fn t
    else match translateTask fn noneId t.num die t s with
      | (.error (x, page, cond), s) =>
        if cond = 4 then holdBind s fn b none
        else raiseFault (undoBind s fn b) fn { kind := 6, core := 0, task := t.num, detail := xlateDetail x page cond, queue := t.queue }
      | (.ok tr, s) =>
        let d := draw s
        match readObject (codeSource f t.num d.1 die tr) b.restore.isNone d.2 with
        | (.ok o, s) =>
          if sigTableOk o.sigs b.cids.length && poolOk (o.pool.map fun e => e.toNat) b.cids.length then placeContexts s fn b t tr o
          else refuseObject s fn t
        | (.refused, s) => refuseObject s fn t
        | (.hold, s) => holdBind s fn b none
        | (.request q, s) => holdBind s fn b (some q)
  | _, _ => undoBind s fn b

/-- The bind of a function that is dispatched next (R143). -/
def dueBind (s : State) (f : Func) : Option Bind := if f.stopReq then none else f.binds.find? fun b => decide (b.due ≤ s.wall) && b.wait.isNone

/-- DEDUCED (log 17). -/
def execDispatch (fn : Nat) (s : State) : Answer :=
  match fnOf s fn with
  | none => .refused (.notEnabled "DISPATCH")
  | some f => match dueBind s f with
    | none => .refused (.notEnabled "DISPATCH")
    | some b => .next (dispatchBind s fn b)

/-- Restore of a saved tick group: the dispatch of the bind that carries it (R28, R389). -/
def execRestore (fn : Nat) (s : State) : Answer :=
  match fnOf s fn with
  | none => .refused (.notEnabled "RESTORE")
  | some f => match dueBind s f with
    | none => .refused (.notEnabled "RESTORE")
    | some b => if b.restore.isSome then .next (dispatchBind s fn b) else .refused (.notEnabled "RESTORE")

end Sys2Proof.Machine
end

