-- ==== Sys2Proof/Machine/Sched.lean ====
section
/-! DEFINITION. The scheduler: queue heads, snapshots, actions and their commit, the fallback, decisions, the timer, completion of tasks (R357 to R371, R385). -/
namespace Sys2Proof.Machine

/-! ### Queue heads (R358) -/

def Task.ready (t : Task) : Bool := t.ended.isNone && !t.killReq && t.edges.isEmpty

/-- Cores bound to a task. -/
def boundTo (s : State) (f : Func) (t : Task) : Nat := (coresOfTask s f.num t.num).length

def headable (s : State) (f : Func) (t : Task) : Bool :=
  t.ready && decide (boundTo s f t < t.demand) && (t.undelivered != 0 || !t.saved.isEmpty)

/-- The head of queue q. -/
def headOf (s : State) (f : Func) (q : Nat) : Option Task :=
  (nth f.queues q []).findSome? fun n => (f.tasks.find? fun t => t.num == n).bind fun t => if headable s f t then some t else none

/-! ### Fields (R365) -/

/-- AGE in units of 1,024 cycles. -/
def ageOf (s : State) (t : Task) : Nat := sat32 ((s.wall - t.accepted) / 1024)

/-- SLACK: the deadline counts from acceptance. -/
def slackOf (s : State) (t : Task) : BitVec 32 :=
  if t.deadline = 0 then 0x7FFFFFFF
  else BitVec.ofInt 32 (clampInt ((t.deadline : Int) - ((s.wall - t.accepted) / 1024 : Nat)) (-(2 ^ 31)) (2 ^ 31 - 1))

def headFields (s : State) (f : Func) (q : Nat) : List (BitVec 32) :=
  match headOf s f q with
  | none => List.replicate 9 0
  | some t =>
    let n := fun (x : Nat) => BitVec.ofNat 32 x
    [1, n t.num, n t.prio, n (ageOf s t), slackOf s t, n t.demand, n (boundTo s f t), n (sat32 t.undelivered), n ((t.saved.head?.map fun x => x.gsize).getD 0)]

/-- CRD STATE. DEDUCED (log 25). -/
def coreState (f : Func) (c : StreamCore) : Nat :=
  if !f.holds c.seat.cid then 0
  else if c.seat.status = .free then (if c.seat.withdrawn then 5 else 1)
  else if c.seat.stopped then 4
  else if c.seat.preempt then 3
  else 2

def coreFields (s : State) (f : Func) (cid : Nat) : List (BitVec 32) :=
  match coreOf s cid with
  | none => List.replicate 5 0
  | some c =>
    let st := coreState f c
    if st ≤ 1 || st = 5 then [BitVec.ofNat 32 st, 0, 0, 0, 0]
    else
      let prio := ((f.tasks.find? fun t => t.num == c.seat.task).map fun t => t.prio).getD 0
      [BitVec.ofNat 32 st, BitVec.ofNat 32 c.seat.task, BitVec.ofNat 32 prio, BitVec.ofNat 32 (sat32 ((s.wall - c.seat.started) / 1024)), BitVec.ofNat 32 (sat32 (c.sys.budget / 65536))]

/-- Mask of the queues that have a head. -/
def queueMask (s : State) (f : Func) : Nat := maskOf 16 fun q => (headOf s f q).isSome

/-- Mask of the free partition cores of a bench. -/
def freeMask (s : State) (f : Func) (bench : Nat) : Nat := maskOf 16 fun i => (coreOf s (16 * bench + i)).any fun c => f.holds c.seat.cid && c.isFree

def partFields (s : State) (f : Func) : List (BitVec 32) :=
  [BitVec.ofNat 32 (freeCores s f).length, BitVec.ofNat 32 (clock s), BitVec.ofNat 32 (queueMask s f), BitVec.ofNat 32 f.overruns]

/-- The snapshot a decision reads (R362). -/
def takeSnapshot (s : State) (f : Func) : Snapshot :=
  { heads := (List.range 16).map (headFields s f), cores := (List.range 256).map (coreFields s f), part := partFields s f
    freeBench := (List.range 16).map fun b => BitVec.ofNat 32 (freeMask s f b) }

/-! ### Actions (R366, R367) -/

/-- A bind record's refusal, or none (R366). -/
def bindRefusal (s : State) (f : Func) (a b : Nat) : Option Nat :=
  let bench := bits b 19 16
  let cids := (setBits 16 b).map fun i => 16 * bench + i
  match f.tasks.find? fun t => t.num == a && t.ended.isNone && !t.killReq with
  | none => some 1
  | some t =>
    if !t.ready || (coresOfTask s f.num a).any fun c => c.seat.bench == bench then some 1
    else if !(cids.all fun c => f.holds c && (match coreOf s c with
        | some x => x.isFree
        | none => false)) then some 2
    else if cids.isEmpty || bits b 23 20 != 0 then some 3
    else match t.saved with
      | x :: _ => if cids.length = x.gsize then none else some 4
      | [] => none

/-- Does the bind give the core? -/
def Bind.gives (r : Bind) (cid : Nat) : Bool := cid / 16 == r.bench && r.cores.testBit (cid % 16)

/-- A seat given to a bind. -/
def loadingSeat (p : Seat) (fn : Nat) (b : Bind) (member : Nat) (wall : Nat) : Seat :=
  { Seat.reset p.cid with fn := fn, task := b.task, member := member, gsize := b.cids.length, slice := b.slice, status := .loading, started := wall, withdrawn := p.withdrawn }

/-- Accept a bind: its cores are bound, their partners learn of it, held messages go out, and the timer counts from here if nothing counted before (R155, R163, R360, R392). -/
def acceptBind (s : State) (f : Func) (a b : Nat) : State :=
  match f.tasks.find? fun t => t.num == a with
  | none => s
  | some t =>
    let d := draw s
    let first := !running s f.num
    let r : Bind := { task := a, bench := bits b 19 16, cores := bits b 15 0, slice := bits b 31 24, budget := t.budget, refill := 0, restore := t.saved.head?, due := s.wall + 1 + d.1, wait := none, unread := false }
    let s := onTask d.2 f.num a fun t => { t with saved := t.saved.tail }
    let s := onFn s f.num fun f => { f with binds := f.binds ++ [r], timer := if first then s.wall else f.timer }
    let s := onCores s fun c => match r.cids.findIdx? fun x => x == c.seat.cid with
      | some m => { c with seat := loadingSeat c.seat f.num r m s.wall }
      | none => if c.seat.live && r.gives (pairOf c.seat.cid) then { c with sys := { c.sys with share := c.sys.amode == 1 } } else c
    releaseMsix s f.num

/-- The live task a word names: one whose completion record has not been written yet, a killed one that still drains among them (R356). -/
def liveTask (f : Func) (a : Nat) : Option Task := f.tasks.find? fun t => t.num == a

/-- REFILL of a tick group: every member's COUNT grows, and one stopped by budget resumes; members whose context is not in place yet are dispatched with what it adds (R366). -/
def refillGroup (s : State) (fn b : Nat) (g : List StreamCore) : State :=
  let s := g.foldl (fun s c => onCore s c.seat.cid fun c =>
    if c.seat.status = .loading then c else { c with seat := { c.seat with stopped := false }, sys := { c.sys with budget := refilled c.sys.budget b } }) s
  onFn s fn fun f => { f with binds := f.binds.map fun r => if g.any fun c => c.seat.status == .loading && r.gives c.seat.cid then { r with refill := r.refill + b } else r }

/-- The tick group of a partition core that a word names. -/
def groupOfWord (s : State) (f : Func) (a : Nat) : List StreamCore :=
  if f.holds a && decide (a < 256) then
    match coreOf s a with
    | some c => if c.seat.status = .free then [] else matesOf s c
    | none => []
  else []

/-- The event of a refused bind (R366). -/
def bindRefused (s : State) (fn a reason : Nat) : Event :=
  { kind := 7, core := 0, task := a, detail := reason, queue := (((fnOf s fn).bind fun f => liveTask f a).map fun t => t.queue).getD 0 }

/-- Commit one action; the result also says whether it was a bind that was accepted. -/
def commitAction (s : State) (fn : Nat) (x : Action) : State × Bool :=
  match fnOf s fn with
  | none => (s, false)
  | some f =>
    let a := x.a.toNat
    let b := x.b.toNat
    match x.op with
    | 0x30 => match bindRefusal s f a b with
      | some k => (raiseFault s fn (bindRefused s fn a k), false)
      | none => (acceptBind s f a b, true)
    | 0x31 => ((groupOfWord s f a).foldl (fun s c => onCore s c.seat.cid fun c => { c with seat := { c.seat with preempt := true } }) s, false)
    | 0x32 => match liveTask f a with
      | some t => (killTask s fn t, false)
      | none => (s, false)
    | 0x33 => (refillGroup s fn b (groupOfWord s f a), false)
    | 0x34 => match liveTask f a with
      | some t => (onFn s fn fun f => { f with queues := modifyNth f.queues t.queue fun q => (q.filter fun n => n != a) ++ [a] }, false)
      | none => (s, false)
    | 0x35 => match liveTask f a with
      | some _ => (onTask s fn a fun t => { t with prio := b % 256 }, false)
      | none => (s, false)
    | _ => (s, false)

/-- The live task of a function that a word names. -/
def liveOf (s : State) (fn a : Nat) : Option Task := (fnOf s fn).bind fun f => liveTask f a

/-- Cores that a BIND names. -/
def Action.bindCores (x : Action) : List Nat := (setBits 16 (bits x.b.toNat 15 0)).map fun i => 16 * bits x.b.toNat 19 16 + i

/-- The task an action is on: that it names, or that of the tick group it names. -/
def Action.taskOf (x : Action) (s : State) (fn : Nat) : Option Nat :=
  if x.op = 0x31 || x.op = 0x33 then ((fnOf s fn).map fun f => groupOfWord s f x.a.toNat).bind fun g => g.head?.map fun c => c.seat.task
  else some x.a.toNat

/-- Commit staged actions in order; a KILL makes later actions on its task void, and a core that an earlier BIND has taken refuses a later one with reason 2 (R367). The count is of the binds accepted. -/
def commitAll (fn : Nat) : List Action → List Nat → List Nat → State → State × Nat
  | [], _, _, s => (s, 0)
  | x :: xs, killed, given, s =>
    if (x.taskOf s fn).any fun t => killed.contains t then commitAll fn xs killed given s
    else if x.op = 0x30 && (x.bindCores.any fun c => given.contains c) && (liveOf s fn x.a.toNat).any Task.ready then
      commitAll fn xs killed given (raiseFault s fn (bindRefused s fn x.a.toNat 2))
    else
      let r := commitAction s fn x
      let rest := commitAll fn xs (if x.op = 0x32 && (liveOf s fn x.a.toNat).isSome then x.a.toNat :: killed else killed) (if r.2 then x.bindCores ++ given else given) r.1
      (rest.1, rest.2 + if r.2 then 1 else 0)

/-- A decision ends: its actions commit on one cycle; a DISPATCH decision that has bound something goes on while there is something to bind (R361, R366). DEDUCED (log 18). -/
def finishDecision (s : State) (fn : Nat) (ev : Event) (acts : List Action) : State :=
  let r := commitAll fn acts [] [] s
  let s := onFn r.1 fn fun f => { f with decision := none, hostDecision := none }
  match fnOf s fn with
  | none => s
  | some f =>
    if (ev.kind = 1 || ev.kind = 2) && r.2 != 0 && !(freeCores s f).isEmpty && queueMask s f != 0 then raiseDispatch s fn ev else s

/-! ### The fallback (R369) -/

/-- Heads in the fallback's order: queue and task. -/
def fallbackHeads (s : State) (f : Func) : List Task :=
  let hs := (List.range 16).filterMap (headOf s f)
  sortBy (fun a b => decide (b.prio < a.prio) || (a.prio == b.prio && (decide (ageOf s b < ageOf s a) || (ageOf s a == ageOf s b && decide (a.queue < b.queue))))) hs

/-- Binds for heads in order; `taken` are cores already given. -/
def fallbackBinds (s : State) (f : Func) : List Task → List Nat → List Action
  | [], _ => []
  | t :: ts, taken =>
    let free := fun (b : Nat) => (setBits 16 (freeMask s f b)).filter fun i => !taken.contains (16 * b + i)
    let need := (t.saved.head?.map fun x => x.gsize).getD 1
    match (List.range 16).find? fun b => !((coresOfTask s f.num t.num).any fun c => c.seat.bench == b) && decide (max 1 need ≤ (free b).length) with
    | none => fallbackBinds s f ts taken
    | some b =>
      let n := match t.saved with
        | x :: _ => x.gsize
        | [] => min (free b).length (t.demand - boundTo s f t)
      let cs := (free b).take n
      let word := 16 * 2 ^ 24 + b * 2 ^ 16 + (cs.map fun i => 2 ^ i).foldl (· + ·) 0
      { op := 0x30, a := BitVec.ofNat 32 t.num, b := BitVec.ofNat 32 word } :: fallbackBinds s f ts (taken ++ cs.map fun i => 16 * b + i)

/-- The fallback's actions for an event. -/
def fallbackActions (s : State) (f : Func) (ev : Event) : List Action :=
  match ev.kind with
  | 1 | 2 => fallbackBinds s f (fallbackHeads s f) []
  | 5 => [{ op := 0x32, a := BitVec.ofNat 32 ev.task, b := 0 }]
  | 6 => [{ op := 0x34, a := BitVec.ofNat 32 ev.task, b := 0 }]
  | _ => []

def fallback (s : State) (fn : Nat) (ev : Event) : State :=
  match fnOf s fn with
  | none => s
  | some f => finishDecision s fn ev (fallbackActions s f ev)

/-! ### Decisions (R361, R369, R371, R411) -/

/-- The event decided next, and the function without it. While a stop is requested nothing is dispatched (R143); a start that is settled is no longer put off. DEDUCED (log 16). -/
def nextEvent (f : Func) : Option (Event × Func) :=
  match f.faults with
  | e :: es => some (e, { f with faults := es })
  | [] => match f.preemptFlag with
    | some e => some (e, { f with preemptFlag := none })
    | none => if f.stopReq && f.decideAt.isNone then none else match f.dispatchFlag with
      | some e => some (e, { f with dispatchFlag := none })
      | none => none

/-- A requested swap takes place (R371). -/
def swapBanks (s : State) (fn : Nat) : State :=
  match fnOf s fn with
  | none => s
  | some f =>
    if f.swapPend then
      let s := onFn s fn fun f => { f with active := 1 - f.active, swapPend := false }
      emit s fn 1 { typ := 2, src := 4, core := noneId, task := noneId, ents := [[(16, 1, 1 - f.active)]] } []
    else s

/-- Index of the entry for a kind of event. -/
def entryIx (header : BitVec 32) (kind : Nat) : Nat :=
  if kind = 1 || kind = 2 then bits header.toNat 15 8 else if kind = 3 || kind = 4 then bits header.toNat 23 16 else bits header.toNat 31 24

/-- Ask the host for a decision (R410, R411). -/
def askHost (s : State) (f : Func) (ev : Event) : State :=
  let s' := emit s f.num 6 { typ := 1, src := 4, core := noneId, task := noneId
                             ents := [[(16, 8, f.decisions), (24, 1, ev.kind), (25, 1, ev.queue), (26, 2, ev.core), (28, 2, ev.task), (32, 4, ev.detail), (36, 4, f.decisions),
                               (40, 2, queueMask s f), (42, 1, min 255 (freeCores s f).length)]] } []
  onFn s' f.num fun f => { f with hostDecision := some { id := f.decisions, ev := ev, asked := s.wall, staged := [] } }

/-- A decision from its entry (R362, R363). -/
def newDecision (s : State) (f : Func) (ev : Event) (code : List (BitVec 32)) : Decision :=
  let header := code.headD 0
  { ev := ev, snap := takeSnapshot s f, code := code.take (header.toNat % 256 + 1), ix := entryIx header ev.kind, w := [], loop := none, staged := [], cost := 0, began := s.wall }

/-- Start the next decision: by the host, by the verified policy of the active bank, or at once by the fallback. DEDUCED (log 18). -/
def startDecision (s : State) (fn : Nat) : Option State :=
  match (fnOf s fn).bind nextEvent with
  | none => none
  | some (ev, f) =>
    let s := onFn s fn fun _ => { f with decisions := f.decisions + 1, decideAt := none }
    match fnOf s fn with
    | none => none
    | some f =>
      some (if f.fmode.getLsbD 1 then askHost s f ev
      else
        let bank := nth f.banks f.active { code := [], vstat := 0 }
        if bank.vstat = 2 then
          let d := newDecision s f ev bank.code
          onFn s fn fun f => { f with decision := some d }
        else fallback s fn ev)

/-- Is there an event to decide, and nothing else being decided? DEDUCED (log 16). -/
def undecided (f : Func) : Bool := !f.resetting && f.decision.isNone && f.hostDecision.isNone && (nextEvent f).isSome

/-- May the start of a decision be settled: one that is waited for, at a time of its own? -/
def mayDecide (s : State) (f : Func) : Bool := undecided f && decide (f.decideDue ≤ s.wall)

/-- The cycle before a decision starts: a requested swap takes place on it, and the start is settled, whatever event or stop comes in between (R371). DEDUCED (log 16). -/
def prepareDecision (s : State) (fn : Nat) : State := onFn (swapBanks s fn) fn fun f => { f with decideAt := some (s.wall + 1) }

def execDecision (fn : Nat) (s : State) : Answer :=
  match (fnOf s fn).bind fun f => if f.decision.isNone && f.hostDecision.isNone then startDecision s fn else none with
  | some s' => .next s'
  | none => .refused (.notEnabled "DECISION")

/-- Cycles at which a decision is abandoned. -/
def overrunCycles : Nat := 1024

/-- The decision is abandoned and the fallback decides its event (R369). -/
def execDecisionOverrun (fn : Nat) (s : State) : Answer :=
  match (fnOf s fn).bind fun f => f.decision with
  | none => .refused (.notEnabled "DECISION_OVERRUN")
  | some d =>
    let s := onFn s fn fun f => { f with decision := none, overruns := sat32 (f.overruns + 1) }
    .next (fallback (emitPolicy s fn 0 d.ev.kind) fn d.ev)

/-! ### Timer and completion (R359, R360) -/

/-- Has the quantum of a function elapsed? -/
def timerDue (s : State) (f : Func) : Bool := f.quantum != 0 && decide (f.timer + 1024 * f.quantum ≤ s.wall) && running s f.num

def execTimer (fn : Nat) (s : State) : Answer :=
  match fnOf s fn with
  | none => .refused (.notEnabled "TIMER")
  | some f =>
    if timerDue s f then .next (raisePreempt (onFn s fn fun f => { f with timer := s.wall }) fn { kind := 3, core := 0, task := 0, detail := 0, queue := 0 })
    else .refused (.notEnabled "TIMER")

/-- Does a task complete (R359, R366)? -/
def taskOver (s : State) (f : Func) (t : Task) : Bool :=
  t.ended.isNone && (t.killReq || decide (1 ≤ t.dispatches)) && t.saved.isEmpty && (coresOfTask s f.num t.num).isEmpty && !(f.binds.any fun b => b.task == t.num)

/-- Its status. DEDUCED (log 37). -/
def Task.status (t : Task) : Nat := if t.unloadable then 3 else if t.killed || t.killReq then 1 else 0

def execTaskCompletion (fn task : Nat) (s : State) : Answer :=
  match fnOf s fn, taskOf s fn task with
  | some f, some t => if taskOver s f t then .next (completeTask maxTasks s fn t t.status) else .refused (.notEnabled "TASK_COMPLETION")
  | _, _ => .refused (.notEnabled "TASK_COMPLETION")

end Sys2Proof.Machine
end

