-- ==== Sys2Proof/Machine/Policy.lean ====
section
/-! DEFINITION. Tchivacen bytecodes: their effect on the running decision of the function at turn, and the verifier (R363 to R368). -/
namespace Sys2Proof.Machine

/-! ### Registers and operands (R363, R364) -/

def Decision.reg (d : Decision) (n : BitVec 4) : BitVec 32 := d.w.get n.toNat
def Decision.setReg (d : Decision) (n : BitVec 4) (x : BitVec 32) : Decision := { d with w := d.w.set n.toNat x }

/-- The second operand. -/
def Decision.operand (d : Decision) (bi : Bool) (b : BitVec 16) : BitVec 32 := if bi then b.setWidth 32 else d.reg (b.extractLsb' 0 4)

/-- The next index, with the loop in progress: its end goes round or leaves, a branch past its end leaves it (R368). Each iteration that ends costs a cycle, and after all of them the register holds the last index (R364). -/
def Decision.goTo (d : Decision) (next : Nat) : Decision :=
  match d.loop with
  | none => { d with ix := next }
  | some l =>
    if next < l.stop then { d with ix := next }
    else if next = l.stop then
      if l.i < l.last then { d with ix := l.start, loop := some { l with i := l.i + 1 }, w := d.w.set l.reg (BitVec.ofNat 32 (l.i + 1)), cost := d.cost + 1 }
      else { d with ix := next, loop := none, w := d.w.set l.reg (BitVec.ofNat 32 l.last), cost := d.cost + 1 }
    else { d with ix := next, loop := none }

/-- The running decision of the function at turn. -/
def runningDecision (s : State) : Option Decision :=
  match (fnOf s s.fnTurn).bind fun f => f.decision with
  | some d => if d.cost < overrunCycles then some d else none
  | none => none

/-- Replace it. -/
def setDecision (s : State) (d : Decision) : State := onFn s s.fnTurn fun f => { f with decision := some d }

/-- Run a bytecode of a cost that goes on with the next one. -/
def bytecode (name : String) (cost : Nat) (s : State) (f : Decision → Decision) : Answer :=
  match runningDecision s with
  | none => .refused (.notEnabled name)
  | some d => let d := f { d with cost := d.cost + cost }; .next (setDecision s (d.goTo (d.ix + 1)))

/-- Run a branch. -/
def branchCode (name : String) (off : BitVec 8) (s : State) (taken : Decision → Bool) : Answer :=
  match runningDecision s with
  | none => .refused (.notEnabled name)
  | some d => let d := { d with cost := d.cost + 2 }; .next (setDecision s (d.goTo (d.ix + if taken d then off.toNat else 1)))

/-- wD = f wA b. -/
def binaryCode (name : String) (cost : Nat) (dst a : BitVec 4) (bi : Bool) (b : BitVec 16) (s : State) (f : BitVec 32 → BitVec 32 → BitVec 32) : Answer :=
  bytecode name cost s fun d => d.setReg dst (f (d.reg a) (d.operand bi b))

/-- Stage an action. -/
def stageCode (name : String) (cost : Nat) (s : State) (f : Decision → Action) : Answer :=
  bytecode name cost s fun d => { d with staged := d.staged ++ [f d] }

/-! ### Arithmetic -/

def execTchMov (dst : BitVec 4) (bi : Bool) (b : BitVec 16) (s : State) : Answer := bytecode "TCH_MOV" 1 s fun d => d.setReg dst (d.operand bi b)
def execTchAdd (dst a : BitVec 4) (bi : Bool) (b : BitVec 16) (s : State) : Answer := binaryCode "TCH_ADD" 1 dst a bi b s fun x y => x + y
def execTchSub (dst a : BitVec 4) (bi : Bool) (b : BitVec 16) (s : State) : Answer := binaryCode "TCH_SUB" 1 dst a bi b s fun x y => x - y
def execTchAnd (dst a : BitVec 4) (bi : Bool) (b : BitVec 16) (s : State) : Answer := binaryCode "TCH_AND" 1 dst a bi b s fun x y => x &&& y
def execTchOr (dst a : BitVec 4) (bi : Bool) (b : BitVec 16) (s : State) : Answer := binaryCode "TCH_OR" 1 dst a bi b s fun x y => x ||| y
def execTchXor (dst a : BitVec 4) (bi : Bool) (b : BitVec 16) (s : State) : Answer := binaryCode "TCH_XOR" 1 dst a bi b s fun x y => x ^^^ y
def execTchShl (dst a : BitVec 4) (bi : Bool) (b : BitVec 16) (s : State) : Answer := binaryCode "TCH_SHL" 1 dst a bi b s fun x y => x <<< (y.toNat % 32)
def execTchShr (dst a : BitVec 4) (bi : Bool) (b : BitVec 16) (s : State) : Answer := binaryCode "TCH_SHR" 1 dst a bi b s fun x y => x >>> (y.toNat % 32)
def execTchMin (dst a : BitVec 4) (bi : Bool) (b : BitVec 16) (s : State) : Answer := binaryCode "TCH_MIN" 1 dst a bi b s fun x y => if x.toNat ≤ y.toNat then x else y
def execTchMax (dst a : BitVec 4) (bi : Bool) (b : BitVec 16) (s : State) : Answer := binaryCode "TCH_MAX" 1 dst a bi b s fun x y => if x.toNat ≤ y.toNat then y else x
def execTchMul (dst a : BitVec 4) (bi : Bool) (b : BitVec 16) (s : State) : Answer := binaryCode "TCH_MUL" 2 dst a bi b s fun x y => x * y
def execTchLui (dst : BitVec 4) (imm : BitVec 16) (s : State) : Answer := bytecode "TCH_LUI" 1 s fun d => d.setReg dst (imm.setWidth 32 <<< 16)
def execTchCeq (dst a : BitVec 4) (bi : Bool) (b : BitVec 16) (s : State) : Answer := binaryCode "TCH_CEQ" 1 dst a bi b s fun x y => if x = y then 1 else 0
def execTchClt (dst a : BitVec 4) (bi : Bool) (b : BitVec 16) (s : State) : Answer := binaryCode "TCH_CLT" 1 dst a bi b s fun x y => if x.toNat < y.toNat then 1 else 0
def execTchClts (dst a : BitVec 4) (bi : Bool) (b : BitVec 16) (s : State) : Answer := binaryCode "TCH_CLTS" 1 dst a bi b s fun x y => if x.toInt < y.toInt then 1 else 0

/-! ### Control -/

def execTchBz (a : BitVec 4) (off : BitVec 8) (s : State) : Answer := branchCode "TCH_BZ" off s fun d => d.reg a == 0
def execTchBnz (a : BitVec 4) (off : BitVec 8) (s : State) : Answer := branchCode "TCH_BNZ" off s fun d => d.reg a != 0
def execTchJmp (off : BitVec 8) (s : State) : Answer := branchCode "TCH_JMP" off s fun _ => true

/-- `n` holds the iterations minus one. -/
def execTchLoopn (dst : BitVec 4) (len : BitVec 8) (n : BitVec 4) (s : State) : Answer :=
  bytecode "TCH_LOOPN" 1 s fun d => { d.setReg dst 0 with loop := some { reg := dst.toNat, start := d.ix + 1, stop := d.ix + 1 + len.toNat, i := 0, last := n.toNat } }

/-! ### Reads of the snapshot (R362, R365) -/

def execTchQrd (dst a : BitVec 4) (field : BitVec 16) (s : State) : Answer :=
  bytecode "TCH_QRD" 3 s fun d => d.setReg dst (nth (nth d.snap.heads ((d.reg a).toNat % 16) []) field.toNat 0)
def execTchCrd (dst a : BitVec 4) (field : BitVec 16) (s : State) : Answer :=
  bytecode "TCH_CRD" 3 s fun d => d.setReg dst (nth (nth d.snap.cores ((d.reg a).toNat % 256) []) field.toNat 0)

def eventField (e : Event) (n : Nat) : Nat := nth [e.kind, e.core, e.task, e.detail, e.queue] n 0

def execTchErd (dst : BitVec 4) (field : BitVec 16) (s : State) : Answer :=
  bytecode "TCH_ERD" 1 s fun d => d.setReg dst (BitVec.ofNat 32 (eventField d.ev field.toNat))
def execTchPrd (dst : BitVec 4) (field : BitVec 16) (s : State) : Answer :=
  bytecode "TCH_PRD" 2 s fun d => d.setReg dst (nth d.snap.part field.toNat 0)
def execTchFreeb (dst a : BitVec 4) (s : State) : Answer :=
  bytecode "TCH_FREEB" 2 s fun d => d.setReg dst (nth d.snap.freeBench ((d.reg a).toNat % 16) 0)

/-! ### Actions (R366, R369) -/

/-- A BIND also waits for its slot-table write, for a number of cycles the manual does not give. DEDUCED (log 18). -/
def execTchBind (a b : BitVec 4) (s : State) : Answer :=
  match runningDecision s with
  | none => .refused (.notEnabled "TCH_BIND")
  | some _ =>
    let w := draw s
    stageCode "TCH_BIND" (8 + w.1) w.2 fun d => { op := 0x30, a := d.reg a, b := d.reg b }

def execTchPreempt (a : BitVec 4) (s : State) : Answer := stageCode "TCH_PREEMPT" 4 s fun d => { op := 0x31, a := d.reg a, b := 0 }
def execTchKill (a : BitVec 4) (s : State) : Answer := stageCode "TCH_KILL" 4 s fun d => { op := 0x32, a := d.reg a, b := 0 }
def execTchRefill (a : BitVec 4) (bi : Bool) (b : BitVec 16) (s : State) : Answer := stageCode "TCH_REFILL" 4 s fun d => { op := 0x33, a := d.reg a, b := d.operand bi b }
def execTchDefer (a : BitVec 4) (s : State) : Answer := stageCode "TCH_DEFER" 4 s fun d => { op := 0x34, a := d.reg a, b := 0 }
def execTchPrio (a : BitVec 4) (bi : Bool) (b : BitVec 16) (s : State) : Answer := stageCode "TCH_PRIO" 4 s fun d => { op := 0x35, a := d.reg a, b := d.operand bi b }

/-- END commits what is staged, unless its own cycle takes the count to the overrun (R366, R369). -/
def execTchEnd (s : State) : Answer :=
  match runningDecision s with
  | none => .refused (.notEnabled "TCH_END")
  | some d =>
    if d.cost + 1 < overrunCycles then .next (finishDecision s s.fnTurn d.ev d.staged)
    else .next (setDecision s { d with cost := d.cost + 1 })

/-! ### The verifier (R368) -/

/-- Cost of a bytecode, without the iterations of a LOOPN. -/
def codeCost : Instr → Nat
  | .tchMul _ _ _ _ => 2
  | .tchBz _ _ | .tchBnz _ _ | .tchJmp _ | .tchPrd _ _ | .tchFreeb _ _ => 2
  | .tchQrd _ _ _ | .tchCrd _ _ _ => 3
  | .tchBind _ _ => 8
  | .tchPreempt _ | .tchKill _ | .tchRefill _ _ _ | .tchDefer _ | .tchPrio _ _ _ => 4
  | _ => 1

/-- Where control may go from a bytecode, apart from the way round a loop. -/
def codeNexts (i : Nat) : Instr → List Nat
  | .tchBz _ off | .tchBnz _ off => [i + 1, i + off.toNat]
  | .tchJmp off => [i + off.toNat]
  | .tchEnd => []
  | _ => [i + 1]

/-- Offset of a branch. -/
def branchOff : Instr → Option Nat
  | .tchBz _ off | .tchBnz _ off | .tchJmp off => some off.toNat
  | _ => none

/-- L and n of a LOOPN. -/
def loopOf : Instr → Option (Nat × Nat)
  | .tchLoopn _ len n => some (len.toNat, n.toNat + 1)
  | _ => none

/-- Worst costs from the indices `n − 1` down to 0, indexed from the front, within a stretch that ends at `stop`: leaving it costs nothing more here. -/
def bodyWorst (code : List (Option Instr)) (start stop : Nat) : Nat → List Nat
  | 0 => []
  | n + 1 =>
    let i := stop - (n + 1)
    let below := bodyWorst code start stop n
    if i < start then below
    else match nth code i none with
      | none => 0 :: below
      | some x => (codeCost x + ((codeNexts i x).map fun t => if t < stop then nth below (t - (i + 1)) 0 else 0).foldl max 0) :: below

/-- Where paths leave a stretch for, other than its own end. -/
def exitsOf (code : List (Option Instr)) (start stop : Nat) : List Nat :=
  ((List.range (stop - start)).flatMap fun k => match nth code (start + k) none with
    | some x => (codeNexts (start + k) x).filter fun t => decide (stop < t)
    | none => []).eraseDups

/-- Worst cost of a path to END from each index from the last `n` on. -/
def worstFrom (code : List (Option Instr)) (len : Nat) : Nat → List Nat
  | 0 => []
  | n + 1 =>
    let i := len - (n + 1)
    let below := worstFrom code len n
    let at_ := fun (t : Nat) => nth below (t - (i + 1)) 0
    (match nth code i none with
    | none => 0
    | some x => match loopOf x with
      | some (L, n) =>
        let body := bodyWorst code (i + 1) (i + 1 + L) L
        1 + n * (body.headD 0 + 1) + (((i + 1 + L) :: exitsOf code (i + 1) (i + 1 + L)).map at_).foldl max 0
      | none => codeCost x + ((codeNexts i x).map at_).foldl max 0) :: below

/-- Indices a path from one of the entries reaches, in increasing order. -/
def reaches (code : List (Option Instr)) : Nat → Nat → List Nat → List Nat
  | 0, _, seen => seen
  | n + 1, i, seen =>
    let seen := if seen.contains i then (match nth code i none with
      | some x => seen ++ codeNexts i x
      | none => seen) else seen
    reaches code n (i + 1) seen

/-- The refusal of an image: reason and index of the offending bytecode (R368). DEDUCED (log 18). -/
def imageRefusal (bank : List (BitVec 32)) : Option (Nat × Nat) :=
  let header := bank.headD 0
  let last := header.toNat % 256
  let entries := [bits header.toNat 15 8, bits header.toNat 23 16, bits header.toNat 31 24]
  let code := (List.range (last + 1)).map fun i => if i = 0 then none else decodePolicy (nth bank i 0)
  let body := (List.range last).map (· + 1)
  let bad := fun (p : Nat → Instr → Bool) => body.find? fun i => match nth code i none with
    | some x => p i x
    | none => false
  if entries.any fun e => e == 0 || decide (last < e) then some (1, 0)
  else match body.find? fun i => (nth code i none).isNone with
    | some i => some (2, i)
    | none => match bad fun i x => match branchOff x with
        | some o => o == 0 || decide (last < i + o)
        | none => false with
      | some i => some (3, i)
      | none => match bad fun i x => match loopOf x with
          | some (L, _) => decide (last < i + L) || (List.range L).any fun k => match nth code (i + 1 + k) none with
            | some y => (loopOf y).isSome
            | none => false
          | none => false with
        | some i => some (4, i)
        | none =>
          if (reaches code (last + 1) 0 entries).any fun i => decide (last < i) then some (5, last)
          else
            let w := worstFrom code (last + 1) (last + 1)
            (entries.find? fun e => decide (512 < nth w e 0)).map fun e => (6, e)

end Sys2Proof.Machine
end

