-- ==== Sys2Proof/Machine/Service.lean ====
section
/-! DEFINITION. The translation service, the hardware resolver, the scrub engine and soft errors (R30, R33, R34, R65 to R74, R410, R420). -/
namespace Sys2Proof.Machine

/-! ### Requests that are answered (R65, R129) -/


/-- A core waits no longer for a request: its access is tried again, or fails with a DETAIL. -/
def releaseWaiter (s : State) (r : Resolution) (refused : Option Nat) (c : StreamCore) : State :=
  let cid := c.seat.cid
  let vars := c.dev.vars.filter fun v => v.stage == .resolving (some r.id)
  let cmds := c.dev.cmds.filter fun k => k.resolving == some (some r.id)
  let lates := (c.dev.late.filter fun l => l.2.1 == some r.id).map fun l => l.1
  let pends := c.dev.pend.filter fun p => p.req == some r.id
  let free := fun (p : PendStore) => if p.req = some r.id then { p with req := none } else p
  match refused with
  | none =>
    let d := draw s
    onCore d.2 cid fun c => { c with dev := { c.dev with
      vars := c.dev.vars.map fun v => if v.stage = .resolving (some r.id) then { v with stage := .resolving none, due := s.wall + d.1 } else v
      cmds := c.dev.cmds.map fun k => if k.resolving = some (some r.id) then { k with resolving := none, due := s.wall + d.1 } else k
      pend := c.dev.pend.map free
      late := c.dev.late.map fun l => if l.2.1 = some r.id then (free l.1, none, l.2.2) else l } }
  | some d =>
    let s := vars.foldl (fun s v => failVar s cid v 0x0E d) s
    let s := cmds.foldl (fun s k => failCmd s cid k { code := 1, d0 := r.ext, d1 := r.access - (c.dev.extent r.ext).base }) s
    let s := onCore s cid fun c => { c with dev := { c.dev with
      pend := c.dev.pend.filter fun p => p.req != some r.id
      late := c.dev.late.filter fun l => l.2.1 != some r.id } }
    let s := (lates ++ pends).foldl (fun s p => addFailure { seq := p.seq, cause := 0x0E, detail := d, tval := xoWord p.x p.off, sb := none } s cid) s
    let s := if r.ext = 0xFF && r.cid = cid && c.seat.live then onCore s cid fun c => { c with pipe := { c.pipe with fetchFail := some (pageStart s c.seat.fn r.access, fetchDetail d) } } else s
    if lates.isEmpty then s else asCore s cid lateReports

/-- A request is answered and leaves; every core and bind of the function that waits for it is told. -/
def answerRequest (s : State) (fn : Nat) (r : Resolution) (refused : Option Nat) : State :=
  let told := fun (b : Bind) => if b.wait = some r.id then { b with wait := none, unread := refused.isSome, due := s.wall } else b
  let s := onFn s fn fun f => { f with resolutions := f.resolutions.filter fun x => x.id != r.id, binds := f.binds.map told }
  ((allCores s).filter fun c => c.seat.status != .free && c.seat.fn == fn).foldl (fun s c => match coreOf s c.seat.cid with
    | some c => releaseWaiter s r refused c
    | none => s) s

/-! ### The hardware resolver (R420) -/

/-- What the level-0 walk of a request finds: absent with the PA of its entry, or no longer absent. -/
def requestSlot (s : State) (f : Func) (r : Resolution) : Option (Option Nat) :=
  let at_ := routed s 0
  match if f.num = 0 then walkFrom 1 true (devImage s) (fun pa => .ok (at_ pa)) r.va 4 f.root1 else walkSecond (devImage s) at_ f.root2 r.va with
  | .absent _ _ slot => some slot
  | _ => none

/-- The leaf the resolver writes. -/
def resolverLeaf (f : Func) (frame need : Nat) : Nat :=
  frame + 2 ^ 63 + 2 ^ 62 + 2 ^ 61 + 2 ^ 60 + (if bit need 3 then 2 ^ 59 else 0) + 2 ^ 58 + if f.fmode.getLsbD 2 then 0 else 2 ^ 56

/-- Granules of a 64 KiB frame. -/
def frameGranules (frame : Nat) : List Nat := (List.range 1024).map fun i => frame / 64 + i

/-- Memory without the bytes of a frame. -/
def outsideFrame (frame : Nat) (m : List Host.Cell) : List Host.Cell := Store.keep (w := 8) m fun a => !(decide (frame ≤ a) && decide (a < frame + 65536))

/-- What a core has read of a frame before it changed owner is forgotten. -/
def forgetFrame (frame : Nat) (d : DevView) : DevView :=
  { d with
    snap := outsideFrame frame d.snap
    fetchOld := outsideFrame frame d.fetchOld
    vars := d.vars.map fun v => { v with view := v.view.map fun w => { w with snap := outsideFrame frame w.snap } } }

/-- The units that a frame is charged to other functions leave them as the scrub begins (R74). -/
def dischargeFrame (s : State) (fn frame : Nat) : State :=
  { s with fns := s.fns.map fun g => if g.num != fn then { g with qused := g.qused - g.charges.count frame, charges := g.charges.filter fun x => x != frame } else g }

/-- Memory that changes owner reads as zero until it is written, by every core (R73). DEDUCED (log 20). -/
def scrubFrame (s : State) (fn frame leaf : Nat) : State :=
  let d := draw (onCores (dischargeFrame s fn frame) fun c => { c with dev := forgetFrame frame c.dev })
  let gs := frameGranules frame
  { d.2 with
    mem := outsideFrame frame s.mem
    limited := s.limited.filter fun l => !(decide (frame ≤ l.pa) && decide (l.pa < frame + 65536))
    scrub := (s.scrub.filter fun g => !gs.contains g) ++ gs
    scrubPages := (s.scrubPages.filter fun p => p.frame != frame) ++ [{ frame := frame, leaf := leaf, due := s.wall + d.1 }]
    stamp := s.stamp + 1 }


/-- Map the frame at the top of the list and retry the access. DEDUCED (log 19). -/
def installFrame (s : State) (f : Func) (r : Resolution) (slot : Nat) : State :=
  let frame := leNat (readSys s (f.rflist + 8 * (f.rfcount - 1)) 8)
  let ws := withKeys slot (leBytes 8 (resolverLeaf f frame r.need))
  let s := onFn s f.num fun f => { f with rfcount := f.rfcount - 1, qused := f.qused + 1, charges := f.charges ++ [frame], walkOld := pokes f.walkOld ws }
  let s := if f.fmode.getLsbD 2 then s else scrubFrame s f.num frame slot
  answerRequest (writeSys s ws) f.num r none

/-- Answer one request by the first line of R420 that fits. -/
def resolveRequest (s : State) (f : Func) (r : Resolution) : State :=
  if r.cond = 1 then answerRequest s f.num r (some 1)
  else if r.cond = 2 then answerRequest s f.num r (some 2)
  else if f.num != 0 && r.stage == 1 then answerRequest s f.num r (some 0)
  else match requestSlot s f r with
    | none => answerRequest s f.num r none
    | some none => answerRequest s f.num r (some 0)
    | some (some slot) =>
      if f.rfcount = 0 then answerRequest s f.num r (some 0)
      else if f.quota < f.qused + 1 then answerRequest (emitQuota s f.num r.cid r.task r.va) f.num r (some 3)
      else installFrame s f r slot

/-- The request the resolver answers next: one at a time, in the order they reach it. -/
def resolverRequest (s : State) (f : Func) : Option Resolution :=
  if f.fmode.getLsbD 0 then none
  else match f.resolutions with
    | r :: _ => if r.due ≤ s.wall then some r else none
    | [] => none

def execHardwareResolver (fn : Nat) (s : State) : Answer :=
  match fnOf s fn with
  | none => .refused (.notEnabled "HARDWARE_RESOLVER")
  | some f => match resolverRequest s f with
    | none => .refused (.notEnabled "HARDWARE_RESOLVER")
    | some r => .next (resolveRequest s f r)

/-! ### The scrub engine (R73) -/

/-- Clear SP in a leaf that still maps the frame, and invalidate it: no cached walk holds the old leaf, and the runs that do are marked. DEDUCED (log 20). -/
def clearSp (s : State) (p : ScrubPage) : State :=
  let e := leNat (readSys s p.leaf 8)
  if entryValid e && entryFrame e == p.frame && bit e 56 then
    let ws := [(p.leaf + 7, BitVec.ofNat 8 (bits e 63 56 - 1))]
    let s := writeSys s ws
    let s := { s with fns := s.fns.map fun f => { f with walkOld := pokes f.walkOld ws } }
    onCores s fun c => { c with dev := { c.dev with runs := c.dev.runs.map fun r => if r.sp && decide (r.pa ≤ p.frame) && decide (p.frame < r.pa + r.len) then { r with marked := true } else r } }
  else s

/-- The scrub engine has zeroed what was pending of a frame and drops SP. DEDUCED (log 20). -/
def execScrub (page : Nat) (s : State) : Answer :=
  match s.scrubPages.find? fun p => p.frame == page with
  | none => .refused (.notEnabled "SCRUB")
  | some p =>
    let gs := frameGranules p.frame
    .next (clearSp { s with scrub := s.scrub.filter fun g => !gs.contains g, scrubPages := s.scrubPages.filter fun x => x != p } p)

/-! ### Re-walks (R71) -/

/-- The marked run that holds a VA of an extent. -/
def DevView.markedAt (d : DevView) (x va : Nat) : Option Run := (d.runAt x va).bind fun r => if r.marked then some r else none

/-- A marked run that a promised load of this schedule cycle meets, or one of a TICK group whose boundary is known to be a TICK (R71, R72, R108). -/
def promisedRun (s : State) (c : StreamCore) : Option Run :=
  ((c.pipe.flights.filter fun f => decide (f.due ≤ c.pipe.cyc) && !heldBack s c f.seq).filterMap fun f => f.late).findSome? fun q => if q.held then (q.places c.dev).2.findSome? (c.dev.markedAt (q.places c.dev).1) else none

/-- A marked run that freezes the core: one that a promised load of this cycle, the fetch of the group at issue, or an access of that group meets (R71, R72). -/
def neededRun (s : State) : Option Run :=
  let c := s.core
  let pc := c.pipe.pc.toNat
  let fetch := (List.range 16).findSome? fun i => c.dev.markedAt 16 (pc + 16 * i)
  match promisedRun s c <|> fetch with
  | some r => some r
  | none => match (fetchGroup s).1 with
    | .group ws => (ws.filterMap fun w => (nameSyllable w).toOption).findSome? fun i => match c.ememRange i with
      | none => none
      | some (x, off, n) => if off < 0 then none else (pieces ((c.dev.extent x).base + off.toNat) n).findSome? fun p => c.dev.markedAt x p.1
    | _ => none

/-- The marked run that holds a page, first one whose walk has come to its end. -/
def DevView.walkedRun (d : DevView) (wall page : Nat) : Option Run :=
  let at_ := d.runs.filter fun r => r.marked && decide (r.va ≤ page) && decide (page < r.va + r.len)
  (at_.find? fun r => d.walks.any fun w => w.ext == r.ext && w.va == r.va && decide (w.due ≤ wall)) <|> at_.head?

/-- The scheduler walks a marked run of the core at turn again: the one that holds the page. DEDUCED (log 19). -/
def execRunRewalk (page : Nat) (s : State) : Answer :=
  match s.core.dev.walkedRun s.wall page with
  | none => .refused (.notEnabled "RUN_REWALK")
  | some r => .next (rewalkRun s s.core.seat.cid r)

/-! ### Invalidation (R67 to R71, R410) -/

/-- The entry at index i of a ring of a function. -/
def ringEntry (s : State) (f : Func) (ring i : Nat) : List Byte :=
  let r := f.ring ring
  readSys s (r.slot (r.head + BitVec.ofNat 32 i)) 64

/-- Are the bytes of an entry outside the listed ranges zero? -/
def zeroOutside (fields : List (Nat × Nat)) (e : List Byte) : Bool :=
  (List.range 64).all fun i => (fields.any fun f => decide (f.1 ≤ i) && decide (i < f.1 + f.2)) || nth e i 0 == 0

/-- Kind of a descriptor of no effect. -/
def noKind : Nat := 15

/-- The invalidation an entry asks for; a malformed one is of no kind (R67). -/
def invalOf (fn : Nat) (e : List Byte) (regs : List Nat) (due : Nat) : Inval :=
  let d := leNat (slice e 0 16)
  let kind := if fn = 0 then bits d 127 124 else 0
  let dest := if fn = 0 then bits d 123 116 else fn
  let addr := bits d 79 0
  let unit := if kind = 3 then 2 ^ 29 else 65536
  if !zeroOutside [(0, 16)] e || decide (3 < kind) || decide (128 < dest) || bits d 95 80 != 0 || addr % unit != 0 then { kind := noKind, fn := fn, count := 0, addr := 0, regs := regs, flushed := true, due := due }
  else { kind := kind, fn := dest, count := bits d 115 96 + 1, addr := addr, regs := regs, flushed := false, due := due }

/-- Does an invalidation cover a page of a run? Second-stage ranges and whole functions are held by IPA, which no run keeps, so they cover every run of the function. -/
def Inval.covers (v : Inval) (r : Run) : Bool :=
  match v.kind with
  | 0 => decide (r.va < v.addr + 65536 * v.count) && decide (v.addr < r.va + r.len)
  | 1 => true
  | 2 => true
  | _ => false

/-- Mark the runs of the running tasks of the function (R71). DEDUCED (log 19). -/
def markRuns (s : State) (v : Inval) : State :=
  onCores s fun c => if c.seat.status != .free && c.seat.fn == v.fn then
    { c with dev := { c.dev with runs := c.dev.runs.map fun r => if v.covers r then { r with marked := true } else r } } else c

/-- The directory and export registers as the physical function has written them (R403). -/
def State.hostRegs (s : State) : List Nat := [s.dirbase, s.dirlen, s.expbase, s.explen]

/-- Is there an entry of ring 3 that has not been started? -/
def invalReady (f : Func) : Bool := (f.ring 3).size != 0 && decide (f.invals.length < (f.ring 3).held)

def execInvalidation (fn : Nat) (s : State) : Answer :=
  match fnOf s fn with
  | none => .refused (.notEnabled "INVALIDATION")
  | some f =>
    if invalReady f then
      let d := draw s
      let i := f.invals.length
      let v := invalOf fn (ringEntry s f 3 i) (nth f.issuedRegs i s.hostRegs) (s.wall + d.1)
      let s := onFn d.2 fn fun f => { f with invals := f.invals ++ [v] }
      .next (if v.kind = noKind then emitMalformed s fn 3 ((f.ring 3).head + BitVec.ofNat 32 i).toNat else markRuns s v)
    else .refused (.notEnabled "INVALIDATION")

/-- Copy a range of memory into an older image. -/
def copyRange (old now : List Host.Cell) (a n : Nat) : List Host.Cell :=
  pokes (Store.keep (w := 8) old fun x => !(decide (a ≤ x) && decide (x < a + n))) (now.filter fun c => decide (a ≤ c.1) && decide (c.1 < a + n))

/-- PAs of the table entries a walk reads, from the root down. -/
def walkPath (img : List Host.Cell) (place : Nat → Except WalkOut Nat) (va : Nat) : Nat → Nat → List Nat
  | 0, table => match place (table + 8 * entryIndex 0 va) with
    | .error _ => []
    | .ok pa => [pa]
  | n + 1, table => match place (table + 8 * entryIndex (n + 1) va) with
    | .error _ => []
    | .ok pa =>
      let e := peekLe img pa 8
      pa :: if entryValid e && !entryLeaf e && !entryBad false (n + 1) e then walkPath img place va n (entryFrame e) else []

/-- Entries of the walk of one page that an invalidation of kind 0 or 1 refreshes; for kind 1 also the frame the page maps, since the guest's tables may lie in it. -/
def refreshPage (f : Func) (now : List Host.Cell) (at_ : Nat → Nat) (second : Bool) (a : Nat) (old : List Host.Cell) : List Host.Cell :=
  let path := if f.num = 0 then walkPath now (fun pa => .ok (at_ pa)) a 4 f.root1
    else if second then walkPath now (fun pa => .ok (at_ pa)) a 4 f.root2
    else walkPath now (placeSecond now at_ f.root2) a 4 f.root1
  let old := path.foldl (fun m pa => copyRange m now pa 8) old
  if second then
    match walkSecond now at_ f.root2 a with
    | .leaf level _ e => copyRange old now (leafMap level e a / 65536 * 65536) 65536
    | _ => old
  else old

/-- The cached entries of the directory segments that an invalidation names, and of the export table, are those that memory holds now, at the places the given registers name (R67, R76, R403). -/
def refreshFabric (s : State) (regs : List Nat) (v : Inval) : State :=
  let i := (v.addr - 2 ^ 51) / 2 ^ 29
  let dir := if 2 ^ 51 ≤ v.addr then copyRange s.dirCache s.mem (nth regs 0 0 + 8 * i) (8 * v.count) else s.dirCache
  { s with dirCache := copyRange dir s.mem (nth regs 2 0) (16 * nth regs 3 0) }

/-- Cached walks and cached directory entries hold nothing older from here on (R68, R70, R76). DEDUCED (log 19). -/
def refreshWalks (s : State) (v : Inval) : State :=
  let pages := (List.range v.count).map fun i => v.addr + 65536 * i
  let now := devImage s
  match v.kind with
  | 0 => onFn s v.fn fun f => { f with walkOld := pages.foldl (fun m a => refreshPage f now (routed s 0) false a m) f.walkOld }
  | 1 => onFn s v.fn fun f => { f with walkOld := pages.foldl (fun m a => refreshPage f now (routed s 0) true a m) f.walkOld }
  | 2 => onFn s v.fn fun f => { f with walkOld := now }
  | 3 => refreshFabric s s.fabricRegs v
  | _ => s

/-- Wall cycle by which the accesses of a core that are in flight have completed. -/
def StreamCore.accessesDone (c : StreamCore) (wall : Nat) : Nat :=
  let vars := (c.dev.vars.filter fun v => !v.isOpen).map fun v => v.due
  let loads := (c.pipe.flights ++ c.pipe.held1 ++ c.pipe.held2).filterMap fun f => f.late.map fun q => q.arrive
  (vars ++ loads).foldl max wall

/-- The old entries leave the cached walks, and the runs that hold them are marked, those built since the start as well; the invalidation completes once the accesses that used them have (R68 to R71). DEDUCED (log 19). -/
def flushInval (s : State) (fn : Nat) (v : Inval) : State :=
  let s := markRuns (refreshWalks s v) v
  let due := ((allCores s).filter fun c => c.seat.status != .free && (v.kind == 3 || c.seat.fn == v.fn)).foldl (fun n c => max n (c.accessesDone s.wall)) s.wall
  onFn s fn fun f => { f with invals := f.invals.map fun x => if x = v then { x with flushed := true, due := due } else x }

/-- What the completion of a KIND 3 invalidation puts into effect: the registers as they stood at its issue, and the entries as they are now (R76, R403). DEDUCED (log 19). -/
def completeInval (s : State) (v : Inval) : State :=
  if v.kind = 3 then { refreshFabric s v.regs v with fabricRegs := v.regs } else s

/-- The invalidation whose old entries are given up next: any that has begun, at its time. -/
def invalFlush (s : State) (f : Func) : Option Inval := f.invals.find? fun v => !v.flushed && decide (v.due ≤ s.wall)

/-- The invalidation that completes next: in ring order (R410). -/
def invalDone (s : State) (f : Func) : Option Inval :=
  match f.invals with
  | v :: _ => if v.flushed && decide (v.due ≤ s.wall) then some v else none
  | [] => none

def execInvalidationComplete (fn : Nat) (s : State) : Answer :=
  match (fnOf s fn).bind (invalDone s) with
  | none => .refused (.notEnabled "INVALIDATION_COMPLETE")
  | some v =>
    let s := completeInval s v
    .next (onRing (onFn s fn fun f => { f with invals := f.invals.tail, issuedRegs := f.issuedRegs.tail }) fn 3 fun r => { r with head := r.head + 1 })

/-! ### Soft errors and the background scrubber (R30, R33, R34) -/


/-- Rows of a scratchpad. -/
def spRows : Nat := 6144

/-- An upset: a granule fails its detection code from now on; a sample is corrected in place and counted for its bank, or lost until its face is written: where the event says so, and where the banks that have failed leave the code no erasure to correct. In a failed bank it changes nothing that a read rebuilds. The manual does not place samples in banks and rows of the tap store: the event names them. DESIGN CHOICE (log 51). -/
def execSoftError (core : Nat) (what : Upset) (s : State) : Answer :=
  match coreOf s core, what with
  | some _, .granule bank row =>
    if bank < 18 && row < spRows then .next (onCore s core fun c => { c with sp := c.sp.erase bank row }) else .refused (.notEnabled "SOFT_ERROR")
  | some c, .sample sig lag bank row correctable =>
    if bank < 18 && row < tapRows && (c.sig sig).any fun g => decide (lag < g.samples.length) then
      .next (if correctable && !c.tapLost bank row then
          if c.tapBanks.failed.contains bank then s
          else
            let r := c.correctTap s.wall bank row (tapTval sig lag).toNat
            softEvents (onCore s core fun _ => r.1) core r.2
        else onCore s core fun c => onSig c sig fun g => { g with samples := modifyNth g.samples lag fun x => { x with bad := some (bank, row) } })
    else .refused (.notEnabled "SOFT_ERROR")
  | none, _ => .refused (.notEnabled "SOFT_ERROR")

/-- A bank of the scratchpad or of the tap store reports a hard failure (R30, R34). No access to a row met it: its report carries row 0 and offset 0. DESIGN CHOICE (log 51). -/
def execBankHardFailure (core : Nat) (bank : BankId) (s : State) : Answer :=
  match coreOf s core, bank with
  | some c, .scratch bank =>
    if bank < 18 then
      let r := c.sp.markFailed c.tapBanks.failed.length bank 0
      .next (softEvents (onCore s core fun c => { c with sp := r.1 }) core r.2)
    else .refused (.notEnabled "BANK_HARD_FAILURE")
  | some c, .tap bank =>
    if bank < 18 then
      let r := c.failTap bank 0 0
      if 3 ≤ r.1.tapBanks.failed.length && !c.tapBanks.failed.contains bank then
        .next (softEvents (onCore { s with draws := s.draws + c.sampleDraws } core fun _ => r.1.loseSamples s.draws bank) core r.2)
      else .next (softEvents (onCore s core fun _ => r.1) core r.2)
    else .refused (.notEnabled "BANK_HARD_FAILURE")
  | none, _ => .refused (.notEnabled "BANK_HARD_FAILURE")

/-- One core's stripes are read and corrected. -/
def scrubCore (s : State) (c : StreamCore) : State :=
  if c.sp.erased.isEmpty then s
  else
    let cells := c.sp.erased.map fun e => e.1
    let r := cells.foldl (fun a k => Scratch.mend c.tapBanks.failed.length s.wall a (k % 18) (k / 18)) (c.sp, [])
    softEvents (onCore s c.seat.cid fun c => { c with sp := r.1 }) c.seat.cid r.2

/-- A pass of the background scrubber over every stripe; the next one follows within 2^28 cycles. DEDUCED (log 20). -/
def execScrubberPass (s : State) : Answer :=
  let d := draw s
  let s := { d.2 with scrubNext := s.wall + 1 + d.1 % 2 ^ 28 }
  .next ((allCores s).foldl scrubCore s)

end Sys2Proof.Machine
end

