-- ==== Sys2Proof/Machine/Host.lean ====
section
/-! DEFINITION. What the host does to a function: BAR0, rings, stops, policy banks, partition descriptors, and its accesses to device memory (R127, R143 to R145, R355, R370, R371, R402 to R413). -/
namespace Sys2Proof.Machine

/-- A change of a function that exists. -/
def withFn (name : String) (fn : Nat) (s : State) (f : Func → State) : Answer :=
  match fnOf s fn with
  | none => .refused (.notEnabled name)
  | some g => .next (f g)

/-! ### Launch window (R355) -/

def stageDword (s : State) (fn slot dword : Nat) (data : Word) : State := onFn s fn fun f => { f with launch := f.launch.set (8 * slot + dword) data }

/-- A record of the launch window; one that is held on a migrating page, and those behind it, wait in order (R72). -/
def takeRecord (s : State) (f : Func) (slot : Nat) (bs : List Byte) : State :=
  let wait := fun (s : State) => onFn s f.num fun f => { f with submits := f.submits ++ [(slot, bs)] }
  if !f.submits.isEmpty then wait s
  else match submitRecord s f.num slot bs none with
    | (.held, s) => wait s
    | (_, s) => s

/-- Try the oldest record that waits; whether it was taken. -/
def retryRecord (s : State) (f : Func) : Option State :=
  match f.submits with
  | [] => none
  | (slot, bs) :: rest => match submitRecord (onFn s f.num fun f => { f with submits := rest }) f.num slot bs none with
    | (.held, _) => none
    | (_, s) => some s

/-- The record of a slot with its last dword; the staged bytes become zero. -/
def submitSlot (s : State) (f : Func) (slot : Nat) (data : Word) : State :=
  let bs := ((List.range 7).flatMap fun i => leBytes 8 (f.launch.get (8 * slot + i)).toNat) ++ leBytes 8 data.toNat
  takeRecord (onFn s f.num fun f => { f with launch := f.launch.keep fun k => decide (k / 8 ≠ slot) }) f slot bs

def execLaunchStage (fn slot dword : Nat) (data : Word) (s : State) : Answer :=
  if slot < 16 && dword < 7 then withFn "LAUNCH_STAGE" fn s fun _ => stageDword s fn slot dword data else .refused (.notEnabled "LAUNCH_STAGE")

def execLaunchRecord (fn slot : Nat) (data : Word) (s : State) : Answer :=
  if slot < 16 then withFn "LAUNCH_RECORD" fn s fun f => submitSlot s f slot data else .refused (.notEnabled "LAUNCH_RECORD")

/-! ### Policy banks (R368, R370, R371) -/

/-- The inactive bank. -/
def Func.spare (f : Func) : Nat := 1 - f.active
def Func.spareBank (f : Func) : Bank := nth f.banks f.spare { code := [], vstat := 0 }
def onSpare (s : State) (fn : Nat) (g : Bank → Bank) : State := onFn s fn fun f => { f with banks := modifyNth f.banks f.spare g }

/-- A bytecode at an index of an image, the image grown with zeros as far as it takes. -/
def putCode (code : List (BitVec 32)) (i : Nat) (w : BitVec 32) : List (BitVec 32) :=
  modifyNth (code ++ List.replicate (i + 1 - code.length) 0) i fun _ => w

def writePolicy (s : State) (fn index : Nat) (data : BitVec 32) : State :=
  match fnOf s fn with
  | none => s
  | some f => if f.swapPend then emitPolicy s fn 1 0 else onSpare s fn fun b => { code := putCode b.code index data, vstat := 0 }

def execPolicyWindowWrite (fn index : Nat) (data : BitVec 32) (s : State) : Answer :=
  if index < 256 then withFn "POLICY_WINDOW_WRITE" fn s fun _ => writePolicy s fn index data else .refused (.notEnabled "POLICY_WINDOW_WRITE")

/-- Verification starts; a bank that a swap waits for stays verified. DEDUCED (log 18). -/
def verifySpare (s : State) (fn : Nat) : State :=
  match fnOf s fn with
  | none => s
  | some f => if f.swapPend then s else
      let d := draw s
      onSpare (onFn d.2 fn fun f => { f with verifyDue := s.wall + d.1 }) fn fun b => { b with vstat := 1 }

def execPcmdVerify (fn : Nat) (s : State) : Answer := withFn "PCMD_VERIFY" fn s fun _ => verifySpare s fn

/-- Verification ends (R368). -/
def execVerificationDone (fn : Nat) (s : State) : Answer :=
  match fnOf s fn with
  | none => .refused (.notEnabled "VERIFICATION_DONE")
  | some f =>
    if f.spareBank.vstat = 1 then
      .next (match imageRefusal f.spareBank.code with
        | none => onSpare s fn fun b => { b with vstat := 2 }
        | some (reason, ix) => onFn (onSpare s fn fun b => { b with vstat := 3 }) fn fun f => { f with vreason := reason, failix := ix })
    else .refused (.notEnabled "VERIFICATION_DONE")

/-- A swap is requested; it is ignored unless the bank is verified (R371). -/
def requestSwap (s : State) (fn : Nat) : State := onFn s fn fun f => if f.spareBank.vstat = 2 then { f with swapPend := true } else f

def execPcmdSwap (fn : Nat) (s : State) : Answer := withFn "PCMD_SWAP" fn s fun _ => requestSwap s fn

/-! ### Stop and resume (R143 to R145, R413) -/

def requestStop (s : State) (fn : Nat) : State := onFn s fn fun f => if f.stopReq then f else { f with stopReq := true, savedGroups := 0 }

def execStopRequest (fn : Nat) (s : State) : Answer := withFn "STOP_REQUEST" fn s fun _ => requestStop s fn

/-- Have all tick groups of a stopping function stopped, and its engine commands completed? A core is freed only when its commands have. DEDUCED (log 16). -/
def stopDone (s : State) (f : Func) : Bool := f.stopReq && !f.stopped && !f.resetting && !((allCores s).any fun c => c.seat.status != .free && c.seat.status != .loading && c.seat.fn == f.num)

/-- Binds that were not dispatched are taken back: their cores are free and their saved groups saved. DEDUCED (log 16). -/
def cancelBinds (s : State) (fn : Nat) : State :=
  match fnOf s fn with
  | none => s
  | some f => f.binds.foldl (fun s b => undoBind s fn b) s

def execFunctionStopped (fn : Nat) (s : State) : Answer :=
  match fnOf s fn with
  | none => .refused (.notEnabled "FUNCTION_STOPPED")
  | some f =>
    if stopDone s f then
      let s := onFn (cancelBinds s fn) fn fun f => { f with stopped := true }
      .next (emit s fn 1 { typ := 1, src := 4, core := noneId, task := noneId, ents := [[(16, 4, f.savedGroups)]] } [])
    else .refused (.notEnabled "FUNCTION_STOPPED")

/-- Messages that a destination sends after resume: one for each record of the rings given back, since which of them the source has sent the image does not say (R392). DESIGN CHOICE (log 58). -/
def Func.restoredMessages (f : Func) : List Nat := f.restored.eraseDups.flatMap fun r => List.replicate (f.ring r).kept.length r

/-- The function runs again; a stop that has not completed yet is called off, also where groups of it have been saved or are marked to be. Its queues are decided on anew by an ARRIVE, or CROWD, of the first head, in the place of a flag that is pending: R360 names no event of a resume. DESIGN CHOICE (log 16). -/
def resumeFn (s : State) (fn : Nat) : State :=
  match fnOf s fn with
  | none => s
  | some f =>
    if !f.stopReq || f.resetting then s
    else
      let s := { s with outbox := s.outbox ++ f.restoredMessages.map fun v => Output.msix fn v }
      let s := onFn s fn fun f => { f with stopReq := false, stopped := false, restored := [] }
      match (List.range 16).findSome? (headOf s f) with
      | some t => raiseArrive s fn t
      | none => s

def execResume (fn : Nat) (s : State) : Answer := withFn "RESUME" fn s fun _ => resumeFn s fn

/-! ### Status registers and plain registers (R403, R405, R411) -/

def clearUesta (s : State) (fn : Nat) (ones : Word) : State :=
  onFn s fn fun f => let u := f.uesta &&& ~~~ones; { f with uesta := u, hdrTaken := f.hdrTaken && u != 0 }
def clearCesta (s : State) (fn : Nat) (ones : Word) : State := onFn s fn fun f => { f with cesta := f.cesta &&& ~~~ones }

def execUestaClear (fn : Nat) (ones : Word) (s : State) : Answer := withFn "UESTA_CLEAR" fn s fun _ => clearUesta s fn ones
def execCestaClear (fn : Nat) (ones : Word) (s : State) : Answer := withFn "CESTA_CLEAR" fn s fun _ => clearCesta s fn ones

def writeFmode (s : State) (fn : Nat) (data : Word) : State := onFn s fn fun f => if f.stopped then { f with fmode := data &&& 0xF } else f

def execFmodeWrite (fn : Nat) (data : Word) (s : State) : Answer := withFn "FMODE_WRITE" fn s fun _ => writeFmode s fn data

/-! ### Ring descriptors (R404) -/

/-- DEDUCED (log 22). -/
def writeRingBase (s : State) (f : Func) (ring : Nat) (data : Word) : State :=
  if f.stopped && data.toNat % 64 == 0 then onRing s f.num ring fun r => { r with base := data.toNat } else s

/-- Completions that wait are written as room comes. -/
def drainWaiting (s : State) (fn : Nat) : State :=
  match fnOf s fn with
  | none => s
  | some f => drainCompletions f.waitingDone.length s fn

def writeRingSize (s : State) (f : Func) (ring : Nat) (data : Word) : State :=
  let n := data.toNat % 256
  if f.stopped && (n == 0 || (decide (4 ≤ n) && decide (n ≤ 16))) then
    let s := onRing s f.num ring fun r => { r with size := n, head := 0, tail := 0, drop := 0, disc := 0, seq := 0, ends := [] }
    let s := if ring = 3 then onFn s f.num fun f => { f with issuedRegs := [], invals := [] } else s
    if ring = 2 then drainWaiting s f.num else s
  else s

/-- A host write of an index it owns that goes forward within the ring is taken; another is counted in DROP. -/
def ringDropped (s : State) (fn ring : Nat) : State := onRing s fn ring fun r => { r with drop := sat32 (r.drop + 1) }

/-- HEAD of a device-produced ring: it passes no more entries than the ring holds. -/
def writeRingHead (s : State) (f : Func) (ring : Nat) (data : BitVec 32) : State :=
  if ring = 3 || ring = 5 || ring = 7 then s
  else
    let r := f.ring ring
    if (data - r.head).toNat ≤ r.held then
      let s := onRing s f.num ring fun r => { r with head := data }
      if ring = 2 then drainWaiting s f.num else s
    else ringDropped s f.num ring

/-- TAIL of a host-produced ring: it passes no more entries than are free. -/
def writeRingTail (s : State) (f : Func) (ring : Nat) (data : BitVec 32) : State :=
  if ring = 3 || ring = 5 || ring = 7 then
    let r := f.ring ring
    if (data - r.tail).toNat + r.held ≤ (if r.size = 0 then 0 else 2 ^ r.size) then
      let s := if ring = 3 then onFn s f.num fun f => { f with issuedRegs := f.issuedRegs ++ List.replicate (data - r.tail).toNat s.hostRegs } else s
      onRing s f.num ring fun r => { r with tail := data }
    else ringDropped s f.num ring
  else s

/-- A write to a descriptor of a ring that exists. -/
def ringWrite (name : String) (fn ring : Nat) (s : State) (f : Func → State) : Answer := if ring < 8 then withFn name fn s f else .refused (.notEnabled name)

def execRingBaseWrite (fn ring : Nat) (data : Word) (s : State) : Answer := ringWrite "RING_BASE_WRITE" fn ring s fun f => writeRingBase s f ring data
def execRingSizeWrite (fn ring : Nat) (data : Word) (s : State) : Answer := ringWrite "RING_SIZE_WRITE" fn ring s fun f => writeRingSize s f ring data
def execRingHeadWrite (fn ring : Nat) (data : BitVec 32) (s : State) : Answer := ringWrite "RING_HEAD_WRITE" fn ring s fun f => writeRingHead s f ring data
def execRingTailWrite (fn ring : Nat) (data : BitVec 32) (s : State) : Answer := ringWrite "RING_TAIL_WRITE" fn ring s fun f => writeRingTail s f ring data

/-! ### Other registers (R403) -/

/-- A write of a 64-bit BAR0 register by its offset: registers with a behaviour of their own have it, read-only and reserved offsets discard the write. DEDUCED (log 13). DEDUCED (log 22). -/
def writeRegister (s : State) (f : Func) (offset : Nat) (data : Word) : State :=
  let fn := f.num
  if offset % 8 ≠ 0 then s
  else if offset < 0x400 then
    (if offset % 64 / 8 = 7 then submitSlot s f (offset / 64) data else stageDword s fn (offset / 64) (offset % 64 / 8) data)
  else if offset < 0x800 then writePolicy (writePolicy s fn ((offset - 0x400) / 4) (data.extractLsb' 0 32)) fn ((offset - 0x400) / 4 + 1) (data.extractLsb' 32 32)
  else match offset with
    | 0x800 => if data = 1 then verifySpare s fn else if data = 2 then requestSwap s fn else s
    | 0x810 => onFn s fn fun f => { f with quantum := data.toNat }
    | 0x818 => writeFmode s fn data
    | 0x820 => if data.getLsbD 0 then requestStop s fn else resumeFn s fn
    | 0x828 => clearUesta s fn data
    | 0x830 => onFn s fn fun f => { f with uemsk := data &&& 0x3F#64 }
    | 0x838 => clearCesta s fn data
    | 0x840 => onFn s fn fun f => { f with cemsk := data &&& 0xF#64 }
    | _ =>
      if 0x900 ≤ offset && offset < 0xA00 then
        let ring := (offset - 0x900) / 32
        (match (offset - 0x900) % 32 with
        | 0 => writeRingBase s f ring data
        | 8 => writeRingSize s f ring data
        | 16 => writeRingHead s f ring (data.extractLsb' 0 32)
        | _ => writeRingTail s f ring (data.extractLsb' 0 32))
      else if fn = 0 then
        (match offset with
        | 0xA00 => { s with dirbase := data.toNat }
        | 0xA08 => { s with dirlen := data.toNat }
        | 0xA10 => { s with expbase := data.toNat }
        | 0xA18 => { s with explen := data.toNat }
        | _ => s)
      else s

/-- Rings that the device writes (R404). -/
def deviceRing (r : Nat) : Bool := r == 0 || r == 1 || r == 2 || r == 4 || r == 6

/-- Ends of the records a ring holds, by the numbers its entries carry (R406). -/
def Ring.endsIn (r : Ring) (s : State) : List (BitVec 32) :=
  if r.size = 0 then []
  else (List.range (min r.held (2 ^ r.size))).filterMap fun i =>
    let at_ := r.head + BitVec.ofNat 32 i
    let e := readSys s (r.slot at_) 3
    if leNat (slice e 1 1) + 1 = leNat (slice e 2 1) then some (at_ + 1) else none

/-- A ring descriptor word as it was saved. DEDUCED (log 13). -/
def putRingWord (w : Nat) (data : Word) (r : Ring) : Ring :=
  match w with
  | 0 => { r with base := data.toNat }
  | 1 => { r with drop := bits data.toNat 63 32, disc := bits data.toNat 31 16, size := bits data.toNat 7 0 }
  | 2 => { r with head := data.extractLsb' 0 32 }
  | _ => { r with tail := data.extractLsb' 0 32 }

/-- A ring after one of its words has been given back: the records that it holds count as the device's own, and their messages go out at resume (R392). DEDUCED (log 13). -/
def putRing (s : State) (fn ring w : Nat) (data : Word) : State :=
  if deviceRing ring then
    onFn (onRing s fn ring fun r => let r := putRingWord w data r; { r with ends := r.endsIn s }) fn fun f => { f with restored := ring :: f.restored }
  else onRing s fn ring (putRingWord w data)

/-- HDRLOG holds the record of an unmasked bit that is still set. DEDUCED (log 13). -/
def Func.logTaken (f : Func) : Func := { f with hdrTaken := (f.uesta &&& ~~~f.uemsk) != 0 }

/-- Write back a saved BAR0 register of a stopped function, the device's own indices, counters and status included (R414). DEDUCED (log 13). -/
def putRegister (s : State) (f : Func) (offset : Nat) (data : Word) : State :=
  if !f.stopped then writeRegister s f offset data
  else if 0x848 ≤ offset && offset < 0x888 && offset % 8 = 0 then
    onFn s f.num fun f => { f with hdrlog := f.hdrlog.take (offset - 0x848) ++ leBytes 8 data.toNat ++ f.hdrlog.drop (offset - 0x840) }.logTaken
  else if 0x900 ≤ offset && offset < 0xA00 && offset % 8 = 0 then putRing s f.num ((offset - 0x900) / 32) ((offset - 0x900) % 32 / 8) data
  else match offset with
    | 0x808 => onFn s f.num fun f => { f with overruns := bits data.toNat 63 32, failix := bits data.toNat 23 16, vreason := bits data.toNat 11 8, active := bits data.toNat 4 4 }
    | 0x828 => onFn s f.num fun f => { f with uesta := data &&& 0x3F#64 }.logTaken
    | 0x830 => onFn s f.num fun f => { f with uemsk := data &&& 0x3F#64 }.logTaken
    | 0x838 => onFn s f.num fun f => { f with cesta := data &&& 0xF#64 }
    | _ => writeRegister s f offset data

def execRegisterWrite (fn offset : Nat) (data : RegisterData) (s : State) : Answer :=
  withFn "REGISTER_WRITE" fn s fun f => match data with
    | .value w => writeRegister s f offset w
    | .back w => putRegister s f offset w

/-! ### Register reads (R370, R403, R404, R412) -/

/-- PCTL (R370). -/
def Func.pctl (f : Func) : Nat :=
  f.overruns * 2 ^ 32 + f.failix % 256 * 2 ^ 16 + f.spareBank.vstat * 2 ^ 12 + f.vreason % 16 * 2 ^ 8 + f.active * 16 + if f.swapPend then 1 else 0

/-- A word of a ring descriptor (R404). -/
def Ring.word (r : Ring) (w : Nat) : Nat :=
  match w with
  | 0 => r.base
  | 1 => r.drop * 2 ^ 32 + r.disc * 2 ^ 16 + r.size
  | 2 => r.head.toNat
  | _ => r.tail.toNat

/-- A BAR0 register as the host reads it; none where the manual gives no value: a write-only register or a reserved offset. -/
def readRegister (s : State) (f : Func) (offset : Nat) : Option Nat :=
  if offset % 8 ≠ 0 then none
  else if 0x848 ≤ offset && offset < 0x888 then some (leNat (slice f.hdrlog (offset - 0x848) 8))
  else if 0x900 ≤ offset && offset < 0xA00 then some ((f.ring ((offset - 0x900) / 32)).word ((offset - 0x900) % 32 / 8))
  else match offset with
    | 0x808 => some f.pctl
    | 0x810 => some f.quantum
    | 0x818 => some f.fmode.toNat
    | 0x820 => some ((if f.stopReq then 1 else 0) + if f.stopped then 2 else 0)
    | 0x828 => some f.uesta.toNat
    | 0x830 => some f.uemsk.toNat
    | 0x838 => some f.cesta.toNat
    | 0x840 => some f.cemsk.toNat
    | 0xA00 => if f.num = 0 then some s.dirbase else none
    | 0xA08 => if f.num = 0 then some s.dirlen else none
    | 0xA10 => if f.num = 0 then some s.expbase else none
    | 0xA18 => if f.num = 0 then some s.explen else none
    | _ => none

/-- Eight bytes of a partition descriptor (R412). -/
def readDescriptor (f : Func) (offset : Nat) : Nat :=
  match offset with
  | 0 | 8 | 16 | 24 => bits f.cores.toNat (8 * offset + 63) (8 * offset)
  | 32 => f.root2
  | 40 => f.poolPa
  | 48 => f.poolLen
  | 56 => f.quota
  | 64 => f.engineQuotas.toNat
  | 72 => f.qused
  | 88 => f.rflist
  | 96 => f.rfcount
  | _ => 0

/-! ### Partition descriptors (R74, R412) -/

/-- The host returns units; which of the frames the resolver has charged they stand for the manual does not say: the oldest. DESIGN CHOICE (log 52). -/
def releaseQuota (s : State) (fn : Nat) (data : Word) : State := onFn s fn fun f => { f with qused := f.qused - data.toNat, charges := f.charges.drop data.toNat }

def execQrelWrite (fn : Nat) (data : Word) (s : State) : Answer := withFn "QREL_WRITE" fn s fun _ => releaseQuota s fn data
def execRfcountWrite (fn : Nat) (data : BitVec 32) (s : State) : Answer := withFn "RFCOUNT_WRITE" fn s fun _ => onFn s fn fun f => { f with rfcount := data.toNat }

/-- Replace word w of the core mask. DEDUCED (log 22). -/
def putCores (m : BitVec 256) (w : Nat) (data : Word) : BitVec 256 := BitVec.ofNat 256 (m.toNat - bits m.toNat (64 * w + 63) (64 * w) * 2 ^ (64 * w) + data.toNat * 2 ^ (64 * w))

/-- Are the owners of all the cores a write changes stopped? DEDUCED (log 22). -/
def ownersStopped (s : State) (f : Func) (m : BitVec 256) : Bool :=
  f.stopped && s.fns.all fun g => g.num == f.num || g.stopped || (g.cores &&& (f.cores ^^^ m)) == 0

/-- A write of eight bytes of a descriptor; four fields may be written at any time, the others only while the owners are stopped. -/
def writeDescriptor (s : State) (f : Func) (offset : Nat) (data : Word) : State :=
  let fn := f.num
  let put := fun (g : Func → Func) => if f.stopped then onFn s fn g else s
  match offset with
  | 0 | 8 | 16 | 24 =>
    let m := putCores f.cores (offset / 8) data
    if ownersStopped s f m then onFn s fn fun f => { f with cores := m } else s
  | 32 => put fun f => { f with root2 := if fn = 0 then 0 else data.toNat }
  | 40 => put fun f => { f with poolPa := data.toNat }
  | 48 => if f.stopped || decide (f.poolLen ≤ data.toNat) then onFn s fn fun f => { f with poolLen := data.toNat } else s
  | 56 => onFn s fn fun f => { f with quota := data.toNat }
  | 64 => put fun f => { f with engineQuotas := data.extractLsb' 0 24 }
  | 80 => releaseQuota s fn data
  | 88 => put fun f => { f with rflist := data.toNat }
  | 96 => onFn s fn fun f => { f with rfcount := data.toNat % 2 ^ 32 }
  | _ => s

def execPartitionDescriptorWrite (fn offset : Nat) (data : Word) (s : State) : Answer :=
  withFn "PARTITION_DESCRIPTOR_WRITE" fn s fun f => writeDescriptor s f offset data

/-! ### Answers of the host (R410, R411) -/

/-- The entry a host ring offers next. -/
def nextEntry (s : State) (f : Func) (ring : Nat) : Option (List Byte) :=
  if (f.ring ring).size != 0 && (f.ring ring).held != 0 then some (ringEntry s f ring 0) else none

/-- The device has read it. -/
def passEntry (s : State) (fn ring : Nat) : State := onRing s fn ring fun r => { r with head := r.head + 1 }

/-- The first frame and the size of the page that the address of a request finds now in the stage that it names, and in the stages below it (R410). -/
def requestedPage (s : State) (f : Func) (r : Resolution) : Option (Nat × Nat) :=
  if r.stage = 2 && f.num != 0 then
    match walkSecond (devImage s) (routed s 0) f.root2 r.va with
    | .leaf level _ e => some (entryFrame e, leafBytes level)
    | _ => none
  else match translate s f 0 r.va with
    | .page p => p.leaves.getLast?.map fun l => (entryFrame l.2, p.leafSize)
    | _ => none

/-- The frames that the units of a RESOLVE stand for: those of the page that the request now finds, from its start on; further units stand for none. DESIGN CHOICE (log 52). -/
def resolvedFrames (s : State) (f : Func) (r : Resolution) (units : Nat) : List Nat :=
  match requestedPage s f r with
  | some (frame, size) => (List.range (min units (size / 65536))).map fun i => frame + 65536 * i
  | none => []

/-- A RESOLVE charges its units; one past the quota is refused (R74). -/
def hostResolves (s : State) (f : Func) (r : Resolution) (units : Nat) : State :=
  if f.quota < f.qused + units then answerRequest (emitQuota s f.num r.cid r.task r.va) f.num r (some 3)
  else answerRequest (onFn s f.num fun g => { g with qused := g.qused + units, charges := g.charges ++ resolvedFrames s f r units }) f.num r none

def takeAnswer (s : State) (f : Func) (e : List Byte) : State :=
  let ix := (f.ring 5).head.toNat
  let s := passEntry s f.num 5
  let answer := leNat (slice e 8 1)
  let detail := leNat (slice e 9 1)
  if !zeroOutside [(0, 10), (16, 8)] e || decide (1 < answer) || decide (4 < detail) then emitMalformed s f.num 5 ix
  else match f.resolutions.find? fun r => r.id == leNat (slice e 0 8) with
    | none => emitMalformed s f.num 5 ix
    | some r => if answer = 1 then answerRequest s f.num r (some detail) else hostResolves s f r (leNat (slice e 16 8))

def execResolutionAnswer (fn : Nat) (s : State) : Answer :=
  match (fnOf s fn).bind fun f => (nextEntry s f 5).map fun e => (f, e) with
  | none => .refused (.notEnabled "RESOLUTION_ANSWER")
  | some (f, e) => .next (takeAnswer s f e)

/-- Actions of an entry of ring 7. -/
def entryActions (e : List Byte) : List Action :=
  (List.range 3).filterMap fun k =>
    let op := leNat (slice e (16 * k) 1)
    if op = 0 then none else some { op := op, a := BitVec.ofNat 32 (leNat (slice e (16 * k + 4) 4)), b := BitVec.ofNat 32 (leNat (slice e (16 * k + 8) 4)) }

/-- An entry that the layout allows. -/
def decisionEntryOk (e : List Byte) : Bool :=
  zeroOutside ([0, 16, 32].flatMap (fun k => [(k, 1), (k + 4, 8)]) ++ [(48, 8), (63, 1)]) e && decide (leNat (slice e 63 1) < 2) &&
    (List.range 3).all fun k => let op := leNat (slice e (16 * k) 1); op == 0 || (decide (0x30 ≤ op) && decide (op ≤ 0x35))

/-- Take one entry of a decision's answer; the LAST one commits all of its actions. DEDUCED (log 18). -/
def takeDecision (s : State) (f : Func) (e : List Byte) : State :=
  let ix := (f.ring 7).head.toNat
  let s := passEntry s f.num 7
  if !decisionEntryOk e then emitMalformed s f.num 7 ix
  else match f.hostDecision with
    | none => s
    | some h =>
      if h.id ≠ leNat (slice e 48 8) then s
      else
        let staged := h.staged ++ entryActions e
        if bit (leNat (slice e 63 1)) 0 then finishDecision s f.num h.ev staged
        else onFn s f.num fun f => { f with hostDecision := some { h with staged := staged } }

def execDecisionAnswer (fn : Nat) (s : State) : Answer :=
  match (fnOf s fn).bind fun f => (nextEntry s f 7).map fun e => (f, e) with
  | none => .refused (.notEnabled "DECISION_ANSWER")
  | some (f, e) => .next (takeDecision s f e)

/-- Cycles within which the host answers. -/
def hostAnswerCycles : Nat := 2 ^ 24

def hostLate (s : State) (f : Func) : Option HostDecision :=
  match f.hostDecision with
  | some h => if h.asked + hostAnswerCycles ≤ s.wall then some h else none
  | none => none

/-- The fallback decides, and the late answer is recorded (R411). -/
def execHostDecisionTimeout (fn : Nat) (s : State) : Answer :=
  match (fnOf s fn).bind (hostLate s) with
  | none => .refused (.notEnabled "HOST_DECISION_TIMEOUT")
  | some h =>
    let s := onFn s fn fun f => { f with hostDecision := none }
    .next (fallback (emit s fn 1 { typ := 5, src := 4, core := noneId, task := noneId, ents := [[(16, 8, h.id)]] } []) fn h.ev)

/-! ### Device memory from the host (R127, R402) -/

/-- A range the host reaches: HBM or its own memory. DEDUCED (log 22). -/
def hostRange (pa len : Nat) : Bool := frameOk pa len && !isPooled pa

def sendOut (s : State) (o : Output) : State := { s with outbox := s.outbox ++ [o] }

/-- A host read of memory, or of a register; where the manual gives the register no value, a free one comes. -/
def execHostRead (place : HostPlace) (len : Nat) (s : State) : Answer :=
  match place with
  | .memory pa => .next (sendOut s (if hostRange pa len then .hostRead pa (readSys s pa len) else .refused))
  | .register fn offset => withFn "HOST_READ" fn s fun f => match readRegister s f offset with
    | some v => sendOut s (.hostWord (BitVec.ofNat 64 v))
    | none => let d := draw s; sendOut d.2 (.hostWord (BitVec.ofNat 64 d.1))
  | .descriptor fn offset => withFn "HOST_READ" fn s fun f => sendOut s (.hostWord (BitVec.ofNat 64 (readDescriptor f offset)))

def execHostWrite (pa : Nat) (data : List Byte) (s : State) : Answer := .next (if hostRange pa data.length then writeSysAt s pa data else sendOut s .refused)

/-- The new value of a PCI Express AtomicOp, none where it writes nothing. -/
def hostAtomicNew (op : HostAtomic) (len old a b : Nat) : Option Nat :=
  match op with
  | .fetchAdd => some ((old + a) % 256 ^ len)
  | .swap => some (a % 256 ^ len)
  | .cas => if old = b % 256 ^ len then some (a % 256 ^ len) else none

/-- FetchAdd, Swap and CAS of 32, 64 and 128 bits on HBM; for CAS, `b` is compared and `a` written. It acts on what the location holds at its home, a write current at a narrower scope included (R103, R115). -/
def execHostAtomic (op : HostAtomic) (pa len a b : Nat) (s : State) : Answer :=
  if (len == 4 || len == 8 || len == 16) && pa % len == 0 && isHbm pa && isHbm (pa + len - 1) then
    let old := peekBytes (homeImage s) pa len
    let s := match hostAtomicNew op len (leNat old) a b with
      | some x => writeSysAt s pa (leBytes len x)
      | none => s
    .next (sendOut s (.hostAtomic pa old))
  else .next (sendOut s .refused)

/-! ### Function-level reset (R392, R402, R413) -/

/-- Device records of a ring discarded at a reset. DEDUCED (log 21). -/
def resetRing (r : Ring) : Ring := { Ring.reset with disc := min (r.disc + r.kept.length) 65535 }

/-- The function after a reset, with its partition descriptor. DEDUCED (log 21). -/
def resetFunc (f : Func) : Func :=
  { Func.reset f.num with
    rings := f.rings.map resetRing, cores := f.cores, root2 := f.root2, poolPa := f.poolPa, poolLen := f.poolLen, quota := f.quota, engineQuotas := f.engineQuotas
    qused := f.qused, charges := f.charges, rflist := f.rflist, rfcount := f.rfcount, root1 := f.root1, walkOld := f.walkOld, nextReq := f.nextReq }

/-- Rings as a reset leaves them; completions that wait for room on ring 2 are records discarded too (R392). -/
def Func.ringsDiscarded (f : Func) : List Ring :=
  modifyNth (f.rings.map resetRing) 2 fun r => { r with disc := min (r.disc + f.waitingDone.length) 65535 }

/-- A function whose reset begins: its rings are discarded, nothing is decided or waited for any more, and it dispatches nothing. -/
def Func.beginReset (f : Func) : Func :=
  { f with
    resetting := true, stopReq := true, stopped := false, rings := f.ringsDiscarded, restored := [], launch := [], submits := [], faults := [], preemptFlag := none
    dispatchFlag := none, decideAt := none, decision := none, hostDecision := none, invals := [], issuedRegs := [], waitingDone := [], msixHeld := [] }

/-- The next step of a reset under way: a task that a command of a killed core has still launched is killed as all others are, requests are refused, and once the killed contexts have left their cores the function is as after a reset, stopped (R143, R390, R402, R413). DEDUCED (log 21). -/
def resetStep (s : State) (f : Func) : Option State :=
  if !f.resetting then none
  else match f.tasks.find? fun t => t.ended.isNone && !t.killReq, f.resolutions with
    | some t, _ => some (killTask s f.num t)
    | none, r :: _ => some (answerRequest s f.num r (some 0))
    | none, [] => if running s f.num then none else some (onFn s f.num resetFunc)

/-- Every task is killed and every request refused; cores drain as after any kill, the records of the tasks' completions are discarded and counted, and the function is stopped once they have (R392, R402). DEDUCED (log 21). -/
def resetFn (s : State) (f : Func) : State :=
  let s := onFn s f.num Func.beginReset
  let s := f.tasks.foldl (fun s t => if t.ended.isNone then killTask s f.num t else s) s
  f.resolutions.foldl (fun s r => answerRequest s f.num r (some 0)) s

/-- DEDUCED (log 21). -/
def execFunctionLevelReset (fn : Nat) (s : State) : Answer :=
  if fn = 0 then .refused (.notEnabled "FUNCTION_LEVEL_RESET") else withFn "FUNCTION_LEVEL_RESET" fn s fun f => resetFn s f

end Sys2Proof.Machine
end

