-- ==== Sys2Proof/Machine/Matrix.lean ====
section
/-! DEFINITION. Class A: the matrix array, its weight buffer and accumulator tiles, the array mode (R286 to R295). -/
namespace Sys2Proof.Machine

/-! ### Timing (R286, R287) -/

/-- Array cycles in schedule cycles: doubled in alternate mode. DEDUCED (log 34). -/
def StreamCore.arrayTime (c : StreamCore) (n : Nat) : Nat := if c.sys.amode = 0 then 2 * n else n

/-- The row-block K-step time: that of the slower operand format. -/
def StreamCore.blockTime (c : StreamCore) (h : Hdr) : Nat := max (stepTime c.q (hFmt h)) (stepTime c.wbuf.q c.wbuf.fmt)

/-- Cycles from issue to the commit of K-step t of row block g of G. -/
def commitAt (b G t g : Nat) : Nat := 24 + b * (G * t + g + 1)

/-! ### Operands and checks (R241, R289, R292) -/

/-- A trap of an A syllable. -/
def arrayTrap (s : State) (f : SpFault) : Res := .trap (s.trapHere 8 f.1 0 f.2)

/-- Does the partner hold exclusive mode under its MMODE syllable (R163, R295)? The core's STATE is then 0b11, or 0b00 where it was dispatched since. -/
def partnerHolds (s : State) : Bool := s.core.sys.amode == 3 || (partnerOf s).any fun p => p.seat.live && p.sys.amode == 2

/-- Check 1: the partner holds exclusive mode under its MMODE syllable. -/
def arrayTaken (s : State) : Option SpFault := if partnerHolds s then some (0x24, 0) else none

/-- Check 2: a buffer or window record. -/
def StreamCore.recordFault (c : StreamCore) (r : Nat) : Option SpFault := if recAccess (c.entry r) then none else some (0x20, BitVec.ofNat 64 r)

/-- Check 5: the loaded weights are of the format and at least the depth the syllable asks for. -/
def StreamCore.weightFault (c : StreamCore) (o : LArr) : Option SpFault :=
  let bad := some (0x25, BitVec.ofNat 64 (o.bfmt.toNat * 256 + c.wbuf.kst))
  match c.wbuf.fcode with
  | some f => if f = o.bfmt && o.kst.toNat ≤ c.wbuf.kst then none else bad
  | none => bad

/-- The bit string of a sample's bytes in the order cluster, cluster-vector, lane word (R241). -/
def Sig.rowString (g : Sig) (now : Word) (lag : Nat) : Nat :=
  packNat 32 ((setBits 8 g.clusters).flatMap fun cl => (List.range (g.vecs + 1)).flatMap fun v => (List.range 16).map fun j => (g.word now lag cl v j).toNat)

/-- The rows of a block of contiguous rows of n bytes each. -/
def StreamCore.blockRows (c : StreamCore) (b : SpBlock) (n : Nat) : List Nat :=
  let bs := c.blockBytes b
  (List.range (b.len / n)).map fun r => leNat (slice bs (n * r) n)

/-- The first n scale registers from sc(N), as R290 reads them at issue: one list of codes for each K-step. -/
def StreamCore.scaleRows (c : StreamCore) (sc n : Nat) : List (List Byte) :=
  (List.range n).map fun t => (List.range 256).map fun i => c.regs.sc.get (256 * (sc + t) + i)

/-- A tile element as an operand of FMT: divided by its scale for an MX format, wrapped or saturated for .q (R289). -/
def tileCode (f : Fmt) (q : QFmt) (mode : Nat) (scale : Byte) (x : Lane) : Nat :=
  if f.isIntLike then fitVal f q mode 0 true (Val.ofInt x.toInt)
  else if f.isMx then
    match scaleExp scale with
    | some k => fitVal f q mode 0 false ((f32Val x.toNat).scale (-k))
    | none => 0
  else fitVal f q mode 0 false (f32Val x.toNat)

/-- The rows of a down-converted tile. DEDUCED (log 28). -/
def StreamCore.tileRows (c : StreamCore) (h : Hdr) (o : LArr) (scales : List (List Byte)) : List Nat :=
  let f := hFmt h
  (List.range 256).map fun r => packNat (f.width c.q) ((List.range (32 * (o.kst.toNat + 1))).map fun k =>
    tileCode f c.q (hMode h) (nth (nth scales (k / 32) []) r 0x7F) (c.regs.m.get (accKey o.ms.toNat r k)))

/-! ### MMA, MMAC, LDW -/

/-- Put an array job in flight: one commit for each K-step and row block, and the occupancy of the array. -/
def startJob (s : State) (h : Hdr) (o : LArr) (G aw : Nat) (rows : List Nat) : Res :=
  let c := s.core
  let b := c.blockTime h
  let job : Job :=
    { uid := s.uid, mt := o.mt.toNat, sat := hMode h == 1, fa := hFmt h, qa := c.q, aw := aw, rows := rows
      scales := if (hFmt h).isMx then c.scaleRows o.sc.toNat (o.kst.toNat + 1) else [], w := c.wbuf }
  let s := { s with uid := s.uid + 1 }
  let s := s.onCore fun c => { c with jobs := c.jobs ++ [job], pipe := { c.pipe with arrayFree := c.pipe.cyc + c.arrayTime (G * b * (o.kst.toNat + 1)) } }
  let s := (List.range (o.kst.toNat + 1)).foldl (fun s t => (List.range G).foldl (fun s g => s.fly (c.arrayTime (commitAt b G t g)) (.commit job.uid t g)) s) s
  .ok s (some (c.arrayTime (commitAt b G o.kst.toNat (G - 1))))

/-- MMA from the scratchpad. -/
def mmaScratch (s : State) (h : Hdr) (o : LArr) (b : SpBlock) : Res :=
  let c := s.core
  match firstFault [arrayTaken s, c.recordFault b.rcd, b.rangeFault, c.weightFault o, c.blockLost b] with
  | some f => arrayTrap s f
  | none =>
    let rows := c.blockRows b (b.len / 256)
    startJob (touchBlock (readGranules s c.seat.cid (c.blockGranules b)) b) h o 16 ((hFmt h).width c.q) rows

/-- MMA from a tap window. -/
def mmaTap (s : State) (h : Hdr) (o : LArr) : Res :=
  let c := s.core
  let a := bits o.imm23.toNat 15 0
  let tap : Option SpFault := (c.tapCheck o.rcd.toNat 0 [] a (a + 15)).map fun code => (code, tapTval o.rcd.toNat (a + 15))
  match firstFault [arrayTaken s, tap, c.weightFault o] with
  | some f => arrayTrap s f
  | none => match c.sig o.rcd.toNat with
    | none => arrayTrap s (0x18, tapTval o.rcd.toNat (a + 15))
    | some g => startJob s h o 1 ((hFmt h).slotBits c.q) ((List.range 16).map fun i => g.rowString c.sys.now (a + i))

def execMma (h : Hdr) (o : LArr) (s : State) : Answer :=
  issued (.mma h o) s fun s => match s.core.blockOf (.mma h o) with
    | some b => mmaScratch s h o b
    | none => mmaTap s h o

def execMmac (h : Hdr) (o : LArr) (s : State) : Answer :=
  issued (.mmac h o) s fun s =>
    let c := s.core
    match firstFault [arrayTaken s, c.weightFault o] with
    | some f => arrayTrap s f
    | none => startJob s h o 16 ((hFmt h).width c.q) (c.tileRows h o (if (hFmt h).isMx then c.scaleRows o.sc.toNat (o.kst.toNat + 1) else []))

/-- The scoreboard of an LDW falls at the end of its occupancy: the manual gives it no landing cycle (R185, R286). DESIGN CHOICE (log 36). -/
def execLdw (h : Hdr) (o : LArr) (s : State) : Answer :=
  issued (.ldw h o) s fun s =>
    let c := s.core
    match c.blockOf (.ldw h o) with
    | none => .ok s (some 0)
    | some b => match firstFault [arrayTaken s, c.recordFault b.rcd, b.rangeFault, c.blockLost b] with
      | some f => arrayTrap s f
      | none =>
        let n := o.kst.toNat + 1
        let w : WBuf :=
          { fcode := some (fcodeOf h.fmt), kst := o.kst.toNat, fmtr := c.sys.fmtr, rows := c.blockRows b (b.len / (32 * n))
            scales := if (hFmt h).isMx then c.scaleRows o.sc.toNat n else [] }
        let s := touchBlock (readGranules s c.seat.cid (c.blockGranules b)) b
        let t := c.arrayTime (8 * n)
        .ok (s.onCore fun c => { c with wbuf := w, pipe := { c.pipe with arrayFree := c.pipe.cyc + t } }) (some t)

/-! ### Accumulator syllables (R291, R294) -/

/-- The key of the accumulator word that belongs to lane L of a half-row. -/
def StreamCore.halfRowKey (c : StreamCore) (o : LArr) (L : Nat) : Nat :=
  let q := ((signed64 (c.sreg o.o.toNat) + o.imm23.toNat) % 512).toNat
  accKey o.mt.toNat (q / 2) (128 * (q % 2) + L)

/-- The vector register an accumulator syllable names. -/
def accReg (o : LArr) : Nat := bits o.rcd.toNat 5 0

/-- DEDUCED (log 28). -/
def execAccrd (h : Hdr) (o : LArr) (s : State) : Answer :=
  issued (.accrd h o) s fun s => landV s (s.core.arrayTime 4) (accReg o) (hLanes h) fun L => s.core.tilesRead.get (s.core.halfRowKey o L)

def execAccwr (h : Hdr) (o : LArr) (s : State) : Answer :=
  issued (.accwr h o) s fun s =>
    let n := s.core.arrayTime 4
    .ok (s.fly n (.acc ((hLanes h).map fun L => (s.core.halfRowKey o L, s.core.vlane (accReg o) L)))) (some n)

def execAccclr (h : Hdr) (o : LArr) (s : State) : Answer :=
  issued (.accclr h o) s fun s =>
    let n := s.core.arrayTime 2
    .ok (s.fly n (.accClear o.mt.toNat)) (some n)

/-! ### MMODE (R295) -/

/-- Why an MMODE syllable is not applied: the partner holds exclusive mode, which only its holder gives back, or its own MMODE syllable was applied on this wall cycle. A core dispatched beside such a partner, with STATE 0b00, is barred like one with STATE 0b11. DESIGN CHOICE (log 34). -/
def arrayBarred (s : State) : Option SpFault := if partnerHolds s ∨ s.core.sys.amodeSet = some s.wall then some (0x24, 0) else none

/-- Set the array states of the core at turn and its partner, and this core's MMODE register when the syllable lands. DEDUCED (log 34). -/
def arrayModes (s : State) (own other : Nat) : Res :=
  let n := s.core.arrayTime 1
  match arrayBarred s with
  | some f => arrayTrap s f
  | none =>
    let s := match partnerOf s with
      | some p => if p.seat.live then onCore s p.seat.cid fun c => { c with sys := { c.sys with amode := other, mmode := other, amodeSet := some s.wall } } else s
      | none => s
    .ok ((s.onCore fun c => { c with sys := { c.sys with amode := own } }).fly n .mmode) (some n)

def execMmodeExcl (h : Hdr) (o : LArr) (s : State) : Answer := issued (.mmodeExcl h o) s fun s => arrayModes s 2 3
def execMmodeAlt (h : Hdr) (o : LArr) (s : State) : Answer := issued (.mmodeAlt h o) s fun s => arrayModes s 0 0

end Sys2Proof.Machine
end

