-- ==== Sys2Proof/Machine/Sha512.lean ====
section
/-! DEFINITION. SHA-512 (R418), as FIPS 180-4 defines it. PRESUMED (log 23). -/
namespace Sys2Proof.Machine

/-! ### The constants, from what they are defined to be -/

/-- The greatest r below 2^b more than `r` whose k-th power does not pass n, found bit by bit from the top. -/
def rootUpTo (k n : Nat) : Nat → Nat → Nat
  | 0, r => r
  | b + 1, r => rootUpTo k n b (if (r + 2 ^ b) ^ k ≤ n then r + 2 ^ b else r)

/-- The first 64 bits of the fractional part of the k-th root of n, n below 2^9. -/
def rootFraction (k n : Nat) : BitVec 64 := BitVec.ofNat 64 (rootUpTo k (n * 2 ^ (64 * k)) 69 0)

/-- The primes below 410: the first 80. -/
def shaPrimes : List Nat := ((List.range 410).drop 2).filter fun n => (List.range 21).all fun d => d < 2 || n % d != 0 || n == d

/-- The initial hash words: square roots of the first eight primes. PRESUMED (log 23). -/
def shaInit : List (BitVec 64) := (shaPrimes.take 8).map (rootFraction 2)

/-- The constants of the 80 rounds: cube roots of the first 80 primes. PRESUMED (log 23). -/
def shaK : List (BitVec 64) := shaPrimes.map (rootFraction 3)

/-! ### The compression of one block -/

/-- A word of a list of words, zero beyond its end. -/
def shaAt (l : List (BitVec 64)) (i : Nat) : BitVec 64 := (l[i]?).getD 0

/-- The exclusive or of some rotations of a word. -/
def turned (turns : List Nat) (x : BitVec 64) : BitVec 64 := turns.foldl (fun y n => y ^^^ x.rotateRight n) 0

/-- The words of the message schedule after the block's own: n more words on top, newest first. -/
def shaExtend : Nat → List (BitVec 64) → List (BitVec 64)
  | 0, w => w
  | n + 1, w =>
    let old := shaAt w 14
    let late := shaAt w 1
    shaExtend n ([shaAt w 15, turned [1, 8] old ^^^ old >>> 7, shaAt w 6, turned [19, 61] late ^^^ late >>> 6].sum :: w)

/-- The working variables are the last four values of two sequences, newest first: the upper (a, b, c, d) and the lower (e, f, g, h). A round adds a value to each. -/
def shaStep (v : List (BitVec 64) × List (BitVec 64)) (kw : BitVec 64) : List (BitVec 64) × List (BitVec 64) :=
  let up := shaAt v.1
  let low := shaAt v.2
  let choice := low 2 ^^^ (low 0 &&& (low 1 ^^^ low 2))
  let majority := (up 0 &&& (up 1 ||| up 2)) ||| (up 1 &&& up 2)
  let common := [kw, low 3, choice, turned [14, 18, 41] (low 0)].sum
  ((common + majority + turned [28, 34, 39] (up 0)) :: v.1.take 3, (up 3 + common) :: v.2.take 3)

/-- A big-endian 64-bit word. -/
def shaWord (bs : List Byte) : BitVec 64 := bs.foldl (fun w b => w <<< 8 ||| b.setWidth 64) 0

/-- The hash words after one block of 128 bytes. -/
def shaBlock (hs : List (BitVec 64)) (block : List Byte) : List (BitVec 64) :=
  let own := (List.range 16).map fun i => shaWord ((block.drop (8 * i)).take 8)
  let kws := List.zipWith (· + ·) shaK (shaExtend 64 own.reverse).reverse
  let v := kws.foldl shaStep (hs.take 4, hs.drop 4)
  List.zipWith (· + ·) hs (v.1 ++ v.2)

/-- The message with its padding: a one bit, zeros, and the length in bits as 128 bits, big-endian. -/
def shaPad (m : List Byte) : List Byte :=
  m ++ 0x80 :: List.replicate ((239 - m.length % 128) % 128) 0 ++ (List.range 16).map fun i => BitVec.ofNat 8 (8 * m.length / 256 ^ (15 - i))

/-- SHA-512 of a string of bytes; its first byte is the most significant of the digest. -/
def sha512 (m : List Byte) : BitVec 512 :=
  let p := shaPad m
  let hs := (List.range (p.length / 128)).foldl (fun hs i => shaBlock hs ((p.drop (128 * i)).take 128)) shaInit
  hs.foldl (fun d w => d <<< 64 ||| w.setWidth 512) 0

end Sys2Proof.Machine
end

