-- ==== Sys2Proof/Machine/Outside.lean ====
section
/-! DEFINITION. The fabric, start and reset, attestation and the clock (R129, R415 to R419). -/
namespace Sys2Proof.Machine

/-! ### Fabric requests (R415, R416) -/

/-- Rights a request needs, as R410 codes NEED. -/
def fabricNeed : FabricOp → Nat
  | .read => needRead
  | .write => needWrite
  | .atomic _ _ => needAtomic

/-- Is an export entry one of the peer's that covers the segment of a request's first byte? -/
def exportMatches (e device pa : Nat) : Bool :=
  let first := bits e 22 0
  let last := first + bits e 87 64
  bit e 127 && bits e 111 88 == 0 && bits e 63 23 == 0 && bits e 126 115 == device && decide (first ≤ pa / 2 ^ 29) && decide (pa / 2 ^ 29 ≤ last)

/-- RD, WR, AT; AT requires both others. -/
def exportGrants (e : Nat) : FabricOp → Bool
  | .read => bit e 114
  | .write => bit e 113
  | .atomic _ _ => bit e 112 && bit e 114 && bit e 113

/-- The entry that decides: the first of the table, as it is now or as the base dies cache it. -/
def exportEntry (s : State) (device pa : Nat) : Option Nat :=
  let img := if bit (freeNow s) 0 then s.dirCache else s.mem
  ((List.range (nth s.fabricRegs 3 0)).map fun i => peekLe img (nth s.fabricRegs 2 0 + 16 * i) 16).find? fun e => exportMatches e device pa

/-- Is a request served? -/
def fabricServed (s : State) (device : Nat) (op : FabricOp) (pa len : Nat) : Bool :=
  match exportEntry s device pa with
  | some e => exportGrants e op && isHbm pa && isHbm (pa + (len - 1)) && pa / 2 ^ 36 == (pa + (len - 1)) / 2 ^ 36
  | none => false

/-- Operands of a peer's atomic: the value, then the value compared. It acts on what the location holds at its home (R103, R115). -/
def fabricAtomic (s : State) (sub : Nat) (sg : Bool) (pa len : Nat) (data : List Byte) : State × Nat :=
  let old := leNat (peekBytes (homeImage s) pa len)
  let a := leNat (slice data 0 len)
  let b := leNat (slice data len len)
  match if sub = 8 then (if old = b then some a else none) else atomResult sub (8 * len) sg old a b with
  | some x => (writeSysAt s pa (leBytes len x), old)
  | none => (s, old)

/-- An atomic of a size and alignment that atomics have (R314). -/
def fabricAtomicOk (sub pa len : Nat) : Bool := pa % len == 0 && if sub = 8 then len == 16 else decide (sub < 8) && (len == 4 || len == 8)

/-- Serve a peer's request. -/
def serveFabric (s : State) (device : Nat) (op : FabricOp) (pa len : Nat) (data : List Byte) : State :=
  match op with
  | .read => sendOut s (.fabric device (some (readSys s pa len)))
  | .write => sendOut (writeSysAt s pa (slice data 0 len)) (.fabric device (some []))
  | .atomic sub sg =>
    let r := fabricAtomic s sub sg pa len data
    sendOut r.1 (.fabric device (some (leBytes len r.2)))

/-- Ports of the scale-up fabric (R1). -/
def fabricPorts : Nat := 64

/-- A request that is refused is completed with an error, with a record for the physical function. No request comes in by a port that there is not. -/
def execFabricRequest (peer : Peer) (req : FabricOp) (pa len : Nat) (data : List Byte) (s : State) : Answer :=
  if fabricPorts ≤ peer.port then .refused (.notEnabled "FABRIC_REQUEST")
  else
  let sized := match req with
    | .atomic sub _ => fabricAtomicOk sub pa len
    | .write => data.length == len
    | .read => true
  if fabricServed s peer.device req pa len && sized && len != 0 then .next (serveFabric s peer.device req pa len data)
  else .next (sendOut (emitFabricRefused s peer.port peer.device (fabricNeed req) pa) (.fabric peer.device none))

/-! ### Measurement and start (R417, R418) -/

/-- The 64 bytes of a digest or of a measurement register, the first one most significant. DEDUCED (log 23). -/
def digestBytes (d : BitVec 512) : List Byte := (leBytes 64 d.toNat).reverse

/-- A measurement register extended by a stage's digest. DEDUCED (log 23). -/
def extendMeas (m d : BitVec 512) : BitVec 512 := sha512 (digestBytes m ++ digestBytes d)

/-- Load the firmware stages in order: an accepted one replaces its predecessor and extends its register, a refused one leaves the stage as it runs. DEDUCED (log 23). -/
def loadFirmware (firmware : List (Option (BitVec 512))) (meas : List (BitVec 512)) (images : List FirmwareImage) : List (Option (BitVec 512)) × List (BitVec 512) :=
  let good := fun (i : Nat) => (images[i]?).bind fun x => let d := sha512 x.image; if Config.rsaVerifies d x.signature then some d else none
  let n := max firmware.length images.length
  ((List.range n).map fun i => good i <|> (firmware[i]?).join,
   meas.mapIdx fun i m => match good i with
      | some d => extendMeas m d
      | none => m)

/-- SRAM, scheduler tables and functions after a reset; memory and what link training fixed are as given. DESIGN CHOICE (log 8). -/
def restarted (s : State) (mem : List Host.Cell) (fw : List (Option (BitVec 512)) × List (BitVec 512)) : State :=
  { State.reset with
    mem := mem, hostAtomics := s.hostAtomics, poolAtomics := s.poolAtomics, firmware := fw.1, meas := fw.2, clockStep := s.clockStep, wall := s.wall
    scrubNext := s.wall + 2 ^ 28, stamp := s.stamp, uid := s.uid, inputs := s.inputs, outbox := s.outbox, draws := s.draws }

/-- Cold start: HBM is zeroed, the measurement registers start from zero. -/
def execColdStart (images : List FirmwareImage) (s : State) : Answer :=
  .next (restarted s (Store.keep (w := 8) s.mem fun a => !isHbm a) (loadFirmware s.firmware (List.replicate 8 0) images))

/-- Warm start: HBM is kept. -/
def execWarmStart (images : List FirmwareImage) (s : State) : Answer := .next (restarted s s.mem (loadFirmware s.firmware s.meas images))

/-! ### Attestation and clock (R418, R419) -/

/-- Bytes of a nonce in a report. DEDUCED (log 23). -/
def nonceBytes : Nat := 64

/-- The report: the nonce, the eight registers, the certificate chain; and its signature. DEDUCED (log 23). -/
def execAttestationReport (nonce : Nat) (s : State) : Answer :=
  let report := leBytes nonceBytes nonce ++ (s.meas.flatMap digestBytes) ++ Config.certificateChain
  .next (sendOut s (.attestation report (Config.rsaSign report)))

/-- The clock goes down a step near the package's limit, and up again; only wall time stretches. DESIGN CHOICE (log 50). -/
def execClockThrottle (lower : Bool) (s : State) : Answer := .next { s with clockStep := if lower then s.clockStep + 1 else s.clockStep - 1 }

end Sys2Proof.Machine
end

