-- ==== Sys2Proof/Machine/Reduce.lean ====
section
/-! DEFINITION. Class D: reductions into the latches, the scale bypass, PART (R275 to R281). -/
namespace Sys2Proof.Machine

/-- Elements of the active lanes that feed latch lane j, widened, with their core-wide element numbers (R276, R258). -/
def latchInputs (s : State) (h : Hdr) (o : LReg) (j : Nat) : List (Lane × Nat) :=
  ((s.core.active h o.km).filter fun L => L % 16 == j).flatMap fun L =>
    let cs := codesOf s h (s.core.vlane o.a.toNat L)
    cs.mapIdx fun e c => (widenElem (hFmt h) c, cs.length * L + e)

/-- An update of a latch in flight: +7. -/
def latchUpdate (i : Instr) (h : Hdr) (o : LReg) (op : LatchOp) (base : State → Nat) (s : State) : Answer :=
  issued i s fun s =>
    .ok (s.fly 7 (.latch o.d.toNat op ((List.range 16).map fun j => (latchInputs s h o j).map fun x => (x.1, BitVec.ofNat 32 (base s + x.2))))) (some 7)

def execRsum (h : Hdr) (o : LReg) (s : State) : Answer := latchUpdate (.rsum h o) h o (.sum (latchKind (hFmt h)) (hMode h == 1)) (fun _ => 0) s
def execRmax (h : Hdr) (o : LReg) (s : State) : Answer := latchUpdate (.rmax h o) h o (.max (latchKind (hFmt h))) (fun _ => 0) s
def execRmin (h : Hdr) (o : LReg) (s : State) : Answer := latchUpdate (.rmin h o) h o (.min (latchKind (hFmt h))) (fun _ => 0) s
def execRminidx (h : Hdr) (o : LReg) (s : State) : Answer :=
  latchUpdate (.rminidx h o) h o (.minIdx (latchKind (hFmt h))) (fun s => (s.core.bcommon o).toNat) s

/-- The greatest magnitude of a list of values as an f32 word (R280). -/
def blockMax (vs : List Val) : Lane :=
  if vs.any Val.isNan then BitVec.ofNat 32 nan32
  else BitVec.ofNat 32 (f32Of false (vs.foldl (fun m v => if m.ltb v.abs then v.abs else m) Val.zero))

def execRabsmax (h : Hdr) (o : LReg) (s : State) : Answer :=
  issued (.rabsmax h o) s fun s =>
    -- lanes of a block of 32 elements
    let n := 32 / (hFmt h).perLane s.core.q
    let act := s.core.active h o.km
    .ok (s.fly 4 (.bypass ((List.range 8).map fun k => blockMax ((act.filter fun L => L / n == k).flatMap fun L => valsOf s h (s.core.vlane o.a.toNat L))))) (some 4)

/-- The word kind a drain names. -/
def drainKind (h : Hdr) : WordKind := latchKind (hFmt h)

/-- The 16 pairs of a latch pair. -/
def latchPairs (c : StreamCore) (l : Nat) : List (Lane × Lane) := (c.latchWords l).zip (c.latchWords (l + 1))

/-- Lane j of what RDRAIN delivers (R279). -/
def drainWord (c : StreamCore) (h : Hdr) (o : LReg) (j : Nat) : Lane :=
  let ws := c.latchWords o.a.toNat
  let k := drainKind h
  let pair := match latchPairs c o.a.toNat with
    | p :: ps => k.pickCand p ps
    | [] => (0, 0)
  match o.sub.toNat with
  | 0 => nth ws j 0
  | 1 => k.fit (hMode h == 1) (Val.sum (ws.map k.val))
  | 2 => k.fold true (nth ws 0 0) (ws.drop 1)
  | 3 => k.fold false (nth ws 0 0) (ws.drop 1)
  | 4 => pair.1
  | _ => pair.2

def execRdrain (h : Hdr) (o : LReg) (s : State) : Answer :=
  issued (.rdrain h o) s fun s => landV s 2 o.d.toNat (s.core.active h o.km) fun L => drainWord s.core h o (L % 16)

/-- The identity of a named reduction (R278). -/
def latchIdentity (sub : Nat) (k : WordKind) : Lane :=
  match sub, k with
  | 0, _ => 0
  | 1, .f32 => 0xFF800000
  | 1, .s32 => 0x80000000
  | 1, .n32 => 0
  | _, .f32 => 0x7F800000
  | _, .s32 => 0x7FFFFFFF
  | _, .n32 => 0xFFFFFFFF

def execRclr (h : Hdr) (o : LReg) (s : State) : Answer :=
  issued (.rclr h o) s fun s =>
    let s := s.fly 1 (.latchSet o.d.toNat (latchIdentity o.sub.toNat (drainKind h)))
    .ok (if o.sub.toNat = 3 then s.fly 1 (.latchSet (o.d.toNat + 1) 0xFFFFFFFF) else s) (some 1)

/-- The list of an outcome: base + L of the active lanes whose code is o, in lane order (R281). -/
def partList (s : State) (h : Hdr) (o : LReg) (out : Nat) : List Lane :=
  ((s.core.active h o.km).filter fun L => (s.core.vlane o.a.toNat L).toNat % 8 == out).map fun L => BitVec.ofNat 32 ((s.core.bcommon o).toNat + L)

def execPart (h : Hdr) (o : LReg) (s : State) : Answer :=
  issued (.part h o) s fun s =>
    let lists := (List.range (o.sub.toNat + 1)).map fun out => partList s h o out
    let ws := (lists.mapIdx fun out l => (hLanes h).mapIdx fun p L =>
      (vkey (L / 16) (physV s.core.sys.rotw (o.d.toNat + out)) (L % 16), nth l p 0xFFFFFFFF)).flatten
    let count := (lists.mapIdx fun out l => l.length * 2 ^ (8 * out)).foldl (· + ·) 0
    .ok ((s.fly 6 (.vecs ws)).fly 6 (.sreg o.c.toNat (BitVec.ofNat 64 count))) (some 6)

end Sys2Proof.Machine
end

