-- ==== Sys2Proof/Machine/ScaleTransform.lean ====
section
/-! DEFINITION. Scale registers, conversions and lane rearrangement of classes C and T (R296 to R305). -/
namespace Sys2Proof.Machine

/-! ### Scale registers (R296, R297) -/

/-- A scale-register write that lands n cycles after issue. -/
def landSc (s : State) (n r : Nat) (first : Nat) (bs : List Byte) : Res := .ok (s.fly n (.scale (withKeys (256 * r + first) bs))) (some n)

def execScld (h : Hdr) (o : LScl) (s : State) : Answer :=
  issued (.scld h o) s fun s =>
    let c := s.core
    match c.blockOf (.scld h o) with
    | none => .ok s (some 6)
    | some b => match firstFault [if recAccess (c.entry b.rcd) then none else some (0x20, BitVec.ofNat 64 b.rcd), imageRange b, c.blockLost b] with
      | some f => .trap (s.trapHere 7 f.1 0 f.2)
      | none =>
        let bs := c.blockBytes b
        landSc (touchBlock (readGranules s c.seat.cid (c.blockGranules b)) b) 6 o.sc.toNat 0 bs

def execScset (h : Hdr) (o : LScl) (s : State) : Answer :=
  issued (.scset h o) s fun s =>
    let j := ((signed64 (s.core.sreg o.o.toNat) + o.imm23.toNat) % 32).toNat
    landSc s 2 o.sc.toNat (8 * j) (leBytes 8 (s.core.sreg o.a.toNat).toNat)

/-- The 256 entries of scale register r. -/
def StreamCore.scaleReg (c : StreamCore) (r : Nat) : List Byte := (List.range 256).map fun i => c.regs.sc.get (256 * r + i)

def execScmov (h : Hdr) (o : LScl) (s : State) : Answer :=
  issued (.scmov h o) s fun s => landSc s 2 o.sc.toNat 0 (s.core.scaleReg (bits o.imm23.toNat 3 0))

/-! ### Conversion (R299, R300) -/

/-- A conversion: source and destination format, elements per lane word of each, and the part. -/
structure Conv where
  src : Fmt
  dst : Fmt
  ns : Nat
  nd : Nat
  part : Nat

/-- DEDUCED (log 42). -/
def convOf (c : StreamCore) (h : Hdr) (o : LReg) : Conv :=
  let src := (fmtOf o.b).getD .f32
  let dst := hFmt h
  let ns := src.perLane c.q
  let nd := dst.perLane c.q
  { src := src, dst := dst, ns := ns, nd := nd, part := o.sub.toNat % (max ns nd / min ns nd) }

/-- The source element, counted within the cluster, that destination element x receives; none if x keeps its value. DEDUCED (log 42). -/
def Conv.source (k : Conv) (x : Nat) : Option Nat :=
  if k.ns < k.nd then
    let lo := k.part * 16 * k.ns
    if lo ≤ x && x < lo + 16 * k.ns then some (x - lo) else none
  else if k.nd < k.ns then some (k.part * 16 * k.nd + x)
  else some x

/-- Convert the elements of the active lanes of a register under a block scaling; lanes that receive no element keep their values. -/
def convLanes (c : StreamCore) (k : Conv) (mode a : Nat) (block : Nat → Option Int) : List Nat → Store 32 → List (Nat × Lane) × Store 32
  | [], gen => ([], gen)
  | L :: ls, gen =>
    let cl := L / 16
    let xs := (List.range k.nd).filterMap fun e => k.source (k.nd * (L % 16) + e)
    if xs.isEmpty then convLanes c k mode a block ls gen
    else
      let vals := xs.map fun i => (block ((cl * 16 * k.ns + i) / 32)).map fun p =>
        (decodeElem k.src c.q (c.elem a cl (k.src.slotBits c.q) i)).scale (-p)
      let r := roundList k.dst c.q mode k.src.isIntLike L (vals.map fun v => v.getD Val.zero) gen
      let codes := (r.1.zip vals).map fun y => if y.2.isNone then 0 else y.1
      let t := convLanes c k mode a block ls r.2
      ((L, packElems (k.dst.slotBits c.q) codes) :: t.1, t.2)

/-- Land a conversion at +3 and keep the generators' new states. -/
def landConv (s : State) (h : Hdr) (o : LReg) (block : Nat → Option Int) : State :=
  let k := convOf s.core h o
  let r := convLanes s.core k (hMode h) o.a.toNat block (s.core.active h o.km) s.core.regs.gen
  let s := s.onCore fun c => { c with regs := { c.regs with gen := r.2 } }
  s.fly 3 (.vecs (r.1.map fun x => (vkey (x.1 / 16) (physV s.core.sys.rotw o.d.toNat) (x.1 % 16), x.2)))

def execCvt (h : Hdr) (o : LReg) (s : State) : Answer :=
  issued (.cvt h o) s fun s => .ok (landConv s h o fun _ => some 0) (some 3)

/-- EMAX of an MX destination. -/
def emaxOf : Fmt → Int
  | .mx .e4m3 => 8
  | .mx .e5m2 => 15
  | .mx .e3m2 => 4
  | .mx .e2m3 => 2
  | .mx .e2m1 => 2
  | _ => 0

/-- The E8M0 code of a bypass entry (R300). -/
def scaleCode (f : Fmt) (m : Lane) : Byte :=
  match f32Val m.toNat with
  | .num _ n d e => if n = 0 then 0x7F else BitVec.ofInt 8 (clampInt (ilog2 n d + e - emaxOf f + 127) 0 254)
  | _ => 0xFF

def execCvtq (h : Hdr) (o : LReg) (s : State) : Answer :=
  issued (.cvtq h o) s fun s =>
    let codes := (List.range 8).map fun k => scaleCode (hFmt h) (s.core.regs.byp.get k)
    let s' := landConv s h o fun b => scaleExp (nth codes b 0x7F)
    .ok (s'.fly 3 (.sreg o.c.toNat (BitVec.ofNat 64 (leNat codes)))) (some 3)

/-! ### Rearranging lanes (R301 to R305) -/

/-- The word of register vD + i, lane L, of a transposed block (R301). -/
def transWord (c : StreamCore) (w a i L : Nat) : Lane :=
  let perReg := if w = 8 then 4 else 2
  let lanes := 16 / perReg
  let n := 32 / w
  let j := L % 16
  let r := perReg * i + j / lanes
  packElems w ((List.range n).map fun e =>
    let col := n * (j % lanes) + e
    nth (elemsOf w (c.vlane (a + col / perReg) (16 * (L / 16) + lanes * (col % perReg) + r / n))) (r % n) 0)

def execTrans (h : Hdr) (o : LReg) (s : State) : Answer :=
  issued (.trans h o) s fun s =>
    let w := (hFmt h).slotBits s.core.q
    .ok (s.fly 6 (.vecs ((List.range (transRegs h)).flatMap fun i =>
      s.core.laneWrites (o.d.toNat + i) (s.core.active h o.km) fun L => transWord s.core w o.a.toNat i L))) (some 6)

/-- The source cluster of an XCL (R302). -/
def xclSource (c : StreamCore) (o : LReg) (cl : Nat) : Nat :=
  match o.sub.toNat with
  | 0 => (cl + (c.bcommon o).toNat) % 8
  | 1 => cl ^^^ ((c.bcommon o).toNat % 8)
  | _ => bits (c.sreg o.b.toNat).toNat (3 * cl + 2) (3 * cl)

def execXcl (h : Hdr) (o : LReg) (s : State) : Answer :=
  issued (.xcl h o) s fun s => landV s 8 o.d.toNat (s.core.active h o.km) fun L =>
    let src := xclSource s.core o (L / 16)
    if bit h.cmask.toNat src then s.core.vlane o.a.toNat (16 * src + L % 16) else 0

/-- Element e of destination lane L of a REGROUP (R304). -/
def regroupElem (c : StreamCore) (o : LReg) (w L e : Nat) : Nat :=
  let C := 2 ^ (o.sub.toNat / 4)
  let src : Int := (L % 16 : Nat) + (e / C : Nat) - (bits o.imm.toNat 3 0 : Nat)
  let at_ := fun (x : Int) => nth (elemsOf w (c.vlane o.a.toNat (16 * (L / 16) + x.toNat))) (e % C) 0
  if 0 ≤ src && src ≤ 15 then at_ src
  else match o.sub.toNat % 4 with
    | 0 => 0
    | 1 => (c.sreg o.b.toNat).toNat % 2 ^ w
    | 2 => at_ (if src < 0 then -src else 30 - src)
    | _ => at_ (if src < 0 then 0 else 15)

def execRegroup (h : Hdr) (o : LReg) (s : State) : Answer :=
  issued (.regroup h o) s fun s =>
    let w := (hFmt h).slotBits s.core.q
    landV s 6 o.d.toNat (s.core.active h o.km) fun L => packElems w ((List.range (32 / w)).map fun e => regroupElem s.core o w L e)

/-- The bit string of the 16 lane words of a cluster. -/
def clusterBits (c : StreamCore) (r cl : Nat) : Nat := packNat 32 ((List.range 16).map fun j => (c.vlane r (16 * cl + j)).toNat)

def execPack (h : Hdr) (o : LReg) (s : State) : Answer :=
  issued (.pack h o) s fun s => landV s 3 o.d.toNat (s.core.active h o.km) fun L =>
    let x := clusterBits s.core o.a.toNat (L / 16)
    let y := packNat 6 ((List.range 64).map fun i => bits x (8 * i + 5) (8 * i))
    BitVec.ofNat 32 (bits y (32 * (L % 16) + 31) (32 * (L % 16)))

def execUnpack (h : Hdr) (o : LReg) (s : State) : Answer :=
  issued (.unpack h o) s fun s => landV s 3 o.d.toNat (s.core.active h o.km) fun L =>
    let x := clusterBits s.core o.a.toNat (L / 16)
    packElems 8 ((List.range 4).map fun e => bits x (6 * (4 * (L % 16) + e) + 5) (6 * (4 * (L % 16) + e)))

def execXbcast (h : Hdr) (o : LReg) (s : State) : Answer :=
  issued (.xbcast h o) s fun s => landV s 8 o.d.toNat (s.core.active h o.km) fun L =>
    if L % 16 < 8 then packElems 8 ((List.range 4).map fun e => (s.core.regs.sc.get (256 * o.a.toNat + 32 * (L / 16) + 4 * (L % 16) + e)).toNat) else 0

end Sys2Proof.Machine
end

