-- ==== Sys2Proof/Machine/Dispatch.lean ====
section
/-! DEFINITION. One arm per constructor of `Instr`: its meaning. -/
namespace Sys2Proof.Machine

def exec (i : Instr) (s : State) : Host.Outcome State Fault Refusal :=
  match i with
  | .sAdd h o => Sys2Proof.Machine.execSAdd h o s
  | .sSub h o => Sys2Proof.Machine.execSSub h o s
  | .sMul h o => Sys2Proof.Machine.execSMul h o s
  | .sMulh h o => Sys2Proof.Machine.execSMulh h o s
  | .sDiv h o => Sys2Proof.Machine.execSDiv h o s
  | .sRem h o => Sys2Proof.Machine.execSRem h o s
  | .sMin h o => Sys2Proof.Machine.execSMin h o s
  | .sMax h o => Sys2Proof.Machine.execSMax h o s
  | .sAnd h o => Sys2Proof.Machine.execSAnd h o s
  | .sOr h o => Sys2Proof.Machine.execSOr h o s
  | .sXor h o => Sys2Proof.Machine.execSXor h o s
  | .sAndn h o => Sys2Proof.Machine.execSAndn h o s
  | .sShl h o => Sys2Proof.Machine.execSShl h o s
  | .sShr h o => Sys2Proof.Machine.execSShr h o s
  | .sSra h o => Sys2Proof.Machine.execSSra h o s
  | .sRot h o => Sys2Proof.Machine.execSRot h o s
  | .sClz h o => Sys2Proof.Machine.execSClz h o s
  | .sPopc h o => Sys2Proof.Machine.execSPopc h o s
  | .sCmp h o => Sys2Proof.Machine.execSCmp h o s
  | .sSel h o => Sys2Proof.Machine.execSSel h o s
  | .bfx h o => Sys2Proof.Machine.execBfx h o s
  | .bfi h o => Sys2Proof.Machine.execBfi h o s
  | .liw h o => Sys2Proof.Machine.execLiw h o s
  | .mfsr h o => Sys2Proof.Machine.execMfsr h o s
  | .mtsr h o => Sys2Proof.Machine.execMtsr h o s
  | .mtq h o => Sys2Proof.Machine.execMtq h o s
  | .mtqNull h o => Sys2Proof.Machine.execMtqNull h o s
  | .mfq h o => Sys2Proof.Machine.execMfq h o s
  | .mfqNull h o => Sys2Proof.Machine.execMfqNull h o s
  | .nop h o => Sys2Proof.Machine.execNop h o s
  | .br h o => Sys2Proof.Machine.execBr h o s
  | .brc h o => Sys2Proof.Machine.execBrc h o s
  | .call h o => Sys2Proof.Machine.execCall h o s
  | .ret h o => Sys2Proof.Machine.execRet h o s
  | .loop h o => Sys2Proof.Machine.execLoop h o s
  | .waitany h o => Sys2Proof.Machine.execWaitany h o s
  | .waitall h o => Sys2Proof.Machine.execWaitall h o s
  | .ffr h o => Sys2Proof.Machine.execFfr h o s
  | .tick h o => Sys2Proof.Machine.execTick h o s
  | .phase h o => Sys2Proof.Machine.execPhase h o s
  | .next h o => Sys2Proof.Machine.execNext h o s
  | .grow h o => Sys2Proof.Machine.execGrow h o s
  | .exit h o => Sys2Proof.Machine.execExit h o s
  | .trap h o => Sys2Proof.Machine.execTrap h o s
  | .rte h o => Sys2Proof.Machine.execRte h o s
  | .iflush h o => Sys2Proof.Machine.execIflush h o s
  | .setfmt h o => Sys2Proof.Machine.execSetfmt h o s
  | .trd h o => Sys2Proof.Machine.execTrd h o s
  | .trdw h o => Sys2Proof.Machine.execTrdw h o s
  | .twr h o => Sys2Proof.Machine.execTwr h o s
  | .twra h o => Sys2Proof.Machine.execTwra h o s
  | .thist h o => Sys2Proof.Machine.execThist h o s
  | .tsig h o => Sys2Proof.Machine.execTsig h o s
  | .ld h o => Sys2Proof.Machine.execLd h o s
  | .st h o => Sys2Proof.Machine.execSt h o s
  | .lds h o => Sys2Proof.Machine.execLds h o s
  | .sts h o => Sys2Proof.Machine.execSts h o s
  | .ldg h o => Sys2Proof.Machine.execLdg h o s
  | .stg h o => Sys2Proof.Machine.execStg h o s
  | .ldb h o => Sys2Proof.Machine.execLdb h o s
  | .vAdd h o => Sys2Proof.Machine.execVAdd h o s
  | .vSub h o => Sys2Proof.Machine.execVSub h o s
  | .vMul h o => Sys2Proof.Machine.execVMul h o s
  | .vMulh h o => Sys2Proof.Machine.execVMulh h o s
  | .fma h o => Sys2Proof.Machine.execFma h o s
  | .fms h o => Sys2Proof.Machine.execFms h o s
  | .vMin h o => Sys2Proof.Machine.execVMin h o s
  | .vMax h o => Sys2Proof.Machine.execVMax h o s
  | .abs h o => Sys2Proof.Machine.execAbs h o s
  | .neg h o => Sys2Proof.Machine.execNeg h o s
  | .absd h o => Sys2Proof.Machine.execAbsd h o s
  | .vAnd h o => Sys2Proof.Machine.execVAnd h o s
  | .vOr h o => Sys2Proof.Machine.execVOr h o s
  | .vXor h o => Sys2Proof.Machine.execVXor h o s
  | .vAndn h o => Sys2Proof.Machine.execVAndn h o s
  | .vShl h o => Sys2Proof.Machine.execVShl h o s
  | .vShr h o => Sys2Proof.Machine.execVShr h o s
  | .vSra h o => Sys2Proof.Machine.execVSra h o s
  | .vClz h o => Sys2Proof.Machine.execVClz h o s
  | .vPopc h o => Sys2Proof.Machine.execVPopc h o s
  | .vCmp h o => Sys2Proof.Machine.execVCmp h o s
  | .vSel h o => Sys2Proof.Machine.execVSel h o s
  | .mov h o => Sys2Proof.Machine.execMov h o s
  | .bcast h o => Sys2Proof.Machine.execBcast h o s
  | .extr h o => Sys2Proof.Machine.execExtr h o s
  | .ins h o => Sys2Proof.Machine.execIns h o s
  | .perm h o => Sys2Proof.Machine.execPerm h o s
  | .iota h o => Sys2Proof.Machine.execIota h o s
  | .kand h o => Sys2Proof.Machine.execKand h o s
  | .kor h o => Sys2Proof.Machine.execKor h o s
  | .kxor h o => Sys2Proof.Machine.execKxor h o s
  | .knot h o => Sys2Proof.Machine.execKnot h o s
  | .kpopc h o => Sys2Proof.Machine.execKpopc h o s
  | .ktail h o => Sys2Proof.Machine.execKtail h o s
  | .exp2 h o => Sys2Proof.Machine.execExp2 h o s
  | .log2 h o => Sys2Proof.Machine.execLog2 h o s
  | .rcp h o => Sys2Proof.Machine.execRcp h o s
  | .rsqrt h o => Sys2Proof.Machine.execRsqrt h o s
  | .sqrt h o => Sys2Proof.Machine.execSqrt h o s
  | .tanh h o => Sys2Proof.Machine.execTanh h o s
  | .sigm h o => Sys2Proof.Machine.execSigm h o s
  | .erf h o => Sys2Proof.Machine.execErf h o s
  | .sin h o => Sys2Proof.Machine.execSin h o s
  | .cos h o => Sys2Proof.Machine.execCos h o s
  | .rsum h o => Sys2Proof.Machine.execRsum h o s
  | .rmax h o => Sys2Proof.Machine.execRmax h o s
  | .rmin h o => Sys2Proof.Machine.execRmin h o s
  | .rminidx h o => Sys2Proof.Machine.execRminidx h o s
  | .rabsmax h o => Sys2Proof.Machine.execRabsmax h o s
  | .rdrain h o => Sys2Proof.Machine.execRdrain h o s
  | .rclr h o => Sys2Proof.Machine.execRclr h o s
  | .part h o => Sys2Proof.Machine.execPart h o s
  | .fcfg h o => Sys2Proof.Machine.execFcfg h o s
  | .fins h o => Sys2Proof.Machine.execFins h o s
  | .fmerge h o => Sys2Proof.Machine.execFmerge h o s
  | .fpeel h o => Sys2Proof.Machine.execFpeel h o s
  | .fcnt h o => Sys2Proof.Machine.execFcnt h o s
  | .fclr h o => Sys2Proof.Machine.execFclr h o s
  | .fclrAll h o => Sys2Proof.Machine.execFclrAll h o s
  | .fsave h o => Sys2Proof.Machine.execFsave h o s
  | .fload h o => Sys2Proof.Machine.execFload h o s
  | .mma h o => Sys2Proof.Machine.execMma h o s
  | .mmac h o => Sys2Proof.Machine.execMmac h o s
  | .ldw h o => Sys2Proof.Machine.execLdw h o s
  | .accrd h o => Sys2Proof.Machine.execAccrd h o s
  | .accwr h o => Sys2Proof.Machine.execAccwr h o s
  | .accclr h o => Sys2Proof.Machine.execAccclr h o s
  | .mmodeExcl h o => Sys2Proof.Machine.execMmodeExcl h o s
  | .mmodeAlt h o => Sys2Proof.Machine.execMmodeAlt h o s
  | .scld h o => Sys2Proof.Machine.execScld h o s
  | .scset h o => Sys2Proof.Machine.execScset h o s
  | .scmov h o => Sys2Proof.Machine.execScmov h o s
  | .cvt h o => Sys2Proof.Machine.execCvt h o s
  | .cvtq h o => Sys2Proof.Machine.execCvtq h o s
  | .trans h o => Sys2Proof.Machine.execTrans h o s
  | .xcl h o => Sys2Proof.Machine.execXcl h o s
  | .regroup h o => Sys2Proof.Machine.execRegroup h o s
  | .pack h o => Sys2Proof.Machine.execPack h o s
  | .unpack h o => Sys2Proof.Machine.execUnpack h o s
  | .xbcast h o => Sys2Proof.Machine.execXbcast h o s
  | .ldd h o => Sys2Proof.Machine.execLdd h o s
  | .lddP h o => Sys2Proof.Machine.execLddP h o s
  | .lddAcq h o => Sys2Proof.Machine.execLddAcq h o s
  | .std h o => Sys2Proof.Machine.execStd h o s
  | .stdRel h o => Sys2Proof.Machine.execStdRel h o s
  | .atomAdd h o => Sys2Proof.Machine.execAtomAdd h o s
  | .atomAnd h o => Sys2Proof.Machine.execAtomAnd h o s
  | .atomOr h o => Sys2Proof.Machine.execAtomOr h o s
  | .atomXor h o => Sys2Proof.Machine.execAtomXor h o s
  | .atomMin h o => Sys2Proof.Machine.execAtomMin h o s
  | .atomMax h o => Sys2Proof.Machine.execAtomMax h o s
  | .atomSwp h o => Sys2Proof.Machine.execAtomSwp h o s
  | .atomCas h o => Sys2Proof.Machine.execAtomCas h o s
  | .cas128 h o => Sys2Proof.Machine.execCas128 h o s
  | .cpyD2s h o => Sys2Proof.Machine.execCpyD2s h o s
  | .cpyS2d h o => Sys2Proof.Machine.execCpyS2d h o s
  | .cpyD2d h o => Sys2Proof.Machine.execCpyD2d h o s
  | .cpyS2s h o => Sys2Proof.Machine.execCpyS2s h o s
  | .cpyD2t h o => Sys2Proof.Machine.execCpyD2t h o s
  | .cpyD2sz h o => Sys2Proof.Machine.execCpyD2sz h o s
  | .cpyS2sz h o => Sys2Proof.Machine.execCpyS2sz h o s
  | .cpym h o => Sys2Proof.Machine.execCpym h o s
  | .adec h o => Sys2Proof.Machine.execAdec h o s
  | .plDec h o => Sys2Proof.Machine.execPlDec h o s
  | .plAnd h o => Sys2Proof.Machine.execPlAnd h o s
  | .plAndDocs h o => Sys2Proof.Machine.execPlAndDocs h o s
  | .plOr h o => Sys2Proof.Machine.execPlOr h o s
  | .plOrDocs h o => Sys2Proof.Machine.execPlOrDocs h o s
  | .plFuse h o => Sys2Proof.Machine.execPlFuse h o s
  | .launchAcc h o => Sys2Proof.Machine.execLaunchAcc h o s
  | .launchDone h o => Sys2Proof.Machine.execLaunchDone h o s
  | .tagclr h o => Sys2Proof.Machine.execTagclr h o s
  | .fixedResultLanding => Sys2Proof.Machine.execFixedResultLanding s
  | .variableResultLanding n => Sys2Proof.Machine.execVariableResultLanding n s
  | .promisedLoadArrival => Sys2Proof.Machine.execPromisedLoadArrival s
  | .memoryTimeout => Sys2Proof.Machine.execMemoryTimeout s
  | .windowLanding n => Sys2Proof.Machine.execWindowLanding n s
  | .exportLanding n => Sys2Proof.Machine.execExportLanding n s
  | .engineCommandCompletion uid => Sys2Proof.Machine.execEngineCommandCompletion uid s
  | .budgetStop => Sys2Proof.Machine.execBudgetStop s
  | .tickCompletion => Sys2Proof.Machine.execTickCompletion s
  | .phaseCompletion => Sys2Proof.Machine.execPhaseCompletion s
  | .preemptSave => Sys2Proof.Machine.execPreemptSave s
  | .restore fn => Sys2Proof.Machine.execRestore fn s
  | .dispatch fn => Sys2Proof.Machine.execDispatch fn s
  | .taskCompletion fn task => Sys2Proof.Machine.execTaskCompletion fn task s
  | .runRewalk page => Sys2Proof.Machine.execRunRewalk page s
  | .hardwareResolver fn => Sys2Proof.Machine.execHardwareResolver fn s
  | .scrub page => Sys2Proof.Machine.execScrub page s
  | .scrubberPass => Sys2Proof.Machine.execScrubberPass s
  | .decision fn => Sys2Proof.Machine.execDecision fn s
  | .decisionOverrun fn => Sys2Proof.Machine.execDecisionOverrun fn s
  | .timer fn => Sys2Proof.Machine.execTimer fn s
  | .tchMov d bi b => Sys2Proof.Machine.execTchMov d bi b s
  | .tchAdd d a bi b => Sys2Proof.Machine.execTchAdd d a bi b s
  | .tchSub d a bi b => Sys2Proof.Machine.execTchSub d a bi b s
  | .tchAnd d a bi b => Sys2Proof.Machine.execTchAnd d a bi b s
  | .tchOr d a bi b => Sys2Proof.Machine.execTchOr d a bi b s
  | .tchXor d a bi b => Sys2Proof.Machine.execTchXor d a bi b s
  | .tchShl d a bi b => Sys2Proof.Machine.execTchShl d a bi b s
  | .tchShr d a bi b => Sys2Proof.Machine.execTchShr d a bi b s
  | .tchMin d a bi b => Sys2Proof.Machine.execTchMin d a bi b s
  | .tchMax d a bi b => Sys2Proof.Machine.execTchMax d a bi b s
  | .tchMul d a bi b => Sys2Proof.Machine.execTchMul d a bi b s
  | .tchLui d imm => Sys2Proof.Machine.execTchLui d imm s
  | .tchCeq d a bi b => Sys2Proof.Machine.execTchCeq d a bi b s
  | .tchClt d a bi b => Sys2Proof.Machine.execTchClt d a bi b s
  | .tchClts d a bi b => Sys2Proof.Machine.execTchClts d a bi b s
  | .tchBz a off => Sys2Proof.Machine.execTchBz a off s
  | .tchBnz a off => Sys2Proof.Machine.execTchBnz a off s
  | .tchJmp off => Sys2Proof.Machine.execTchJmp off s
  | .tchLoopn d len n => Sys2Proof.Machine.execTchLoopn d len n s
  | .tchQrd d a field => Sys2Proof.Machine.execTchQrd d a field s
  | .tchCrd d a field => Sys2Proof.Machine.execTchCrd d a field s
  | .tchErd d field => Sys2Proof.Machine.execTchErd d field s
  | .tchPrd d field => Sys2Proof.Machine.execTchPrd d field s
  | .tchFreeb d a => Sys2Proof.Machine.execTchFreeb d a s
  | .tchBind a b => Sys2Proof.Machine.execTchBind a b s
  | .tchPreempt a => Sys2Proof.Machine.execTchPreempt a s
  | .tchKill a => Sys2Proof.Machine.execTchKill a s
  | .tchRefill a bi b => Sys2Proof.Machine.execTchRefill a bi b s
  | .tchDefer a => Sys2Proof.Machine.execTchDefer a s
  | .tchPrio a bi b => Sys2Proof.Machine.execTchPrio a bi b s
  | .tchEnd => Sys2Proof.Machine.execTchEnd s
  | .launchStage fn slot dword data => Sys2Proof.Machine.execLaunchStage fn slot dword data s
  | .launchRecord fn slot data => Sys2Proof.Machine.execLaunchRecord fn slot data s
  | .policyWindowWrite fn index data => Sys2Proof.Machine.execPolicyWindowWrite fn index data s
  | .pcmdVerify fn => Sys2Proof.Machine.execPcmdVerify fn s
  | .verificationDone fn => Sys2Proof.Machine.execVerificationDone fn s
  | .pcmdSwap fn => Sys2Proof.Machine.execPcmdSwap fn s
  | .stopRequest fn => Sys2Proof.Machine.execStopRequest fn s
  | .functionStopped fn => Sys2Proof.Machine.execFunctionStopped fn s
  | .resume fn => Sys2Proof.Machine.execResume fn s
  | .uestaClear fn ones => Sys2Proof.Machine.execUestaClear fn ones s
  | .cestaClear fn ones => Sys2Proof.Machine.execCestaClear fn ones s
  | .fmodeWrite fn data => Sys2Proof.Machine.execFmodeWrite fn data s
  | .ringBaseWrite fn ring data => Sys2Proof.Machine.execRingBaseWrite fn ring data s
  | .ringSizeWrite fn ring data => Sys2Proof.Machine.execRingSizeWrite fn ring data s
  | .ringHeadWrite fn ring data => Sys2Proof.Machine.execRingHeadWrite fn ring data s
  | .invalidation fn => Sys2Proof.Machine.execInvalidation fn s
  | .invalidationComplete fn => Sys2Proof.Machine.execInvalidationComplete fn s
  | .resolutionAnswer fn => Sys2Proof.Machine.execResolutionAnswer fn s
  | .decisionAnswer fn => Sys2Proof.Machine.execDecisionAnswer fn s
  | .hostDecisionTimeout fn => Sys2Proof.Machine.execHostDecisionTimeout fn s
  | .qrelWrite fn data => Sys2Proof.Machine.execQrelWrite fn data s
  | .rfcountWrite fn data => Sys2Proof.Machine.execRfcountWrite fn data s
  | .partitionDescriptorWrite fn offset data => Sys2Proof.Machine.execPartitionDescriptorWrite fn offset data s
  | .registerWrite fn offset data => Sys2Proof.Machine.execRegisterWrite fn offset data s
  | .hostRead place len => Sys2Proof.Machine.execHostRead place len s
  | .hostWrite pa data => Sys2Proof.Machine.execHostWrite pa data s
  | .hostAtomic op pa len a b => Sys2Proof.Machine.execHostAtomic op pa len a b s
  | .fabricRequest peer req pa len data => Sys2Proof.Machine.execFabricRequest peer req pa len data s
  | .functionLevelReset fn => Sys2Proof.Machine.execFunctionLevelReset fn s
  | .coldStart images => Sys2Proof.Machine.execColdStart images s
  | .warmStart images => Sys2Proof.Machine.execWarmStart images s
  | .clockThrottle lower => Sys2Proof.Machine.execClockThrottle lower s
  | .softError core what => Sys2Proof.Machine.execSoftError core what s
  | .bankHardFailure core bank => Sys2Proof.Machine.execBankHardFailure core bank s
  | .ringTailWrite fn ring data => Sys2Proof.Machine.execRingTailWrite fn ring data s
  | .attestationReport nonce => Sys2Proof.Machine.execAttestationReport nonce s

end Sys2Proof.Machine
end

