-- ==== Sys2Proof/Machine/Events.lean ====
section
/-! DEFINITION. Which event comes next, when it is not an act of the core at turn (R43, R64, R108, R115, R157, R165, R361, R410). -/
namespace Sys2Proof.Machine

/-- What comes before the core at turn acts. -/
inductive Due where
  /-- an event of the table of operations and events, and the state in which it comes -/
  | event (i : Instr) (s : State)
  /-- a change no row names -/
  | change (s : State)

/-! ### Inputs and landings -/

/-- An input that has fallen due (log 5). -/
def inputDue (s : State) : Option Due :=
  match s.inputs with
  | (t, i) :: rest => if t ≤ s.wall then some (.event i { s with inputs := rest }) else none
  | [] => none

/-- Landings due, in increasing order of the sending member, then of issue (R43). -/
def firstWindow (wall : Nat) (ws : List WindowStore) : Option Nat :=
  let due := (List.range ws.length).zip ws |>.filter fun x => decide (x.2.due ≤ wall)
  (sortBy (fun a b => decide (a.2.due < b.2.due) || (a.2.due == b.2.due && (decide (a.2.member < b.2.member) || (a.2.member == b.2.member && decide (a.2.seq < b.2.seq))))) due).head?.map fun x => x.1

def windowDue (s : State) : Option Due := (firstWindow s.wall s.windows).map fun n => .event (.windowLanding n) s

/-- Export writes land in the order their owner issued them (R22). -/
def exportDue (s : State) : Option Due := (s.exports.findIdx? fun w => decide (w.due ≤ s.wall)).map fun n => .event (.exportLanding n) s

/-! ### Boundaries -/

def boundaryDue (s : State) : Option Due :=
  if (boundaryGroup s true).isSome then some (.event .tickCompletion s)
  else if (boundaryGroup s false).isSome then some (.event .phaseCompletion s)
  else if (saveGroup s).isSome then some (.event .preemptSave s)
  else none

/-! ### Engines and accesses in flight (R115, R165) -/

/-- A command that takes a step or completes. -/
def engineDue (s : State) : Option Due :=
  (allCores s).findSome? fun c => c.dev.cmds.findSome? fun k =>
    if mayRun s c k && !(k.stage == .queued && heldBack s c k.seq) then some (.change (runCmd s c k))
    else if mayFinish s.wall c k then some (.event (.engineCommandCompletion k.uid) s)
    else none

/-- An access that is performed, in the order of its core's accesses (R103, R113, R117). -/
def performDue (s : State) : Option Due :=
  (allCores s).findSome? fun c => (c.dev.vars.find? fun v => decide (v.due ≤ s.wall) && (match v.stage with
    | .issued => true
    | .resolving none => true
    | _ => false) && c.mayPerform v && !heldBack s c v.seq).map fun v => .change (performVar s c.seat.cid v)

/-- NEXT and GROW requests served in the order they reach the scheduler (R157). -/
def requestDue (s : State) : Option Due :=
  s.fns.findSome? fun f => f.tasks.findSome? fun t =>
    match t.reqs with
    | r :: _ => if r.due ≤ s.wall then some (.change (serveUpTo f.num t.num r.cid r.seq t.reqs s)) else none
    | [] => none

/-! ### Functions -/

/-- The next bytecode of a running decision; its END comes once its cycles have passed (R366, R369). -/
def bytecodeDue (s : State) (f : Func) (d : Decision) : Option Due :=
  if overrunCycles ≤ d.cost then (if d.began + overrunCycles ≤ s.wall then some (.event (.decisionOverrun f.num) s) else none)
  else match decodePolicy (nth d.code d.ix 0) with
    | none => some (.event (.decisionOverrun f.num) s)
    | some .tchEnd => if d.began + d.cost + 1 ≤ s.wall then some (.event .tchEnd { s with fnTurn := f.num }) else none
    | some i => some (.event i { s with fnTurn := f.num })

/-- An event of a function; a task that is over completes before anything is decided (R359). -/
def fnDue (s : State) (f : Func) : Option Due :=
  let ev := fun (i : Instr) => some (Due.event i s)
  match f.tasks.find? (taskOver s f) with
  | some t => ev (.taskCompletion f.num t.num)
  | none => match (resetStep s f).map Due.change <|> f.decision.bind (bytecodeDue s f) with
  | some d => some d
  | none =>
    if invalReady f then ev (.invalidation f.num)
    else match invalFlush s f, retryRecord s f with
    | some v, _ => some (.change (flushInval s f.num v))
    | none, some s' => some (.change s')
    | none, none =>
    if (invalDone s f).isSome then ev (.invalidationComplete f.num)
    else if (resolverRequest s f).isSome then ev (.hardwareResolver f.num)
    else if (nextEntry s f 5).isSome then ev (.resolutionAnswer f.num)
    else if (nextEntry s f 7).isSome then ev (.decisionAnswer f.num)
    else if (hostLate s f).isSome then ev (.hostDecisionTimeout f.num)
    else if f.spareBank.vstat = 1 && f.verifyDue ≤ s.wall then ev (.verificationDone f.num)
    else if timerDue s f then ev (.timer f.num)
    else if undecided f && f.decideAt == some s.wall then ev (.decision f.num)
    else if mayDecide s f && f.decideAt != some (s.wall + 1) then some (.change (prepareDecision s f.num))
    else match dueBind s f with
      | some b => ev (if b.restore.isSome then .restore f.num else .dispatch f.num)
      | none => if stopDone s f then ev (.functionStopped f.num) else none

def functionDue (s : State) : Option Due := s.fns.findSome? (fnDue s)

/-- The function whose RFCOUNT an input writes. -/
def rfcountFn : Instr → Option Nat
  | .rfcountWrite fn _ => some fn
  | .partitionDescriptorWrite fn 96 _ => some fn
  | _ => none

/-- A host write of RFCOUNT is applied after the decrements of the resolver on its cycle (R412). -/
def resolverFirst (s : State) : Option Due :=
  match s.inputs with
  | (t, i) :: _ => if t ≤ s.wall then (rfcountFn i).bind fun fn => (fnOf s fn).bind fun f => (resolverRequest s f).map fun _ => .event (.hardwareResolver fn) s else none
  | [] => none

/-- The scrub engine and the background scrubber. -/
def scrubDue (s : State) : Option Due :=
  match s.scrubPages.find? fun p => decide (p.due ≤ s.wall) with
  | some p => some (.event (.scrub p.frame) s)
  | none => if s.scrubNext ≤ s.wall then some (.event .scrubberPass s) else none

/-- What happens at the start of a wall cycle, before any core's turn: boundaries that the cycle before completed come first. DESIGN CHOICE (log 5). -/
def packageDue (s : State) : Option Due :=
  boundaryDue s <|> resolverFirst s <|> inputDue s <|> windowDue s <|> exportDue s <|> functionDue s <|> scrubDue s <|> requestDue s <|> performDue s <|> engineDue s

/-! ### The core at turn -/

/-- The scoreboarded result of the core at turn that lands next: the oldest that has come, in wall cycles also while the core is frozen or stopped; where fixed results land on the same cycle, after those of an earlier issue; one of a TICK group not before its boundary is known to be a TICK (R108, R173, R176, R374, R384). -/
def landingDue (s : State) : Option Due :=
  let c := s.core
  match oldestSeq ((c.come s.wall).filter fun v => !heldBack s c v.seq) with
  | none => none
  | some n =>
    let still := !c.seat.runs || c.pipe.mark.freezes.isSome || (c.pipe.blocked s.wall).isSome
    let first := c.pipe.mark == .running && !(c.pipe.flights.any fun f => c.landsNow s.wall f && !f.eff.isCommit && decide (f.seq < n))
    if still || first then (c.dev.vars.findIdx? fun v => v.seq == n).map fun i => .event (.variableResultLanding i) s else none

/-- A walk of a marked run comes to its end while the core at turn is frozen or runs nothing; else the walk begins of a marked run that has frozen it, also of one that a load meets whose freeze a budget stop has come into, or one of a TICK group that waits for its TICK (R71, R108, R385). -/
def rewalkDue (s : State) : Option Due :=
  let c := s.core
  let still := !c.seat.runs || c.pipe.mark.freezes.isSome
  match if still then c.dev.walks.find? fun w => decide (w.due ≤ s.wall) && c.dev.runs.any fun r => r.marked && r.ext == w.ext && r.va == w.va else none with
  | some w => some (.event (.runRewalk w.va) s)
  | none =>
    let run := if c.pipe.mark == .held .freezeFree then neededRun s
      else if c.pipe.back.isSome || (c.seat.stopped && c.pipe.frozenAt.isSome) then promisedRun s c else none
    (run.filter fun r => !c.dev.walks.any fun w => w.ext == r.ext && w.va == r.va).map fun r => .change (startWalk s c.seat.cid r)

/-- One step within a core's turn. -/
def coreStep (s : State) : Answer :=
  match landingDue s <|> rewalkDue s with
  | some (.event i s') => exec i s'
  | some (.change s') => .next s'
  | none => stepCore exec s

/-- Do the turns of this wall cycle, run on from here, leave a core at its schedule cycle n: stopped, or frozen? -/
def turnHeld (cid n : Nat) : Nat → State → Bool
  | 0, _ => false
  | fuel + 1, s =>
    match coreOf s cid with
    | none => false
    | some p =>
      if p.pipe.cyc != n then false
      else if s.core.seat.cid == cid && !p.seat.runs then true
      else if s.core.seat.cid == cid && p.pipe.mark != .running then !p.pipe.mark.passes
      else match coreStep s with
        | .next t => if s.core.seat.cid == cid && t.turn != s.turn then false else turnHeld cid n fuel t
        | _ => false

/-- The even core of a pair, about to issue, learns whether its partner, whose turn of the wall cycle is next, passes no schedule cycle on it: array commits due there have not landed then (R63, R286, R295). DEDUCED (log 34). -/
def partnerDue (s : State) : Option Due :=
  let c := s.core
  if c.seat.cid % 2 != 0 || c.pipe.partnerHeld || !c.seat.runs || c.pipe.mark != .running then none
  else match partnerOf s with
    | none => none
    | some p =>
      if p.seat.live && p.arrayBusy (p.pipe.cyc - 1) && !p.arrayBusy p.pipe.cyc && (match coreAct s with
        | .fetch => true
        | _ => false) && turnHeld p.seat.cid p.pipe.cyc (64 + 2 * (c.dev.vars.length + p.dev.vars.length + c.dev.runs.length + p.dev.runs.length)) s
      then some (.change (s.onPipe fun p => { p with partnerHeld := true })) else none

/-- The cores' turns of the wall cycle begin. -/
def beginTurns (s : State) : State := { s with turn := 1 }

/-- What comes next, before the core at turn acts. DESIGN CHOICE (log 5). DESIGN CHOICE (log 11). -/
def pickEvent (s : State) : Option Due :=
  if s.turn = 0 then packageDue s <|> some (.change (beginTurns s)) else landingDue s <|> rewalkDue s <|> partnerDue s

end Sys2Proof.Machine
end

