-- ==== Sys2Proof/Machine/Step.lean ====
section
/-! DEFINITION. One step of the package: what comes before the core at turn acts, or its next act. -/
namespace Sys2Proof.Machine

/-- One step. -/
def step (s : State) : Host.Outcome State Fault Refusal :=
  match pickEvent s with
  | some (.event i s') => exec i s'
  | some (.change s') => .next s'
  | none => stepCore exec s

/-- The state with one instruction placed where the next step finds it (log 6). DESIGN CHOICE (log 6). -/
def State.withFetchWord (s : State) (nbits w : Nat) : State := placeWord s nbits w

end Sys2Proof.Machine
end

