-- ==== Sys2Proof/Decode.lean ====
section
/-! DEFINITION. Decoding of syllables and policy bytecodes, total and rejecting by name (R182, R368), and the encoder. -/
namespace Sys2Proof

/-- Why 16 bytes or a word are no instruction. -/
inductive DecodeError where
  /-- fewer bytes than a syllable has -/
  | short
  /-- reason 2 of R180 -/
  | reservedClass
  /-- reason 3 of R180 -/
  | reservedOpcode
  /-- reason 4 of R180 -/
  | badField
  /-- reason 2 of R368 -/
  | badBytecode
deriving DecidableEq, Repr

/-- A 128-bit syllable to its instruction (R167, R182). -/
def decodeSyllable (w : Syllable) : Except DecodeError Instr :=
  match Machine.nameSyllable w with
  | .error .reservedClass => .error .reservedClass
  | .error .reservedOpcode => .error .reservedOpcode
  | .ok i => if i.wf then .ok i else .error .badField

/-- A policy bytecode word to its instruction (R364, R368). -/
def decodeBytecode (w : BitVec 32) : Except DecodeError Instr :=
  match Machine.decodePolicy w with
  | some i => .ok i
  | none => .error .badBytecode

/-- The first syllable of a list of bytes, stored little-endian (R168), with the bytes after it. -/
def decodeBytes (bs : List Byte) : Except DecodeError (Instr × List Byte) :=
  if bs.length < 16 then .error .short
  else match decodeSyllable (BitVec.ofNat 128 (Machine.leNat (bs.take 16))) with
    | .error e => .error e
    | .ok i => .ok (i, bs.drop 16)

/-- The syllable of an instruction of the opcode map. -/
def encodeSyllable (i : Instr) : Option Syllable := (Machine.syl? i).map Machine.Syl.word

/-- The word of a policy bytecode. -/
def encodeBytecode (i : Instr) : Option (BitVec 32) := (Machine.tchFields? i).map Machine.tchWord

/-- The bytes of an instruction that has an encoding; an event has none. -/
def encode (i : Instr) : Option (List Byte) :=
  match encodeSyllable i with
  | some w => some (Machine.leBytes 16 w.toNat)
  | none => (encodeBytecode i).map fun w => Machine.leBytes 4 w.toNat

/-- The instruction of an opcode-table row's bits: 32 bits are a policy bytecode, 128 bits a syllable laid out little-endian and read back by the decoder. -/
def decodeTableWord (nbits w : Nat) : Option Instr :=
  if nbits = 32 then (decodeBytecode (BitVec.ofNat 32 w)).toOption
  else if nbits = 128 then (decodeBytes (Machine.leBytes 16 w)).toOption.map Prod.fst
  else none

end Sys2Proof
end

