-- ==== Sys2Proof/Safety.lean ====
section
/-! DEFINITION. What a safe run is, and the terms in which the statements are made: when a syllable issues, what its commit and its result are, and how R205 reads and fits scalars. -/
namespace Sys2Proof

/-- The step from a state goes on. -/
def Goes (s : Machine.State) : Prop := ∃ t, Machine.step s = .next t

/-- n steps from a state go on. -/
def SafeFor : Nat → Machine.State → Prop
  | 0, _ => True
  | n + 1, s => ∃ t, Machine.step s = .next t ∧ SafeFor n t

/-! ### Issue and completion of a syllable -/

/-- The group at issue admits syllable `i`: a group of `i` alone passes the checks of R382 and its holds; a longer group has passed them before its first syllable. -/
def Admitted (i : Instr) (s : Machine.State) : Prop := s.core.pipe.glen = 1 → Machine.precheck s [Machine.slotOf i] = .go

/-- `s1` once syllable `i`, whose own effect has led to `s1`, has committed (R171, R172, R174, R177); its result lands `land` schedule cycles after issue, when its scoreboard counts down. -/
def committed (i : Instr) (s1 : Machine.State) (land : Option Nat) : Machine.State :=
  match Machine.syl? i with
  | some y => Machine.commitSyllable y i s1 land
  | none => s1

/-- `exec` answers the next state in which syllable `i` has committed with its whole effect in `s1`. -/
def Completes (i : Instr) (s s1 : Machine.State) (land : Option Nat) : Prop := Machine.exec i s = .next (committed i s1 land)

/-- `exec` answers the next state in which syllable `i` has committed, its only effect being one result that lands n schedule cycles after issue (R173). -/
def Lands (i : Instr) (s : Machine.State) (n : Nat) (e : Machine.Eff) : Prop := Completes i s (s.fly n e) (some n)

/-- `exec` answers the next state in which the group of `i` has trapped at the syllable's position, with nothing of it committed (R372, R374). -/
def TrapsHere (i : Instr) (s : Machine.State) (cls code : Nat) (tval : Word) : Prop :=
  Machine.exec i s = .next (Machine.takeTrap { code := code, detail := 0, pos := s.core.pipe.gpos, cls := cls, tval := tval } s)

/-- A result that lands n schedule cycles from now. -/
def inFlight (s : Machine.State) (n : Nat) (e : Machine.Eff) : Machine.Flight :=
  { due := s.core.pipe.cyc + n, seq := s.core.pipe.seq, eff := e, late := none }

/-- Outside the core at turn the two states are the same. -/
def SameOutside (s t : Machine.State) : Prop := t = { s with core := t.core }

/-! ### Scalars as R205 reads and fits them -/

/-- w of R205. -/
def width32 (h : Hdr) : Bool := h.fmt.extractLsb' 2 6 == 0x06#6 || h.fmt.extractLsb' 2 6 == 0x0A#6

/-- sg of R205. -/
def signedFmt (h : Hdr) : Bool := h.fmt.extractLsb' 2 6 == 0x06#6 || h.fmt.extractLsb' 2 6 == 0x07#6

/-- MODE 0b01: saturate. -/
def saturates (h : Hdr) : Bool := h.fmt.extractLsb' 0 2 == 1#2

/-- as_int of the low w bits of a word. -/
def asOperand (h : Hdr) (x : Word) : Int :=
  match width32 h, signedFmt h with
  | true, true => (x.setWidth 32).toInt
  | true, false => (x.setWidth 32).toNat
  | false, true => x.toInt
  | false, false => x.toNat

/-- bb of R205: the sign-extended immediate or sB. -/
def secondWord (s : Machine.State) (o : LReg) : Word := if o.bsel = 2#2 then o.imm.signExtend 64 else s.core.sreg o.b.toNat

/-- a and b of R205. -/
def opA (s : Machine.State) (h : Hdr) (o : LReg) : Int := asOperand h (s.core.sreg o.a.toNat)
def opB (s : Machine.State) (h : Hdr) (o : LReg) : Int := asOperand h (secondWord s o)

/-- The low w bits of an exact result, extended to 64 bits. -/
def wrapTo (h : Hdr) (x : Int) : Word :=
  match width32 h, signedFmt h with
  | true, true => (BitVec.ofInt 32 x).signExtend 64
  | true, false => (BitVec.ofInt 32 x).setWidth 64
  | false, _ => BitVec.ofInt 64 x

/-- min_w(sg) and max_w(sg) of R205. -/
def leastOf (h : Hdr) : Int :=
  match width32 h, signedFmt h with
  | true, true => -2147483648
  | false, true => -9223372036854775808
  | _, false => 0
def greatestOf (h : Hdr) : Int :=
  match width32 h, signedFmt h with
  | true, true => 2147483647
  | true, false => 4294967295
  | false, true => 9223372036854775807
  | false, false => 18446744073709551615

/-- fit of R205, extended to 64 bits. -/
def fitTo (h : Hdr) (x : Int) : Word :=
  wrapTo h (if saturates h then (if x < leastOf h then leastOf h else if greatestOf h < x then greatestOf h else x) else x)

end Sys2Proof
end

