-- ==== Sys2Proof/Certificates/Slice0/Obligations.lean ====
section
/-! DEFINITION. The statements for the provers. -/
open Sys2Proof Sys2Proof.Machine

/-! ### Scalars -/

/-- R205, R206: ADD, SUB, MUL, MULH, MIN and MAX complete with the fitted exact result, in all 64 bits of sD, at the cycle of R185. -/
def Obligations.ScalarArithmeticCompletes : Prop := ∀ (h : Hdr) (o : LReg) (s : State),
  ((Instr.sAdd h o).wf = true → Admitted (.sAdd h o) s → Lands (.sAdd h o) s 1 (.sreg o.d.toNat (fitTo h (opA s h o + opB s h o)))) ∧
  ((Instr.sSub h o).wf = true → Admitted (.sSub h o) s → Lands (.sSub h o) s 1 (.sreg o.d.toNat (fitTo h (opA s h o - opB s h o)))) ∧
  ((Instr.sMul h o).wf = true → Admitted (.sMul h o) s → Lands (.sMul h o) s 3 (.sreg o.d.toNat (fitTo h (opA s h o * opB s h o)))) ∧
  ((Instr.sMulh h o).wf = true → Admitted (.sMulh h o) s →
    Lands (.sMulh h o) s 3 (.sreg o.d.toNat (wrapTo h ((opA s h o * opB s h o).fdiv (if width32 h then 4294967296 else 18446744073709551616))))) ∧
  ((Instr.sMin h o).wf = true → Admitted (.sMin h o) s → Lands (.sMin h o) s 1 (.sreg o.d.toNat (wrapTo h (min (opA s h o) (opB s h o))))) ∧
  ((Instr.sMax h o).wf = true → Admitted (.sMax h o) s → Lands (.sMax h o) s 1 (.sreg o.d.toNat (wrapTo h (max (opA s h o) (opB s h o)))))

/-- q and r of R207. -/
def Sys2Proof.quotient (h : Hdr) (a b : Int) : Int :=
  if b = 0 then (if signedFmt h && decide (a < 0) then leastOf h else greatestOf h)
  else if signedFmt h = true ∧ a = leastOf h ∧ b = -1 then (if saturates h then greatestOf h else leastOf h) else a.tdiv b
def Sys2Proof.remainder (h : Hdr) (a b : Int) : Int :=
  if b = 0 then a else if signedFmt h = true ∧ a = leastOf h ∧ b = -1 then 0 else a - a.tdiv b * b

/-- R207: DIV and REM complete with the quotient and the remainder of the rule, +12 or +20, unless the divisor is zero and CTRL.DZE is set; then they trap with cause 0x04 and bb. -/
def Obligations.ScalarDivision : Prop := ∀ (h : Hdr) (o : LReg) (s : State),
  ((Instr.sDiv h o).wf = true → Admitted (.sDiv h o) s →
    ((opB s h o ≠ 0 ∨ s.core.sys.ctrl.getLsbD 0 = false) →
      Lands (.sDiv h o) s (if width32 h then 12 else 20) (.sreg o.d.toNat (wrapTo h (quotient h (opA s h o) (opB s h o))))) ∧
    (opB s h o = 0 → s.core.sys.ctrl.getLsbD 0 = true → TrapsHere (.sDiv h o) s 0 0x04 (secondWord s o))) ∧
  ((Instr.sRem h o).wf = true → Admitted (.sRem h o) s →
    ((opB s h o ≠ 0 ∨ s.core.sys.ctrl.getLsbD 0 = false) →
      Lands (.sRem h o) s (if width32 h then 12 else 20) (.sreg o.d.toNat (wrapTo h (remainder h (opA s h o) (opB s h o))))) ∧
    (opB s h o = 0 → s.core.sys.ctrl.getLsbD 0 = true → TrapsHere (.sRem h o) s 0 0x04 (secondWord s o)))

/-- R208: AND, OR, XOR and ANDN take no format, have opcodes 0x08 to 0x0B of class S, and complete with the 64-bit result of sA and bb at +1. -/
def Obligations.ScalarLogicCompletes : Prop := ∀ (h : Hdr) (o : LReg) (s : State),
  (Admitted (.sAnd h o) s → Lands (.sAnd h o) s 1 (.sreg o.d.toNat (s.core.sreg o.a.toNat &&& secondWord s o))) ∧
  (Admitted (.sOr h o) s → Lands (.sOr h o) s 1 (.sreg o.d.toNat (s.core.sreg o.a.toNat ||| secondWord s o))) ∧
  (Admitted (.sXor h o) s → Lands (.sXor h o) s 1 (.sreg o.d.toNat (s.core.sreg o.a.toNat ^^^ secondWord s o))) ∧
  (Admitted (.sAndn h o) s → Lands (.sAndn h o) s 1 (.sreg o.d.toNat (s.core.sreg o.a.toNat &&& ~~~secondWord s o))) ∧
  ([Instr.sAnd h o, .sOr h o, .sXor h o, .sAndn h o].map fun i => (syl? i).map fun y => (y.cls, y.opc)) = [some (0, 0x08), some (0, 0x09), some (0, 0x0A), some (0, 0x0B)] ∧
  ((Instr.sAnd h o).wf = true → h.fmt = 0) ∧ ((Instr.sOr h o).wf = true → h.fmt = 0) ∧ ((Instr.sXor h o).wf = true → h.fmt = 0) ∧
  ((Instr.sAndn h o).wf = true → h.fmt = 0)

/-- The w-bit pattern y of R209, extended. -/
def Sys2Proof.patternTo (h : Hdr) (y : BitVec 32) (z : BitVec 64) : Word := if width32 h then (if signedFmt h then y.signExtend 64 else y.setWidth 64) else z

/-- R209: SHL, SHR, SRA and ROT complete at +1 with the shift or rotation of the w-bit pattern by the natural amount bb[7:0]. -/
def Sys2Proof.ScalarShiftsComplete : Prop := ∀ (h : Hdr) (o : LReg) (s : State),
  let x := s.core.sreg o.a.toNat
  let n := ((secondWord s o).extractLsb' 0 8).toNat
  ((Instr.sShl h o).wf = true → Admitted (.sShl h o) s → Lands (.sShl h o) s 1 (.sreg o.d.toNat (patternTo h (x.setWidth 32 <<< n) (x <<< n)))) ∧
  ((Instr.sShr h o).wf = true → Admitted (.sShr h o) s → Lands (.sShr h o) s 1 (.sreg o.d.toNat (patternTo h (x.setWidth 32 >>> n) (x >>> n)))) ∧
  ((Instr.sSra h o).wf = true → Admitted (.sSra h o) s → Lands (.sSra h o) s 1 (.sreg o.d.toNat (patternTo h ((x.setWidth 32).sshiftRight n) (x.sshiftRight n)))) ∧
  ((Instr.sRot h o).wf = true → Admitted (.sRot h o) s → Lands (.sRot h o) s 1 (.sreg o.d.toNat (patternTo h ((x.setWidth 32).rotateLeft n) (x.rotateLeft n))))

/-- The condition of SUB in R211. -/
def Sys2Proof.condition (sub : BitVec 4) (a b : Int) : Bool :=
  if sub = 0 then decide (a = b) else if sub = 1 then decide (a ≠ b) else if sub = 2 then decide (a < b)
  else if sub = 3 then decide (b ≤ a) else if sub = 4 then decide (a ≤ b) else decide (b < a)

/-- R210 to R213: CLZ, POPC, CMP, SEL, BFX and BFI complete at +1 with the count, the truth of the condition, the selected word, the extracted field and the replaced field. -/
def Sys2Proof.ScalarCountsSelectsFieldsComplete : Prop := ∀ (h : Hdr) (o : LReg) (s : State),
  let x := s.core.sreg o.a.toNat
  let p := ((secondWord s o).extractLsb' 0 6).toNat
  let wd := min ((secondWord s o).extractLsb' 6 7).toNat 64
  ((Instr.sClz h o).wf = true → Admitted (.sClz h o) s →
    Lands (.sClz h o) s 1 (.sreg o.d.toNat (if width32 h then (x.setWidth 32).clz.setWidth 64 else x.clz))) ∧
  ((Instr.sPopc h o).wf = true → Admitted (.sPopc h o) s →
    Lands (.sPopc h o) s 1 (.sreg o.d.toNat (if width32 h then (x.setWidth 32).cpop.setWidth 64 else x.cpop))) ∧
  ((Instr.sCmp h o).wf = true → Admitted (.sCmp h o) s →
    Lands (.sCmp h o) s 1 (.sreg o.d.toNat (if condition o.sub (opA s h o) (opB s h o) then 1 else 0))) ∧
  (Admitted (.sSel h o) s → Lands (.sSel h o) s 1 (.sreg o.d.toNat (if s.core.sreg o.c.toNat ≠ 0 then x else secondWord s o))) ∧
  ((Instr.bfx h o).wf = true → Admitted (.bfx h o) s →
    Lands (.bfx h o) s 1 (.sreg o.d.toNat (if signedFmt h then ((x >>> p).setWidth wd).signExtend 64 else ((x >>> p).setWidth wd).setWidth 64))) ∧
  (Admitted (.bfi h o) s → ∃ v : Word, Lands (.bfi h o) s 1 (.sreg o.d.toNat v) ∧
    ∀ i, i < 64 → v.getLsbD i = if p ≤ i ∧ i < p + wd then x.getLsbD (i - p) else (s.core.sreg o.c.toNat).getLsbD i)

/-- R209 to R213: the shifts, counts, comparison, selection and bit-field scalars complete as said. -/
def Obligations.ScalarShiftsCountsFieldsComplete : Prop := Sys2Proof.ScalarShiftsComplete ∧ Sys2Proof.ScalarCountsSelectsFieldsComplete

/-- R149, R150, R184: what a read of each special register number gives: NOW, BUDGET, TL, TVEC, the four banked registers of each level, CTRL, FMTR, SEED, WIDR, CID, BENCH with the fields of R150, ROTW, MMODE and TAGR; MFSR names no other number. -/
def Sys2Proof.SpecialRegisterValues : Prop := ∀ (c : StreamCore), let y := c.sys
  ((List.range 16).map c.special = [y.now, BitVec.ofNat 64 y.budget, BitVec.ofNat 64 y.tl, y.tvec, y.tcause1, y.tcause2, y.tret1, y.tret2, y.tval1, y.tval2, y.tglen1, y.tglen2,
    y.ctrl, y.fmtr, y.seed, y.widr]) ∧
  c.special 16 = BitVec.ofNat 64 c.seat.cid ∧ c.special 18 = y.rotw ∧ c.special 19 = BitVec.ofNat 64 y.mmode ∧ c.special 20 = c.regs.tagr ∧
  (c.seat.cid < 256 → let b := c.special 17
    b.extractLsb' 0 4 = BitVec.ofNat 4 c.seat.cid ∧ b.extractLsb' 4 2 = BitVec.ofNat 2 (c.seat.cid / 16) ∧ b.extractLsb' 6 2 = BitVec.ofNat 2 (c.seat.cid / 64) ∧
    b.extractLsb' 8 8 = 0 ∧ b.extractLsb' 16 4 = BitVec.ofNat 4 c.seat.member ∧ b.extractLsb' 20 4 = BitVec.ofNat 4 (c.seat.gsize - 1) ∧ b.extractLsb' 24 40 = 0) ∧
  ∀ (h : Hdr) (o : LReg), (Instr.mfsr h o).wf = true → o.a.toNat ≤ 20

/-- R214 to R217: LIW, MFSR, MTSR, MTQ, MTQ.NULL, MFQ, MFQ.NULL and NOP complete with their move at +1. -/
def Sys2Proof.MovesComplete : Prop := ∀ (h : Hdr) (o : LReg) (w : LWide) (s : State),
  let q := (o.d.toNat + ((s.core.sys.rotw.extractLsb' 8 4).toNat)) % 16
  (Admitted (.liw h w) s → Lands (.liw h w) s 1 (.sreg w.d.toNat w.imm64)) ∧
  (Admitted (.mfsr h o) s → Lands (.mfsr h o) s 1 (.sreg o.d.toNat (s.core.special o.a.toNat))) ∧
  (Admitted (.mtsr h o) s → Lands (.mtsr h o) s 1 (.sys o.d.toNat (s.core.sreg o.a.toNat))) ∧
  (Admitted (.mtq h o) s → Lands (.mtq h o) s 1 (.qreg q false (s.core.sreg o.a.toNat))) ∧
  (Admitted (.mtqNull h o) s → Lands (.mtqNull h o) s 1 (.qreg q true 0)) ∧
  (Admitted (.mfq h o) s → Lands (.mfq h o) s 1 (.sreg o.d.toNat (s.core.qdata o.a.toNat))) ∧
  (Admitted (.mfqNull h o) s → Lands (.mfqNull h o) s 1 (.sreg o.d.toNat (if s.core.qnull o.a.toNat then 1 else 0))) ∧
  (Admitted (.nop h o) s → Completes (.nop h o) s s (some 1))

/-- R149, R150, R184, R214 to R217: the scalar moves complete, and what each special register number reads as. -/
def Obligations.ScalarMovesComplete : Prop := MovesComplete ∧ SpecialRegisterValues

/-- The store `st'` is `st` with the writes `ws`, the last write of a number winning: every number written holds its last word, every other number its old one. -/
def Sys2Proof.Written {w : Nat} (st st' : Store w) (ws : List (Nat × BitVec w)) : Prop :=
  (∀ k, (∀ x, (k, x) ∉ ws) → st'.get k = st.get k) ∧ ∀ pre k x post, ws = pre ++ (k, x) :: post → (∀ y, (k, y) ∉ post) → st'.get k = x

/-- R173: the one result that is due lands, unless it is one that waits for the scheduler: the core is as the result's own effect makes it, the result is no longer in flight, and everything else is as before. -/
def Sys2Proof.OneResultLands : Prop := ∀ (s : State) (f : Flight), s.core.pipe.due = [f] → s.core.landsNow s.wall f = true →
  (∀ n, f.eff ≠ .nextWait n) → (∀ d k a, f.eff ≠ .growWait d k a) →
  let u := s.core.apply f.eff
  ∃ t, exec .fixedResultLanding s = .next t ∧ SameOutside s t ∧ t.core.regs = u.regs ∧ t.core.sys = u.sys ∧ t.core.taps = u.taps ∧ t.core.sp = u.sp ∧
    t.core.pipe.overflow = u.pipe.overflow ∧ t.core.pipe.flights = (s.core.pipe.flights.filter fun g => g != f) ∧ t.core.pipe.pc = s.core.pipe.pc ∧
    t.core.seat = s.core.seat ∧ t.core.dev = s.core.dev ∧ t.core.wbuf = s.core.wbuf ∧ t.core.pool = s.core.pool

/-- R148, R156, R173, R257, R268, R275, R278, R293, R296: what a landing writes: a scalar (a write of s0 is discarded), a q register and its null flag, the bits written of a mask, lane words, bits of lane words, accumulator words, scales, bypass entries, latch words; every other register keeps its value. -/
def Sys2Proof.RegisterEffects : Prop := ∀ (c : StreamCore) (n : Nat),
  (∀ v, (∀ m, (c.apply (.sreg n v)).sreg m = if m = n ∧ n ≠ 0 then v else c.sreg m) ∧
    c.apply (.sreg n v) = { c with regs := { c.regs with s := (c.apply (.sreg n v)).regs.s } }) ∧
  (∀ b v, let u := c.apply (.qreg n b v)
    (∀ m, u.regs.q.get m = if m = n then (if b then 0 else v) else c.regs.q.get m) ∧ (∀ m, u.regs.qlive.get m = if m = n then (if b then 0 else 1) else c.regs.qlive.get m) ∧
    u = { c with regs := { c.regs with q := u.regs.q, qlive := u.regs.qlive } }) ∧
  (∀ m v, let u := c.apply (.kbits n m v)
    (∀ L, (u.regs.k.get n).getLsbD L = if m.getLsbD L then v.getLsbD L else (c.regs.k.get n).getLsbD L) ∧ (∀ j, j ≠ n → u.regs.k.get j = c.regs.k.get j) ∧
    u = { c with regs := { c.regs with k := u.regs.k } }) ∧
  (∀ ws, let u := c.apply (.vecs ws)
    Written c.regs.v u.regs.v ws ∧ u = { c with regs := { c.regs with v := u.regs.v }, pipe := { c.pipe with cache := u.pipe.cache } }) ∧
  (∀ ws : List (Nat × Lane × Lane), let u := c.apply (.vecBits ws)
    (∀ k, (∀ m x, (k, m, x) ∉ ws) → u.regs.v.get k = c.regs.v.get k) ∧
    (∀ pre k m x post, ws = pre ++ (k, m, x) :: post → (∀ m' x', (k, m', x') ∉ post) →
      ∀ i, (u.regs.v.get k).getLsbD i = if m.getLsbD i then x.getLsbD i else (c.regs.v.get k).getLsbD i) ∧
    u = { c with regs := { c.regs with v := u.regs.v }, pipe := { c.pipe with cache := u.pipe.cache } }) ∧
  (∀ ws, let u := c.apply (.acc ws); Written c.regs.m u.regs.m ws ∧ u = { c with regs := { c.regs with m := u.regs.m } }) ∧
  (∀ ws, let u := c.apply (.scale ws); Written c.regs.sc u.regs.sc ws ∧ u = { c with regs := { c.regs with sc := u.regs.sc } }) ∧
  (∀ xs, let u := c.apply (.bypass xs); (∀ i, u.regs.byp.get i = match xs[i]? with
      | some x => x
      | none => c.regs.byp.get i) ∧ u = { c with regs := { c.regs with byp := u.regs.byp } }) ∧
  (∀ v, let u := c.apply (.latchSet n v); (∀ k, u.regs.l.get k = if k / 16 = n then v else c.regs.l.get k) ∧ u = { c with regs := { c.regs with l := u.regs.l } })

/-- The state a write of SEED, a dispatch or a TICK gives the generator of lane L (R95). -/
def Sys2Proof.seedOf (seed now : Word) (L : Nat) : BitVec 32 :=
  let st : BitVec 32 := seed.extractLsb' 0 32 ^^^ seed.extractLsb' 32 32 ^^^ (now.extractLsb' 0 32 * 0x9E3779B9) ^^^ (BitVec.ofNat 32 (L + 1) * 0x85EBCA6B)
  if st = 0 then 0x6A09E667 else st

/-- R95, R149, R184, R215, R232, R295: a write of a special register that lands changes that register, less its bits that read zero, and no other; a SEED write also reseeds the lane generators; the array state that MMODE shows is the one in force. -/
def Sys2Proof.SpecialRegisterEffects : Prop := ∀ (c : StreamCore) (v : Word),
  (c.apply (.sys 3 v) = { c with sys := { c.sys with tvec := v &&& 0xFFFFFFFFFFFFFFF0 } }) ∧
  (c.apply (.sys 4 v) = { c with sys := { c.sys with tcause1 := v &&& 0xFFFF00FF } }) ∧ (c.apply (.sys 5 v) = { c with sys := { c.sys with tcause2 := v &&& 0xFFFF00FF } }) ∧
  (c.apply (.sys 6 v) = { c with sys := { c.sys with tret1 := v &&& 0xFFFFFFFFFFFFFFF0 } }) ∧
  (c.apply (.sys 7 v) = { c with sys := { c.sys with tret2 := v &&& 0xFFFFFFFFFFFFFFF0 } }) ∧
  (c.apply (.sys 8 v) = { c with sys := { c.sys with tval1 := v } }) ∧ (c.apply (.sys 9 v) = { c with sys := { c.sys with tval2 := v } }) ∧
  (c.apply (.sys 10 v) = { c with sys := { c.sys with tglen1 := v &&& 0x1F } }) ∧ (c.apply (.sys 11 v) = { c with sys := { c.sys with tglen2 := v &&& 0x1F } }) ∧
  (c.apply (.sys 12 v) = { c with sys := { c.sys with ctrl := v &&& 1 } }) ∧
  (let u := c.apply (.sys 14 v); u = { c with sys := { c.sys with seed := v }, regs := { c.regs with gen := u.regs.gen } } ∧
    ∀ L, L < 128 → u.regs.gen.get L = seedOf v c.sys.now L) ∧
  (c.apply (.sys 18 v) = { c with sys := { c.sys with rotw := v &&& 0x3F0F0F } }) ∧
  (c.apply .mmode = { c with sys := { c.sys with mmode := c.sys.amode } })

/-- The signal instance with the words `words` in its face, whose soft error, if it had one, is gone (R30). -/
def Sys2Proof.withFace (g : Sig) (words : Store 32) : Sig := { g with samples := { words := words, bad := none } :: g.samples.tail }

/-- R18, R242, R243: a face write that lands replaces the words of the face it names, and an added one adds the elements of the operand to those of the face, fitted once each; older samples, other signals and everything else stay. That an added write onto a face with an uncorrectable error adds to the words that it holds, and that the face is then without the error, is the model's choice (log 24). -/
def Sys2Proof.FaceEffects : Prop := ∀ (c : StreamCore) (sig : Nat),
  let faced := fun (words : Sig → Store 32) => { c with taps := c.taps.map fun g => if g.id = sig ∧ g.samples ≠ [] then withFace g (words g) else g }
  let each := fun (p : Sig → Store 32 → Prop) => ∀ g ∈ c.taps, g.id = sig → ∀ x xs, g.samples = x :: xs → p g x.words
  (∀ ws, ∃ words, c.apply (.tapWrite sig ws) = faced words ∧ each fun g old => Written old (words g) ws) ∧
  (∀ (f : Fmt) (q : QFmt) (mode : Nat) (ws : List (Nat × Lane × List Nat)), (ws.map fun y => y.1).Nodup →
    ∃ words, c.apply (.tapAdd sig f q mode ws) = faced words ∧ each fun g old => (∀ k, (∀ v r, (k, v, r) ∉ ws) → (words g).get k = old.get k) ∧
      ∀ k v r, (k, v, r) ∈ ws → (words g).get k = packElems (f.slotBits q)
        (((elemsOf (f.slotBits q) (old.get k)).zip (elemsOf (f.slotBits q) v)).mapIdx fun e p =>
          fitElem f q mode (nth r e 0) ((decodeElem f q p.1).add (decodeElem f q p.2))))

/-- R335: inserting one tuple: one with a NaN in a counted objective is rejected and counted; one that an entry dominates, or ties where the first is kept, is dropped; else the entries it dominates leave, and it enters, or, where the front is full, it is rejected and counted, or it overflows, or the lexicographically worst leaves and is counted. -/
def Sys2Proof.InsertRule : Prop := ∀ (w : BitVec 40) (f : Front) (x0 : Tuple),
  let arity := (w.extractLsb' 0 2).toNat + 1
  let x : Tuple := { x0 with o1 := if 1 < arity then x0.o1 else 0, o2 := if 2 < arity then x0.o2 else 0, o3 := if 3 < arity then x0.o3 else 0 }
  let nan := (cfgCounted w).any fun j => (objVal w x j).isNan
  let kept := f.es.filter fun e => !dominates w x e
  let full := (w.extractLsb' 21 6).toNat + 1 ≤ kept.length
  let sat := fun (n : BitVec 16) => BitVec.ofNat 16 (min (n.toNat + 1) 65535)
  let shut := (f.es.any fun e => dominates w e x) = true ∨ (w.getLsbD 18 = false ∧ (f.es.any fun e => ties w e x) = true)
  (nan = true → f.insert w false x0 = ({ f with rej := sat f.rej }, false)) ∧
  (nan = false → shut → f.insert w false x0 = (f, false)) ∧
  (nan = false → ¬shut →
    (¬full → f.insert w false x0 = ({ f with es := kept ++ [x] }, false)) ∧
    (full → (w.extractLsb' 19 2 = 0 → f.insert w false x0 = ({ f with es := kept, rej := sat f.rej }, false)) ∧
      (w.extractLsb' 19 2 = 2 → f.insert w false x0 = ({ f with es := kept }, true)) ∧
      (w.extractLsb' 19 2 = 1 → ∀ (pre : List Tuple) y post, kept ++ [x] = pre ++ y :: post → (∀ z ∈ pre, lexBefore w y z = false) → (∀ z ∈ post, lexBefore w z y = true) →
        (post = [] → f.insert w false x0 = ({ f with es := kept, rej := sat f.rej }, false)) ∧
        (post ≠ [] → f.insert w false x0 = ({ f with es := pre ++ post, evi := sat f.evi }, false)))))

/-- R335, R337 to R339, R343, R344, R347: a change of front n that lands: a configuration empties the front; the tuples of a FINS are inserted one by one until one overflows, which is reported with the front and its lane; an unconfigured front takes none; a merge replaces the front, its overflow reported with 0xFF; an image's front takes its configuration, its counts and its tuples. Other fronts and everything else stay. -/
def Sys2Proof.FrontEffects : Prop := InsertRule ∧ ∀ (c : StreamCore) (n : Nat), n < c.regs.fronts.length →
  let lands := fun (op : FrontOp) (f : Front) (report : List Word) => let u := c.apply (.front n op)
    u.front n = f ∧ (∀ m, m ≠ n → u.front m = c.front m) ∧ u = { c with regs := { c.regs with fronts := u.regs.fronts }, pipe := { c.pipe with overflow := c.pipe.overflow ++ report } }
  let word := fun (lane : Nat) => BitVec.ofNat 64 (256 * lane + n)
  (∀ w, lands (.config w) { cfg := some w, es := [], rej := 0, evi := 0 } []) ∧
  (∀ ts, (c.front n).cfg = none → lands (.insert ts) (c.front n) []) ∧
  (∀ w, (c.front n).cfg = some w → lands (.insert []) (c.front n) [] ∧ ∀ L x ts,
    (((c.front n).insert w false x).2 = true → lands (.insert ((L, x) :: ts)) ((c.front n).insert w false x).1 [word L]) ∧
    (((c.front n).insert w false x).2 = false → ∀ f o, ((c.front n).insert w false x).1.insertAll w false ts = (f, o) →
      lands (.insert ((L, x) :: ts)) f (o.toList.map word))) ∧
  (∀ f, lands (.replace f false) f [] ∧ lands (.replace f true) f [word 255]) ∧
  (∀ rej evi ts, lands (.load none rej evi ts) { cfg := none, es := [], rej := 0, evi := 0 } []) ∧
  (∀ w rej evi ts, lands (.load (some w) rej evi ts) (Front.insertAll w true (ts.map fun t => (0, t)) { cfg := some w, es := [], rej := rej, evi := evi }).1 [])

/-- R95, R148, R173, R184, R215, R242, R243, R335, R337, R343, R344: a single result that is due lands, and what each kind of result writes when it lands. What an added face write does to a face with an uncorrectable error is the model's choice (log 24). -/
def Obligations.ResultLandsInItsRegister : Prop := OneResultLands ∧ RegisterEffects ∧ SpecialRegisterEffects ∧ FaceEffects ∧ FrontEffects

/-! ### Commit of a syllable -/

/-- Idle cycles of a STALL code (R172). -/
def Sys2Proof.idleCycles (c : BitVec 4) : Nat :=
  if c.toNat ≤ 9 then c.toNat else if c = 10 then 12 else if c = 11 then 15 else if c = 12 then 19 else if c = 13 then 27 else if c = 14 then 39 else 63

/-- R171 to R174: committing a syllable puts only its scoreboard's count up (and its count down in flight) and, at the group's end, the successor in place; memory, the other cores, the scratchpad, the tap store, the buffer-record pool, the view of device memory, every register but the scoreboard and every special register stay as the syllable's own effect left them, apart from loop indices and rotation under a nest and a pending SETFMT. -/
def Obligations.CommitFrame : Prop := ∀ (i : Instr) (y : Syl) (s : State) (land : Option Nat), syl? i = some y → s.core.pipe.after = [] →
  let t := committed i s land
  SameOutside s t ∧
  t.core.sp = s.core.sp ∧ t.core.taps = s.core.taps ∧ t.core.pool = s.core.pool ∧ t.core.dev = s.core.dev ∧ t.core.wbuf = s.core.wbuf ∧ t.core.jobs = s.core.jobs ∧
  t.core.regs = { s.core.regs with sb := t.core.regs.sb, idx := t.core.regs.idx } ∧
  (∀ n, t.core.regs.sb.get n = if y.h.sbv = true ∧ n = y.h.sbi.toNat then s.core.regs.sb.get n + 1 else s.core.regs.sb.get n) ∧
  t.core.sys = { s.core.sys with fmtr := t.core.sys.fmtr, rotw := t.core.sys.rotw } ∧
  (s.core.pipe.fmtrPend = [] → t.core.sys.fmtr = s.core.sys.fmtr) ∧
  (y.h.stop = false ∨ s.core.pipe.loop = none → t.core.regs.idx = s.core.regs.idx ∧ t.core.sys.rotw = s.core.sys.rotw) ∧
  t.core.pipe.flights = s.core.pipe.flights ++
    (match y.h.sbv, land with
    | true, some n => [inFlight s n (.sb y.h.sbi.toNat)]
    | _, _ => []) ∧
  t.core.pipe.cyc = s.core.pipe.cyc

/-- R168, R172: the syllable with STOP closes the group: the next group is at the control target, if the group transfers, and issues after max(s, 3) idle cycles, else it is the one after the group's syllables and issues after s; without STOP the next position of the same group is at issue. -/
def Obligations.GroupSuccessor : Prop := ∀ (i : Instr) (y : Syl) (s : State) (land : Option Nat), syl? i = some y → s.core.pipe.after = [] → s.core.pipe.loop = none →
  let t := committed i s land
  (y.h.stop = true →
    t.core.pipe.pc = (match s.core.pipe.target with
      | some a => a
      | none => s.core.pipe.pc + BitVec.ofNat 80 (16 * (s.core.pipe.gpos + 1))) ∧
    t.core.pipe.nextIssue = s.core.pipe.cyc + 1 + (if s.core.pipe.target.isSome then max (idleCycles y.h.stall) 3 else idleCycles y.h.stall) ∧
    t.core.pipe.target = none ∧ t.core.pipe.gpos = 0 ∧ t.core.pipe.glen = 1) ∧
  (y.h.stop = false → t.core.pipe.pc = s.core.pipe.pc ∧ t.core.pipe.nextIssue = s.core.pipe.nextIssue ∧ t.core.pipe.target = s.core.pipe.target ∧
    t.core.pipe.gpos = s.core.pipe.gpos + 1 ∧ t.core.pipe.glen = s.core.pipe.glen)

/-- R172, R173: a syllable whose only effect is one result in flight leaves every register, every byte of memory and of the scratchpad and every other core as they were when exec answers: the result lands later. -/
def Obligations.LandingSyllableFrame : Prop := ∀ (i : Instr) (y : Syl) (s : State) (n : Nat) (e : Eff), syl? i = some y → s.core.pipe.after = [] → Lands i s n e →
  ∃ t, exec i s = .next t ∧ SameOutside s t ∧ (∀ a, peek t.mem a = peek s.mem a) ∧ (∀ a, t.core.sp.data.get a = s.core.sp.data.get a) ∧
    (∀ r, t.core.sreg r = s.core.sreg r) ∧ t.core.regs.v = s.core.regs.v ∧ t.core.regs.k = s.core.regs.k ∧ t.core.regs.q = s.core.regs.q ∧
    t.core.regs.m = s.core.regs.m ∧ t.core.regs.l = s.core.regs.l ∧ t.core.regs.tagr = s.core.regs.tagr ∧ t.core.taps = s.core.taps ∧
    t.core.sys.tl = s.core.sys.tl ∧ t.core.sys.tvec = s.core.sys.tvec ∧ t.core.sys.tcause1 = s.core.sys.tcause1 ∧ t.core.sys.tret1 = s.core.sys.tret1 ∧
    inFlight s n e ∈ t.core.pipe.flights

/-! ### Control -/

/-- The target a branch with an immediate or a register has (R168, R218): an address has 80 bits, a register the low 64 (log 1). -/
def Sys2Proof.immTarget (s : State) (o : LReg) : Va := s.core.pipe.pc + 16 * o.imm.signExtend 80
def Sys2Proof.regTarget (s : State) (o : LReg) : Va := (s.core.sreg o.a.toNat &&& 0xFFFFFFFFFFFFFFF0).setWidth 80

/-- The state whose group at issue transfers control to `a` once it has committed. -/
def Sys2Proof.transferring (s : State) (a : Va) : State := { s with core := { s.core with pipe := { s.core.pipe with target := some a } } }

/-- R218: BR, BRC, CALL and RET complete: BR and CALL with BSEL 0b10, and a BRC whose condition holds, transfer to the group address plus 16 times the immediate, BR and CALL with a register and RET to the aligned sA; CALL also writes the address after its group; a BRC whose condition does not hold only commits. That a register holds the low 64 bits of an address is the model's choice (log 1). -/
def Obligations.BranchesComplete : Prop := ∀ (h : Hdr) (o : LReg) (s : State),
  (Admitted (.br h o) s → Completes (.br h o) s (transferring s (if o.bsel = 2 then immTarget s o else regTarget s o)) (some 1)) ∧
  ((Instr.brc h o).wf = true → Admitted (.brc h o) s →
    (condition o.sub (opA s h o) (asOperand h (s.core.sreg o.b.toNat)) = true → Completes (.brc h o) s (transferring s (immTarget s o)) (some 1)) ∧
    (condition o.sub (opA s h o) (asOperand h (s.core.sreg o.b.toNat)) = false → Completes (.brc h o) s s (some 1))) ∧
  (Admitted (.call h o) s → Completes (.call h o) s
    (transferring (s.fly 1 (.sreg o.d.toNat ((s.core.pipe.pc + 16 * BitVec.ofNat 80 s.core.pipe.glen).setWidth 64))) (if o.bsel = 2 then immTarget s o else regTarget s o)) (some 1)) ∧
  (Admitted (.ret h o) s → Completes (.ret h o) s (transferring s (regTarget s o)) (some 1))

/-- The state whose group at issue does `a` once all of it has committed. -/
def Sys2Proof.afterwards (s : State) (a : After) : State := { s with core := { s.core with pipe := { s.core.pipe with after := s.core.pipe.after ++ [a] } } }

/-- R219, R160: a LOOP that names a nest record completes and starts, after its group, a nest of IMM[5:0] + 1 body groups with the record's bounds; one that names another record traps with cause 0x20 and the index. Once committed, the nest begins at the next group with indices zero. -/
def Sys2Proof.LoopCompletes : Prop := ∀ (h : Hdr) (o : LReg) (s : State), Admitted (.loop h o) s →
  let r := (o.imm.extractLsb' 6 8).toNat
  (recKind (s.core.entry r) = 3 → Completes (.loop h o) s
    (afterwards s (.nest ((o.imm.extractLsb' 0 6).toNat + 1) ((List.range 6).map fun d => nestBound (s.core.entry r) d))) (some 1) ∧
    (h.stop = true → s.core.pipe.after = [] → s.core.pipe.loop = none → s.core.pipe.target = none → ∃ t n, exec (.loop h o) s = .next t ∧ t.core.pipe.loop = some n ∧
      n.start = t.core.pipe.pc ∧ n.groups = (o.imm.extractLsb' 0 6).toNat + 1 ∧ n.pos = 0 ∧ n.susp = none ∧ ∀ d, t.core.regs.idx.get d = 0)) ∧
  (recKind (s.core.entry r) ≠ 3 → TrapsHere (.loop h o) s 0 0x20 (BitVec.ofNat 64 r))

/-- R159 to R161: a group that commits inside an active nest is one group of its body: one that is not the last goes on to the next group with indices and rotation as they are; the last one ends the iteration: VOFS and QOFS advance by their steps where VROT and QROT are set, and either the lowest index below its bound advances, those below it return to 0 and issue goes back to the first body group, or, where every index has reached its bound, the nest is over, its indices are 0 and issue goes on after the body. -/
def Sys2Proof.NestAdvances : Prop := ∀ (i : Instr) (y : Syl) (s : State) (land : Option Nat) (n : Nest), syl? i = some y → y.h.stop = true → s.core.pipe.after = [] →
  s.core.pipe.target = none → s.core.pipe.loop = some n → n.susp = none → n.bounds.length = 6 →
  let t := (committed i s land).core
  let after := s.core.pipe.pc + BitVec.ofNat 80 (16 * (s.core.pipe.gpos + 1))
  let w := s.core.sys.rotw
  let ix := fun (d : Nat) => s.core.regs.idx.get d
  let ended := fun (d : Nat) => nth n.bounds d 0 ≤ (ix d).toNat
  (n.pos + 1 < n.groups → t.pipe.loop = some { n with pos := n.pos + 1 } ∧ t.pipe.pc = after ∧ t.regs.idx = s.core.regs.idx ∧ t.sys.rotw = w) ∧
  (n.groups ≤ n.pos + 1 →
    (t.sys.rotw.extractLsb' 0 4 = if w.getLsbD 16 then w.extractLsb' 0 4 + (1#4 <<< (w.extractLsb' 20 2).toNat) else w.extractLsb' 0 4) ∧
    (t.sys.rotw.extractLsb' 8 4 = if w.getLsbD 17 then w.extractLsb' 8 4 + (1#4 <<< (w.extractLsb' 18 2).toNat) else w.extractLsb' 8 4) ∧
    t.sys.rotw.extractLsb' 4 4 = 0 ∧ t.sys.rotw.extractLsb' 12 4 = 0 ∧ t.sys.rotw.extractLsb' 16 6 = w.extractLsb' 16 6 ∧ t.sys.rotw.extractLsb' 22 42 = 0 ∧
    (∀ d, d < 6 → (∀ e, e < d → ended e) → ¬ended d → t.pipe.loop = some { n with pos := 0 } ∧ t.pipe.pc = n.start ∧
      t.regs.idx.get d = ix d + 1 ∧ (∀ e, e < d → t.regs.idx.get e = 0) ∧ ∀ e, d < e → e < 6 → t.regs.idx.get e = ix e) ∧
    ((∀ d, d < 6 → ended d) → t.pipe.loop = none ∧ t.pipe.pc = after ∧ ∀ d, t.regs.idx.get d = 0))

/-- R159 to R161, R219: LOOP starts a nest or traps, and how its indices, its rotation and its place advance until it is left. -/
def Obligations.LoopStartsNest : Prop := LoopCompletes ∧ NestAdvances

/-- R220, R221, R310: WAITANY and WAITALL, once their group is admitted, complete with TAGR & sA, every tag of it waited on; FFR completes with the index of the lowest set bit of TAGR & sA or 64, that tag waited on; TAGCLR completes with the error bits of the tags of sB that are set, which become idle. -/
def Sys2Proof.TagSyllablesComplete : Prop := ∀ (h : Hdr) (o : LReg) (e : LEcmd) (s : State),
  let v := s.core.regs.tagr &&& s.core.sreg o.a.toNat
  let m := s.core.sreg e.b.toNat &&& s.core.regs.tagr
  (Admitted (.waitany h o) s → Completes (.waitany h o) s ((afterwards s (.waited v)).fly 1 (.sreg o.d.toNat v)) (some 1)) ∧
  (Admitted (.waitall h o) s → Completes (.waitall h o) s ((afterwards s (.waited v)).fly 1 (.sreg o.d.toNat v)) (some 1)) ∧
  (Admitted (.ffr h o) s → ∃ n, n ≤ 64 ∧ (∀ i, i < n → v.getLsbD i = false) ∧ (n < 64 → v.getLsbD n = true) ∧
    Completes (.ffr h o) s ((afterwards s (.waited (if n = 64 then 0 else 1#64 <<< n))).fly 1 (.sreg o.d.toNat (BitVec.ofNat 64 n))) (some 1)) ∧
  (Admitted (.tagclr h e) s → Completes (.tagclr h e) s ((afterwards s (.tagIdle m)).fly 1 (.sreg e.a.toNat (s.core.regs.tagErr &&& m))) (some 1))

/-- R220: a WAITALL alone in its group with no scoreboard to wait for holds while (TAGR & sA) differs from sA, and a WAITANY while TAGR & sA is zero and sA is not: the state changes in nothing but the note that the group waits. -/
def Sys2Proof.TagWaitsHold : Prop := ∀ (h : Hdr) (o : LReg) (s : State), s.core.pipe.glen = 1 → h.sbwait = 0 →
  ((Instr.waitall h o).wf = true → s.core.regs.tagr &&& s.core.sreg o.a.toNat ≠ s.core.sreg o.a.toNat →
    ∃ k, exec (.waitall h o) s = .next (s.onPipe fun p => { p with mark := .held k })) ∧
  ((Instr.waitany h o).wf = true → s.core.regs.tagr &&& s.core.sreg o.a.toNat = 0 → s.core.sreg o.a.toNat ≠ 0 →
    ∃ k, exec (.waitany h o) s = .next (s.onPipe fun p => { p with mark := .held k }))

/-- R221, R308, R310: how TAGR changes. When a group that produced a tag has committed, the tag's TAGR bit and its error bit are cleared and it is pending; one that TAGCLR names is cleared of both; a wait changes none. A completed command's tag is no longer pending, its TAGR bit is set and its error bit is that of the last command that completed with it; completed tags show before the core's next act that needs a schedule cycle. Everything else of the core stays. -/
def Sys2Proof.TagsChange : Prop :=
  (∀ (i : Instr) (y : Syl) (s : State) (land : Option Nat) (m : Word), syl? i = some y → y.h.stop = true →
    let r := s.core.regs
    let t := (committed i s land).core.regs
    (s.core.pipe.after = [.tagPend m] → t.tagr = r.tagr &&& ~~~m ∧ t.tagErr = r.tagErr &&& ~~~m ∧ t.tagPend = r.tagPend ||| m) ∧
    (s.core.pipe.after = [.tagIdle m] → t.tagr = r.tagr &&& ~~~m ∧ t.tagErr = r.tagErr &&& ~~~m ∧ t.tagPend = r.tagPend) ∧
    ((s.core.pipe.after = [] ∨ s.core.pipe.after = [.waited m]) → t.tagr = r.tagr ∧ t.tagErr = r.tagErr ∧ t.tagPend = r.tagPend)) ∧
  (∀ (c : StreamCore) (i : Nat), i < 64 →
    let u := c.absorbTags
    let shown := c.dev.tagDone.any fun d => d.tag == i
    u.regs.tagr.getLsbD i = (c.regs.tagr.getLsbD i || shown) ∧ u.regs.tagPend.getLsbD i = (c.regs.tagPend.getLsbD i && !shown) ∧
    (shown = false → u.regs.tagErr.getLsbD i = c.regs.tagErr.getLsbD i) ∧
    (∀ pre d post, c.dev.tagDone = pre ++ d :: post → d.tag = i → (∀ e ∈ post, e.tag ≠ i) → u.regs.tagErr.getLsbD i = d.err) ∧
    u.dev.tagDone = [] ∧ u = { c with regs := { c.regs with tagr := u.regs.tagr, tagPend := u.regs.tagPend, tagErr := u.regs.tagErr, fronts := u.regs.fronts }, dev := { c.dev with tagDone := [], unseen := u.dev.unseen } } ∧
    ((∀ d ∈ c.dev.tagDone, d.insert = none) → u.regs.fronts = c.regs.fronts)) ∧
  ∀ s : State, s.core.seat.runs = true → s.core.pipe.mark = .running → s.core.sys.budget ≠ 0 → s.core.pipe.blocked s.wall = none → s.core.dev.tagDone ≠ [] →
    coreAct s = .change (s.onCore StreamCore.absorbTags)

/-- R220, R221, R308, R310: WAITANY, WAITALL, FFR and TAGCLR complete as said, a wait whose condition does not hold is held, and TAGR changes as said. -/
def Obligations.TagSyllables : Prop := Sys2Proof.TagSyllablesComplete ∧ Sys2Proof.TagWaitsHold ∧ Sys2Proof.TagsChange

/-- R110, R111, R126, R223: what EXIT leaves: no live context, no result in flight or held, and of its pending stores those alone that it has made ahead of a boundary, which R110 keeps from being current before their own boundary completes; the member has exited, and its registers keep their values, where another member of the group still lives; memory is as publishing the others at system scope leaves it, where nothing is held at a narrower scope and there is nothing to report. That R110 holds at an EXIT too, beside R126, is the model's reading (log 53). -/
def Sys2Proof.MemberEnds (u : State) : Prop :=
  let t := exitMember u
  let p := publish u u.core.seat.cid 4 false fun p => decide (p.phase ≤ u.core.seat.boundary)
  t.core.seat.live = false ∧ t.core.pipe.flights = [] ∧ t.core.pipe.held1 = [] ∧ t.core.pipe.held2 = [] ∧
  t.core.dev.pend = u.core.dev.pend.filter (fun p => decide (u.core.seat.boundary < p.phase)) ∧ t.core.regs = u.core.regs ∧
  ((∃ d ∈ u.cores, d.seat.live = true ∧ d.seat.fn = u.core.seat.fn ∧ d.seat.task = u.core.seat.task ∧ d.seat.bench = u.core.seat.bench ∧ d.seat.cid ≠ u.core.seat.cid) →
    t.core.seat.status = .exited) ∧
  (p.limited = [] → p.core.dev.fails = [] → p.core.sp.berm = none → t.mem = p.mem)

/-- R222, R223, R228: TICK and PHASE, once admitted, complete: the member arrives at its next boundary when the group has committed; EXIT completes: when its group has committed, the member ends with its pending stores of the phases begun published and its results in flight discarded; IFLUSH completes: the next group issues no earlier than c + 1 + max(STALL, 3). -/
def Obligations.BarriersAndEndsComplete : Prop := ∀ (h : Hdr) (o : LReg) (s : State), h.stop = true → s.core.pipe.after = [] →
  (Admitted (.tick h o) s → ∃ t, exec (.tick h o) s = .next t ∧ t.core.seat.arrivals = s.core.seat.arrivals ++ [.tick] ∧ t.mem = s.mem ∧
    (∀ r, t.core.sreg r = s.core.sreg r) ∧ t.core.sys.now = s.core.sys.now) ∧
  (Admitted (.phase h o) s → ∃ t, exec (.phase h o) s = .next t ∧ t.core.seat.arrivals = s.core.seat.arrivals ++ [.phase] ∧ t.mem = s.mem ∧
    (∀ r, t.core.sreg r = s.core.sreg r) ∧ t.core.sys.now = s.core.sys.now) ∧
  (Admitted (.exit h o) s → exec (.exit h o) s = .next (exitMember (committed (.exit h o) s (some 1))) ∧ MemberEnds (committed (.exit h o) s (some 1))) ∧
  (Admitted (.iflush h o) s → ∃ t, exec (.iflush h o) s = .next t ∧ t.mem = s.mem ∧ (∀ r, t.core.sreg r = s.core.sreg r) ∧
    s.core.pipe.cyc + 1 + max (idleCycles h.stall) 3 ≤ t.core.pipe.nextIssue)

/-- R156 to R158, R224, R225: NEXT and GROW complete: one result in flight for 40 cycles and one request, which reaches the scheduler within them, at the end of the task's requests. The time within the 40 cycles is free (log 46). -/
def Obligations.WorkRequestsComplete : Prop := ∀ (h : Hdr) (o : LReg) (s : State) (t : Task), taskOf s s.core.seat.fn s.core.seat.task = some t →
  let q := (o.d.toNat + ((s.core.sys.rotw.extractLsb' 8 4).toNat)) % 16
  let asks := fun (s1 : State) (e : Eff) (amount : Option Word) => s1.core.pipe.flights = s.core.pipe.flights ++ [inFlight s 40 e] ∧ s1.mem = s.mem ∧ s1.core.regs = s.core.regs ∧
    ∃ r : Request, taskOf s1 s.core.seat.fn s.core.seat.task = some { t with reqs := t.reqs ++ [r] } ∧ r.cid = some s.core.seat.cid ∧ r.seq = s.core.pipe.seq ∧
      r.amount = amount ∧ s.wall ≤ r.due ∧ r.due < s.wall + 40
  (Admitted (.next h o) s → ∃ s1, Completes (.next h o) s s1 (some 40) ∧ asks s1 (.nextWait q) none) ∧
  (Admitted (.grow h o) s → ∃ s1, Completes (.grow h o) s s1 (some 40) ∧ asks s1 (.growWait o.d.toNat o.c.toNat (secondWord s o)) (some (secondWord s o)))

/-- R156 to R158, R224, R225: when the one result due is that of a NEXT or a GROW whose request is the task's only one, NEXT writes the next undelivered identifier with the null flag clear, or zero with it set when all are delivered; GROW raises the top count and writes the new greatest value and 0, or leaves it and writes the old one and 1 when the count would pass the field. That requests are served in the order of their issue, and that identifiers which a refused TICK group gave back come first, are the model's readings (log 46). -/
def Obligations.WorkRequestsServed : Prop := ∀ (s : State) (f : Flight) (t : Task) (r : Request),
  s.core.pipe.due = [f] → s.core.landsNow s.wall f = true → s.core.pipe.back = none → taskOf s s.core.seat.fn s.core.seat.task = some t → t.reqs = [r] → r.cid = some s.core.seat.cid → r.seq = f.seq →
  (∀ g ∈ s.core.pipe.flights ++ s.core.pipe.held1 ++ s.core.pipe.held2, g.seq = f.seq → g = f ∨ ((∀ k, g.eff ≠ .nextWait k) ∧ ∀ a b c, g.eff ≠ .growWait a b c)) →
  (∀ phys, f.eff = .nextWait phys → ∃ u, exec .fixedResultLanding s = .next u ∧
    (t.returned = [] → t.delivered < t.total → u.core.regs.q.get phys = t.identifierOf t.delivered ∧ u.core.regs.qlive.get phys = 1 ∧
      taskOf u s.core.seat.fn s.core.seat.task = some { t with delivered := t.delivered + 1, reqs := [] }) ∧
    (∀ k ks, t.returned = k :: ks → u.core.regs.q.get phys = t.identifierOf k ∧ u.core.regs.qlive.get phys = 1 ∧
      taskOf u s.core.seat.fn s.core.seat.task = some { t with returned := ks, reqs := [] }) ∧
    (t.returned = [] → t.total ≤ t.delivered → u.core.regs.q.get phys = 0 ∧ u.core.regs.qlive.get phys = 0 ∧
      taskOf u s.core.seat.fn s.core.seat.task = some { t with reqs := [] })) ∧
  (∀ d c amount, f.eff = .growWait d c amount → d ≠ 0 → c ≠ 0 → d ≠ c →
    let top := t.fields - 1
    let old := nth t.counts top 1
    ∃ u, exec .fixedResultLanding s = .next u ∧
    (old + amount.toNat ≤ 2 ^ nth t.widths top 0 → u.core.sreg d = BitVec.ofNat 64 (old + amount.toNat - 1) ∧ u.core.sreg c = 0 ∧
      taskOf u s.core.seat.fn s.core.seat.task = some { t with counts := modifyNth t.counts top fun _ => old + amount.toNat, reqs := [] }) ∧
    (2 ^ nth t.widths top 0 < old + amount.toNat → u.core.sreg d = BitVec.ofNat 64 (old - 1) ∧ u.core.sreg c = 1 ∧
      taskOf u s.core.seat.fn s.core.seat.task = some { t with reqs := [] }))

/-! ### Traps -/

/-- What taking a trap at level n does to the core at turn (R372, R374, R161, R177, R382). A register holds the low 64 bits of an address (log 1). -/
def Sys2Proof.EntersTrap (s t : State) (tr : Trap) (n : Nat) : Prop :=
  t.core.sys.tl = n ∧
  (n = 1 → t.core.sys.tcause1 = causeWord tr ∧ t.core.sys.tret1 = s.core.pipe.pc.setWidth 64 ∧ t.core.sys.tval1 = tr.tval ∧ t.core.sys.tglen1 = BitVec.ofNat 64 s.core.pipe.glen ∧
    t.core.pipe.held1 = s.core.pipe.flights.map (fun f => { f with due := f.due - s.core.pipe.cyc }) ∧ t.core.pipe.held2 = s.core.pipe.held2 ∧
    t.core.sys = { s.core.sys with tl := 1, tcause1 := t.core.sys.tcause1, tret1 := t.core.sys.tret1, tval1 := t.core.sys.tval1, tglen1 := t.core.sys.tglen1 }) ∧
  (n = 2 → t.core.sys.tcause2 = causeWord tr ∧ t.core.sys.tret2 = s.core.pipe.pc.setWidth 64 ∧ t.core.sys.tval2 = tr.tval ∧ t.core.sys.tglen2 = BitVec.ofNat 64 s.core.pipe.glen ∧
    t.core.pipe.held2 = s.core.pipe.flights.map (fun f => { f with due := f.due - s.core.pipe.cyc }) ∧ t.core.pipe.held1 = s.core.pipe.held1 ∧
    t.core.sys = { s.core.sys with tl := 2, tcause2 := t.core.sys.tcause2, tret2 := t.core.sys.tret2, tval2 := t.core.sys.tval2, tglen2 := t.core.sys.tglen2 }) ∧
  t.core.pipe.pc = s.core.sys.tvec.setWidth 80 ∧ t.core.pipe.nextIssue = s.core.pipe.cyc + 4 ∧ t.core.pipe.flights = [] ∧ t.core.pipe.cache = [] ∧
  t.core.pipe.overflow = [] ∧ t.core.pipe.timeout = none ∧
  (∀ l, t.core.pipe.loop = some l → l.susp.isSome) ∧
  t.core.regs = s.core.regs ∧ t.core.wbuf = s.core.wbuf ∧ t.core.taps = s.core.taps ∧ t.core.sp = s.core.sp ∧ t.core.pool = s.core.pool ∧ t.core.dev = s.core.dev

/-- R226, R372, R374, R232: an admitted TRAP below level 2 with a handler takes the trap of cause 0x03 with its code: cause word, address, value and length are banked at the next level, the results in flight are held, and the handler issues from TVEC at T + 4; no register, no byte of memory and no other core changes, and no cause passed over stays recorded. That TRET holds the low 64 bits of the address is the model's choice (log 1). -/
def Sys2Proof.TrapInstructionEntersHandler : Prop := ∀ (h : Hdr) (o : LReg) (s : State), Admitted (.trap h o) s → s.core.sys.tl < 2 → s.core.sys.tvec ≠ 0 →
  ∃ t, exec (.trap h o) s = .next t ∧ SameOutside s t ∧
    EntersTrap s t { code := 3, detail := 0, pos := s.core.pipe.gpos, cls := 0, tval := (o.imm.extractLsb' 0 16).setWidth 64 } (s.core.sys.tl + 1)

/-- R372: any trap below level 2 with a handler enters it at the next level; one of any cause but the two uncorrectable reads, 0x23 and 0x1C, which are reported as well (R30, R34), changes nothing outside its core. -/
def Sys2Proof.TrapEntryRule : Prop := ∀ (s : State) (tr : Trap), s.core.sys.tl < 2 → s.core.sys.tvec ≠ 0 →
  EntersTrap s (takeTrap tr s) tr (s.core.sys.tl + 1) ∧ (takeTrap tr s).cores = s.cores ∧ (tr.code ≠ 0x23 → tr.code ≠ 0x1C → SameOutside s (takeTrap tr s))

/-- R226, R232, R372, R374: the TRAP instruction, and any trap, enter the handler as said. -/
def Obligations.TrapEntry : Prop := Sys2Proof.TrapInstructionEntersHandler ∧ Sys2Proof.TrapEntryRule

/-- R372, R377: a trap of any cause taken at TL = 2, or at any level with TVEC zero, kills the context: afterwards the core at turn holds no live context, no results, held or in flight, and no pending store. -/
def Obligations.TrapAtLevelTwoKills : Prop := ∀ (s : State) (tr : Trap), (s.core.sys.tl = 2 ∨ s.core.sys.tvec = 0) →
  let t := takeTrap tr s
  t.core.seat.live = false ∧ t.core.pipe.flights = [] ∧ t.core.pipe.held1 = [] ∧ t.core.pipe.held2 = [] ∧ t.core.dev.pend = []

/-- R227, R374, R376: an admitted RTE at level 1 or 2 outside a nest completes: issue continues at TRET of the level after max(STALL, 3) idle cycles, the level drops by one, every result held there is in flight again at its offset from that issue, and the operand caches are empty. That an address read from TRET has its high bits zero is the model's choice (log 1). -/
def Obligations.ReturnFromTrapCompletes : Prop := ∀ (h : Hdr) (o : LReg) (s : State), Admitted (.rte h o) s → h.stop = true → s.core.pipe.after = [] → s.core.pipe.loop = none →
  (s.core.sys.tl = 1 → ∃ t, exec (.rte h o) s = .next t ∧ SameOutside s t ∧ t.core.sys.tl = 0 ∧ t.core.pipe.pc = s.core.sys.tret1.setWidth 80 ∧
    t.core.pipe.nextIssue = s.core.pipe.cyc + 1 + max (idleCycles h.stall) 3 ∧ t.core.pipe.held1 = [] ∧ t.core.pipe.held2 = s.core.pipe.held2 ∧ t.core.pipe.cache = [] ∧
    (∀ f ∈ s.core.pipe.held1, { f with due := f.due + t.core.pipe.nextIssue } ∈ t.core.pipe.flights) ∧ (∀ r, t.core.sreg r = s.core.sreg r)) ∧
  (s.core.sys.tl = 2 → ∃ t, exec (.rte h o) s = .next t ∧ SameOutside s t ∧ t.core.sys.tl = 1 ∧ t.core.pipe.pc = s.core.sys.tret2.setWidth 80 ∧
    t.core.pipe.nextIssue = s.core.pipe.cyc + 1 + max (idleCycles h.stall) 3 ∧ t.core.pipe.held2 = [] ∧ t.core.pipe.held1 = s.core.pipe.held1 ∧ t.core.pipe.cache = [] ∧
    (∀ f ∈ s.core.pipe.held2, { f with due := f.due + t.core.pipe.nextIssue } ∈ t.core.pipe.flights) ∧ (∀ r, t.core.sreg r = s.core.sreg r))

/-- The group of the single syllable `i` takes the illegal-instruction trap with the opcode as its detail. -/
def Sys2Proof.IllegalInstruction (i : Instr) (s : State) (cls opc : Nat) : Prop :=
  exec i s = .next (takeTrap { code := 2, detail := opc, pos := 0, cls := cls, tval := 0 } s)

/-- R227, R378, R10, R219, R292: alone in its group, with its holds over and no overflow report due, RTE at TL = 0 and TICK, PHASE, LOOP, MMA, MMAC, LDW and MMODE at TL ≥ 1 take the illegal-instruction trap with their opcode. -/
def Obligations.ForbiddenLevelsTrap : Prop := ∀ (h : Hdr) (o : LReg) (a : LArr) (s : State), s.core.pipe.glen = 1 → s.core.pipe.overflow = [] →
  let free := fun (i : Instr) => i.wf = true ∧ groupHold s [i] = none
  (free (.rte h o) → s.core.sys.tl = 0 → IllegalInstruction (.rte h o) s 0 0x4E) ∧
  (s.core.sys.tl ≠ 0 →
    (free (.tick h o) → IllegalInstruction (.tick h o) s 0 0x48) ∧ (free (.phase h o) → IllegalInstruction (.phase h o) s 0 0x49) ∧
    (free (.loop h o) → IllegalInstruction (.loop h o) s 0 0x44) ∧
    (free (.mma h a) → IllegalInstruction (.mma h a) s 8 0x00) ∧ (free (.mmac h a) → IllegalInstruction (.mmac h a) s 8 0x01) ∧
    (free (.ldw h a) → IllegalInstruction (.ldw h a) s 8 0x02) ∧ (free (.mmodeAlt h a) → IllegalInstruction (.mmodeAlt h a) s 8 0x06) ∧
    (free (.mmodeExcl h a) → IllegalInstruction (.mmodeExcl h a) s 8 0x06))

/-- R90, R91, R229: SETFMT completes: its value waits for three groups, its own first; each group that commits counts once against every value that waits, and a value whose count runs out is FMTR from then on. That its own group counts first is the model's reading (log 43), and that its scoreboard, if it has one, goes down one cycle after issue is the model's choice (log 36). -/
def Obligations.SetFormatCompletes : Prop := ∀ (h : Hdr) (o : LScl) (s : State),
  (Admitted (.setfmt h o) s → Completes (.setfmt h o) s (s.onPipe fun p => { p with fmtrPend := p.fmtrPend ++ [{ left := 3, val := s.core.sreg o.a.toNat }] }) (some 1)) ∧
  ∀ (i : Instr) (y : Syl) (land : Option Nat) (k : Nat) (v : Word), syl? i = some y → y.h.stop = true → s.core.pipe.after = [] → s.core.pipe.loop = none →
    s.core.pipe.fmtrPend = [{ left := k + 1, val := v }] →
    (committed i s land).core.sys.fmtr = (if k = 0 then v else s.core.sys.fmtr) ∧
    (committed i s land).core.pipe.fmtrPend = if k = 0 then [] else [{ left := k, val := v }]

/-! ### Vectors -/

/-- The slot width of the syllable's format. -/
def Sys2Proof.slotW (s : State) (h : Hdr) : Nat := (hFmt h).slotBits s.core.q

/-- Element codes, and exact element values, of a lane word under the syllable's format (R258, R92). -/
def Sys2Proof.codes (s : State) (h : Hdr) (x : Lane) : List Nat := elemsOf (slotW s h) x
def Sys2Proof.values (s : State) (h : Hdr) (x : Lane) : List Val := (codes s h x).map (decodeElem (hFmt h) s.core.q)

/-- The B operand of lane L by BSEL: vB, the low half of sB, or the immediate (R257). -/
def Sys2Proof.secondLane (s : State) (o : LReg) (L : Nat) : Lane :=
  if o.bsel = 0 then s.core.vlane o.b.toNat L else if o.bsel = 1 then (s.core.sreg o.b.toNat).setWidth 32 else o.imm.setWidth 32

/-- Lanes of masked clusters whose mask bit is set (R179, R257). -/
def Sys2Proof.activeLane (s : State) (h : Hdr) (o : LReg) (L : Nat) : Bool := decide (L < 128) && h.cmask.getLsbD (L / 16) && (s.core.kreg o.km.toNat).getLsbD L
def Sys2Proof.activeLanes (s : State) (h : Hdr) (o : LReg) : List Nat := (List.range 128).filter (activeLane s h o)

/-- The place of lane L of vector register n, with rotation at issue (R159). -/
def Sys2Proof.lanePlace (s : State) (n L : Nat) : Nat := vkey (L / 16) (physV s.core.sys.rotw n) (L % 16)

/-- A vector result: in every active lane the word f gives, nothing elsewhere. -/
def Sys2Proof.vectorOf (s : State) (h : Hdr) (o : LReg) (f : Nat → Lane) : Eff := .vecs ((activeLanes s h o).map fun L => (lanePlace s o.d.toNat L, f L))

/-- The state with the lane generators replaced. -/
def Sys2Proof.withGens (s : State) (g : Store 32) : State := { s with core := { s.core with regs := { s.core.regs with gen := g } } }

/-- The next state of a lane's generator, and the draw that state gives (R95). -/
def Sys2Proof.stepGen (st : BitVec 32) : BitVec 32 :=
  let a := st ^^^ (st <<< 13)
  let b := a ^^^ (a >>> 17)
  b ^^^ (b <<< 5)
def Sys2Proof.drawn (st : BitVec 32) : Nat := (st.extractLsb' 24 8).toNat

/-- The elements of one lane, exact values fitted in increasing index, from the state of the lane's generator; and its state after them. Under MODE 0b11 each element that R94 has draw steps the generator and uses the draw of its new state; no other element draws (R94, R95). -/
def Sys2Proof.rounded (f : Fmt) (q : QFmt) (mode : Nat) (fromInt : Bool) : BitVec 32 → List Val → List Nat × BitVec 32
  | st, [] => ([], st)
  | st, v :: vs =>
    let st' := if mode = 3 ∧ needsDraw f fromInt v = true then Sys2Proof.stepGen st else st
    let rest := Sys2Proof.rounded f q mode fromInt st' vs
    (fitVal f q mode (if mode = 3 ∧ needsDraw f fromInt v = true then Sys2Proof.drawn st' else 0) fromInt v :: rest.1, rest.2)

/-- The generators are `g` once the lanes of `act` have fitted their values: each such lane's moved by its own draws, every other as it was (R95). -/
def Sys2Proof.GensAfter (s : State) (g : Store 32) (act : Nat → Bool) (moved : Nat → BitVec 32 → BitVec 32) (mode : Nat) : Prop :=
  (∀ L, g.get L = if act L then moved L (s.core.regs.gen.get L) else s.core.regs.gen.get L) ∧ (mode ≠ 3 → g = s.core.regs.gen)

/-- `exec` answers the next state in which syllable `i` has committed with one vector result at +n: in every active lane the exact values of `vals` fitted once each under the format and MODE (R259), with the lane's draws, which move its generator, under MODE 0b11 (R94, R95). -/
def Sys2Proof.LandsFitted (i : Instr) (h : Hdr) (o : LReg) (s : State) (n : Nat) (vals : Nat → List Val) : Prop :=
  let fitted := fun (L : Nat) (st : BitVec 32) => rounded (hFmt h) s.core.q (hMode h) (hFmt h).isIntLike st (vals L)
  ∃ g : Store 32, GensAfter s g (activeLane s h o) (fun L st => (fitted L st).2) (hMode h) ∧
    Completes i s ((withGens s g).fly n (vectorOf s h o fun L => packElems (slotW s h) (fitted L (s.core.regs.gen.get L)).1)) (some n)

/-- An operation on the values of vA and B, of vA, B and vC, and of vA. -/
def Sys2Proof.pairwise (s : State) (h : Hdr) (o : LReg) (f : Val → Val → Val) (L : Nat) : List Val :=
  List.zipWith f (values s h (s.core.vlane o.a.toNat L)) (values s h (secondLane s o L))
def Sys2Proof.fused (s : State) (h : Hdr) (o : LReg) (f : Val → Val → Val) (L : Nat) : List Val :=
  List.zipWith f (pairwise s h o Val.mul L) (values s h (s.core.vlane o.c.toNat L))

/-- R94: a magnitude n / d × 2^e rounded with a draw r of 8 bits, on the grid of spacing 2^q that rounding toward zero uses: a multiple of the spacing stays as it is; any other goes from the multiple below it to the one above it exactly if 256 times the fraction between them, rounded down, and r come to 256 or more. A value of an integer format from an integer, and one on its format's grid, draws nothing. -/
def Sys2Proof.StochasticRule : Prop :=
  (∀ (p : Nat) (emin : Int) (n d : Nat) (e : Int) (r : Nat), 0 < n → 0 < d → r < 256 →
    let low := roundMag p emin .zero n d e
    let x := n * 2 ^ (e - low.2.1).toNat
    let u := d * 2 ^ (low.2.1 - e).toNat
    low.1 * u ≤ x ∧ x < (low.1 + 1) * u ∧ (low.2.2 = true ↔ x = low.1 * u) ∧
    roundMag p emin (.draw r) n d e = (if x = low.1 * u then low.1 else if (256 * low.1 + 256 - r) * u ≤ 256 * x then low.1 + 1 else low.1, low.2)) ∧
  (∀ (f : Fmt) (sp : FSpec) (fromInt neg : Bool) (n d : Nat) (e : Int), fspec f = some sp → needsDraw f fromInt (.num neg n d e) = !(roundMag sp.p sp.emin .zero n d e).2.2) ∧
  ∀ (f : Fmt) (v : Val), f.isIntLike = true → needsDraw f true v = false

/-- R257 to R261, R270: ADD, SUB, MUL, ABSD, FMA, FMS, and IOTA complete with every element's exact result fitted once, in the active lanes, at the cycle of R185. -/
def Sys2Proof.VectorArithmeticRuns : Prop := ∀ (h : Hdr) (o : LReg) (s : State),
  (Admitted (.vAdd h o) s → LandsFitted (.vAdd h o) h o s 2 (pairwise s h o Val.add)) ∧
  (Admitted (.vSub h o) s → LandsFitted (.vSub h o) h o s 2 (pairwise s h o Val.sub)) ∧
  (Admitted (.vMul h o) s → LandsFitted (.vMul h o) h o s 4 (pairwise s h o Val.mul)) ∧
  (Admitted (.absd h o) s → LandsFitted (.absd h o) h o s 2 (pairwise s h o fun a b => (a.sub b).abs)) ∧
  (Admitted (.fma h o) s → LandsFitted (.fma h o) h o s 4 (fused s h o Val.add)) ∧
  (Admitted (.fms h o) s → LandsFitted (.fms h o) h o s 4 (fused s h o Val.sub)) ∧
  (Admitted (.iota h o) s → LandsFitted (.iota h o) h o s 2 fun L =>
    (List.range ((hFmt h).perLane s.core.q)).map fun e =>
      Val.ofInt (readInt (hFmt h) s.core.q (s.core.bcommon o).toNat + (((hFmt h).perLane s.core.q * L + e : Nat) : Int)))

/-- R94, R95, R257 to R261, R270: the vector arithmetic completes as said, with the draws of each lane in order, and what a draw does to a value. -/
def Obligations.VectorArithmeticCompletes : Prop := VectorArithmeticRuns ∧ StochasticRule

/-- `exec` answers the next state in which `i` has committed with one vector result at +n, computed element code by element code. -/
def Sys2Proof.LandsCodes (i : Instr) (h : Hdr) (o : LReg) (s : State) (n : Nat) (f : Nat → List Nat) : Prop :=
  Lands i s n (vectorOf s h o fun L => packElems (slotW s h) (f L))

/-- Is value a below b by R261, −0 below +0? -/
def Sys2Proof.below (a b : Val) : Prop := a.ltb b = true ∨ (a.isZero = true ∧ b.isZero = true ∧ a.neg? = true ∧ b.neg? = false)

/-- R261, R90: MIN and MAX of two element codes: the canonical NaN where either is NaN; else one of the two, unchanged, that the other is not below, or not above; on Q the least or greatest integer, fitted, since the reserved code is never produced. Integers compare as the format says, signed or natural. -/
def Sys2Proof.MinMaxRule : Prop :=
  (∀ (f : Fmt) (q : QFmt) (a b : Nat), let x := decodeElem f q a; let y := decodeElem f q b
    (x.isNan = true ∨ y.isNan = true → ∀ m, minMaxCode f q m a b = nanCode f) ∧
    (x.isNan = false → y.isNan = false → f ≠ .q →
      (let m := minMaxCode f q false a b; (m = a ∨ m = b) ∧ ¬below x (decodeElem f q m) ∧ ¬below y (decodeElem f q m)) ∧
      (let m := minMaxCode f q true a b; (m = a ∨ m = b) ∧ ¬below (decodeElem f q m) x ∧ ¬below (decodeElem f q m) y)) ∧
    (f = .q → minMaxCode f q false a b = fitInt .q q false (min (readQ q a) (readQ q b)) ∧ minMaxCode f q true a b = fitInt .q q false (max (readQ q a) (readQ q b)))) ∧
  (∀ (w : Nat) (sg : Bool) (q : QFmt) (a : Nat), decodeElem (.int w sg) q a = Val.ofInt (asInt w sg a)) ∧ ∀ a b : Int, (Val.ofInt a).ltb (Val.ofInt b) = decide (a < b)

/-- R260 to R264: ABS and NEG complete with the fitted magnitude and negation of integers, and with the sign bit cleared or inverted of floats, the canonical NaN for a NaN; MULH, MIN, MAX, SHL, SHR, SRA, CLZ and POPC complete with an unrounded result for each element code. -/
def Sys2Proof.ElementOperationsRun : Prop := ∀ (h : Hdr) (o : LReg) (s : State),
  let a := fun L => codes s h (s.core.vlane o.a.toNat L)
  let b := fun L => codes s h (secondLane s o L)
  let w := slotW s h
  let sign := fun (f : Nat → Nat) (c : Nat) => if (decodeElem (hFmt h) s.core.q c).isNan then nanCode (hFmt h) else f c
  (Admitted (.abs h o) s →
    ((hFmt h).isIntLike = true → LandsFitted (.abs h o) h o s 2 fun L => (values s h (s.core.vlane o.a.toNat L)).map Val.abs) ∧
    ((hFmt h).isIntLike = false → LandsCodes (.abs h o) h o s 2 fun L => (a L).map (sign fun c => c % 2 ^ (w - 1)))) ∧
  (Admitted (.neg h o) s →
    ((hFmt h).isIntLike = true → LandsFitted (.neg h o) h o s 2 fun L => (values s h (s.core.vlane o.a.toNat L)).map Val.negate) ∧
    ((hFmt h).isIntLike = false → LandsCodes (.neg h o) h o s 2 fun L => (a L).map (sign fun c => if c < 2 ^ (w - 1) then c + 2 ^ (w - 1) else c - 2 ^ (w - 1)))) ∧
  (Admitted (.vMulh h o) s → LandsCodes (.vMulh h o) h o s 4 fun L =>
    List.zipWith (fun x y => lowBits w ((readInt (hFmt h) s.core.q x * readInt (hFmt h) s.core.q y).fdiv (2 ^ w : Nat))) (a L) (b L)) ∧
  (Admitted (.vMin h o) s → LandsCodes (.vMin h o) h o s 2 fun L => List.zipWith (minMaxCode (hFmt h) s.core.q false) (a L) (b L)) ∧
  (Admitted (.vMax h o) s → LandsCodes (.vMax h o) h o s 2 fun L => List.zipWith (minMaxCode (hFmt h) s.core.q true) (a L) (b L)) ∧
  (Admitted (.vShl h o) s → LandsCodes (.vShl h o) h o s 2 fun L => List.zipWith (fun x n => if w ≤ n % 256 then 0 else x * 2 ^ (n % 256) % 2 ^ w) (a L) (b L)) ∧
  (Admitted (.vShr h o) s → LandsCodes (.vShr h o) h o s 2 fun L => List.zipWith (fun x n => if w ≤ n % 256 then 0 else x / 2 ^ (n % 256)) (a L) (b L)) ∧
  (Admitted (.vSra h o) s → LandsCodes (.vSra h o) h o s 2 fun L => List.zipWith (fun x n => lowBits w ((asInt w true x).fdiv (2 ^ min (n % 256) w : Nat))) (a L) (b L)) ∧
  (Admitted (.vClz h o) s → LandsCodes (.vClz h o) h o s 2 fun L => (a L).map (leadingZeros w)) ∧
  (Admitted (.vPopc h o) s → LandsCodes (.vPopc h o) h o s 2 fun L => (a L).map (popCount w))

/-- R260 to R264: the unrounded vector element operations complete, and which element MIN and MAX choose. -/
def Obligations.VectorElementOperationsComplete : Prop := ElementOperationsRun ∧ MinMaxRule

/-- R262, R266, R267, R269: AND, OR, XOR, ANDN, SEL, MOV and PERM complete with a lane word chosen or combined bit by bit in each active lane. -/
def Obligations.VectorWordOperationsComplete : Prop := ∀ (h : Hdr) (o : LReg) (s : State),
  let a := s.core.vlane o.a.toNat
  let b := secondLane s o
  (Admitted (.vAnd h o) s → Lands (.vAnd h o) s 2 (vectorOf s h o fun L => a L &&& b L)) ∧
  (Admitted (.vOr h o) s → Lands (.vOr h o) s 2 (vectorOf s h o fun L => a L ||| b L)) ∧
  (Admitted (.vXor h o) s → Lands (.vXor h o) s 2 (vectorOf s h o fun L => a L ^^^ b L)) ∧
  (Admitted (.vAndn h o) s → Lands (.vAndn h o) s 2 (vectorOf s h o fun L => a L &&& ~~~b L)) ∧
  (Admitted (.vSel h o) s → Lands (.vSel h o) s 2 (vectorOf s h o fun L => if (s.core.kreg o.c.toNat).getLsbD L then a L else b L)) ∧
  (Admitted (.mov h o) s → Lands (.mov h o) s 2 (vectorOf s h o fun L => if o.bsel = 0 then a L else secondLane s o L)) ∧
  (Admitted (.perm h o) s → Lands (.perm h o) s 2 (vectorOf s h o fun L =>
    let n := (s.core.bcommon o).toNat
    let j := L % 16
    if o.sub = 0 then a (16 * (L / 16) + (b L).toNat % 16)
    else if o.sub = 1 then a (16 * (L / 16) + (j + n) % 16)
    else if o.sub = 2 then (if j + n < 16 then a (16 * (L / 16) + (j + n)) else 0)
    else if n ≤ j then a (16 * (L / 16) + (j - n)) else 0))

/-- R265: the conditions of CMP by SUB[2:0] on two element values: with a NaN only .ne and .un hold; without, .un does not, and the others are what the order says, zeros being equal. -/
def Sys2Proof.ConditionRule : Prop := ∀ (a b : Val),
  (a.isNan = true ∨ b.isNan = true → (List.range 7).map (fun c => condVal c a b) = [false, true, false, false, false, false, true]) ∧
  (a.isNan = false → b.isNan = false → let eq := !a.ltb b && !b.ltb a
    (List.range 7).map (fun c => condVal c a b) = [eq, !eq, a.ltb b, !a.ltb b, !b.ltb a, b.ltb a, false]) ∧
  (a.isZero = true → b.isZero = true → condVal 0 a b = true)

/-- R265, R271: CMP and the mask syllables complete with one mask result: exactly the bits of the active lanes (CMP) or of the masked clusters' lanes (KAND, KOR, KXOR, KNOT, KTAIL) are written, with the condition or the operation; KPOPC counts the set bits of the masked clusters. -/
def Sys2Proof.MasksComplete : Prop := ∀ (h : Hdr) (o : LReg) (s : State),
  let masked := fun L : Nat => decide (L < 128) && h.cmask.getLsbD (L / 16)
  let ka := fun L => (s.core.kreg o.a.toNat).getLsbD L
  let kb := fun L => (s.core.kreg o.b.toNat).getLsbD L
  let writes := fun (i : Instr) (act : Nat → Bool) (p : Nat → Bool) => ∃ m v : BitVec 128, Lands i s 2 (.kbits o.d.toNat m v) ∧
    ∀ L, L < 128 → m.getLsbD L = act L ∧ (act L = true → v.getLsbD L = p L)
  (Admitted (.vCmp h o) s → writes (.vCmp h o) (activeLane s h o) fun L =>
    let cs := List.zipWith (condVal (o.sub.toNat % 8)) (values s h (s.core.vlane o.a.toNat L)) (values s h (secondLane s o L))
    if o.sub.getLsbD 3 then cs.any id else cs.all id) ∧
  (Admitted (.kand h o) s → writes (.kand h o) masked fun L => ka L && kb L) ∧
  (Admitted (.kor h o) s → writes (.kor h o) masked fun L => ka L || kb L) ∧
  (Admitted (.kxor h o) s → writes (.kxor h o) masked fun L => ka L != kb L) ∧
  (Admitted (.knot h o) s → writes (.knot h o) masked fun L => !(ka L)) ∧
  (Admitted (.ktail h o) s → writes (.ktail h o) masked fun L => decide ((if o.sub = 0 then L else L % 16) < s.core.bnat o)) ∧
  (Admitted (.kpopc h o) s → Lands (.kpopc h o) s 2 (.sreg o.d.toNat (BitVec.ofNat 64 (((List.range 128).filter fun L => masked L && ka L).length))))

/-- R265, R271: the vector compare and mask syllables complete, and when each condition holds. -/
def Obligations.VectorMasksComplete : Prop := MasksComplete ∧ ConditionRule

/-- The element index x of R268, and element x of cluster cl of a register. -/
def Sys2Proof.elementIndex (s : State) (h : Hdr) (o : LReg) : Nat :=
  if o.bsel = 2 then (o.imm.extractLsb' 0 6).toNat else (s.core.sreg o.b.toNat).toNat % (16 * (32 / slotW s h))
def Sys2Proof.elementOf (s : State) (h : Hdr) (r cl x : Nat) : Nat :=
  nth (codes s h (s.core.vlane r (16 * cl + x / (32 / slotW s h)))) (x % (32 / slotW s h)) 0

/-- R268: BCAST gives every element of every active lane element x of its cluster's vA; EXTR extends element x of its cluster into sD at +3; INS writes the low w bits of sA into element x of vD in each masked cluster and nothing else of it. -/
def Obligations.ElementMovesComplete : Prop := ∀ (h : Hdr) (o : LReg) (s : State),
  let w := slotW s h
  let x := elementIndex s h o
  (Admitted (.bcast h o) s → Lands (.bcast h o) s 2 (vectorOf s h o fun L => packElems w (List.replicate (32 / w) (elementOf s h o.a.toNat (L / 16) x)))) ∧
  (Admitted (.extr h o) s → Lands (.extr h o) s 3 (.sreg o.d.toNat (ext64 w (match hFmt h with
      | .int _ sg => sg
      | _ => false) (elementOf s h o.a.toNat (lowestBit 8 h.cmask.toNat) x)))) ∧
  ((Instr.ins h o).wf = true → Admitted (.ins h o) s → Lands (.ins h o) s 2 (.vecBits ((setBits 8 h.cmask.toNat).map fun cl =>
    (lanePlace s o.d.toNat (16 * cl + x / (32 / w)), BitVec.ofNat 32 ((2 ^ w - 1) * 2 ^ (w * (x % (32 / w)))),
      BitVec.ofNat 32 ((s.core.sreg o.a.toNat).toNat % 2 ^ w * 2 ^ (w * (x % (32 / w))))))))

/-! ### Special functions, reductions, fronts -/

/-- R272: every F syllable completes at +8 with a fixed function of each element code and the MODE, in the active lanes. -/
def Sys2Proof.SpecialFunctionsRun : Prop := ∀ (h : Hdr) (o : LReg) (s : State),
  let res := fun (f : Special) => vectorOf s h o fun L => packElems (slotW s h) ((codes s h (s.core.vlane o.a.toNat L)).map (f.elem (hFmt h) (hMode h)))
  (Admitted (.exp2 h o) s → Lands (.exp2 h o) s 8 (res .exp2)) ∧ (Admitted (.log2 h o) s → Lands (.log2 h o) s 8 (res .log2)) ∧
  (Admitted (.rcp h o) s → Lands (.rcp h o) s 8 (res .rcp)) ∧ (Admitted (.rsqrt h o) s → Lands (.rsqrt h o) s 8 (res .rsqrt)) ∧
  (Admitted (.sqrt h o) s → Lands (.sqrt h o) s 8 (res .sqrt)) ∧ (Admitted (.tanh h o) s → Lands (.tanh h o) s 8 (res .tanh)) ∧
  (Admitted (.sigm h o) s → Lands (.sigm h o) s 8 (res .sigm)) ∧ (Admitted (.erf h o) s → Lands (.erf h o) s 8 (res .erf)) ∧
  (Admitted (.sin h o) s → Lands (.sin h o) s 8 (res .sin)) ∧ (Admitted (.cos h o) s → Lands (.cos h o) s 8 (res .cos))

/-- The float formats with their codes of +0, −0, +∞, −∞, the canonical NaN, 1, −1 and 0.5 (R84). -/
def Sys2Proof.floatCodes : List (Fmt × List Nat) :=
  [(.f32, [0x00000000, 0x80000000, 0x7F800000, 0xFF800000, 0x7FC00000, 0x3F800000, 0xBF800000, 0x3F000000]),
   (.f16, [0x0000, 0x8000, 0x7C00, 0xFC00, 0x7E00, 0x3C00, 0xBC00, 0x3800]), (.bf16, [0x0000, 0x8000, 0x7F80, 0xFF80, 0x7FC0, 0x3F80, 0xBF80, 0x3F00])]

/-- R273, in every format and MODE: the results at ±0 and ±∞, at every NaN, and for negative finite inputs: NaN of LOG2, RSQRT and SQRT, the sign of EXP2, RCP, TANH and ERF, at most 0.5 of SIGM; +0 for LOG2 of 1; and SIN and COS at the multiples of 0.5. That a result for a negative input may have rounded to a zero of its sign, or to 0.5, is the model's reading (log 10). -/
def Sys2Proof.SpecialInputs : Prop := ∀ F ∈ floatCodes, ∀ mode, mode ≤ 1 →
  let code := fun (i : Nat) => nth F.2 i 0
  let elem := fun (f : Special) (c : Nat) => f.elem F.1 mode c
  let gives := fun (f : Special) (is : List Nat) => [0, 1, 2, 3].map (fun i => elem f (code i)) = is.map code
  (gives .exp2 [5, 5, 2, 0] ∧ gives .log2 [3, 3, 2, 4] ∧ gives .rcp [2, 3, 0, 1] ∧ gives .rsqrt [2, 3, 0, 4] ∧ gives .sqrt [0, 1, 2, 4] ∧
    gives .tanh [0, 1, 5, 6] ∧ gives .erf [0, 1, 5, 6] ∧ gives .sigm [7, 7, 5, 0] ∧ gives .sin [0, 1, 4, 4] ∧ gives .cos [5, 5, 4, 4] ∧ elem .log2 (code 5) = code 0) ∧
  (∀ c f, (code 2 < c ∧ c < code 1) ∨ (code 3 < c ∧ c < 2 * code 1) → elem f c = code 4) ∧
  (∀ c, code 1 < c → c < code 3 →
    (∀ f ∈ [Special.log2, .rsqrt, .sqrt], elem f c = code 4) ∧ elem .exp2 c ≤ code 2 ∧ (∀ f ∈ [Special.rcp, .tanh, .erf], code 1 ≤ elem f c ∧ elem f c ≤ code 3) ∧
    elem .sigm c ≤ code 7) ∧
  ∀ c neg n d e k, decodeElem F.1 q8 c = .num neg n d e → 2 * n * 2 ^ e.toNat = k * d * 2 ^ (-e).toNat →
    (k % 2 = 0 → elem .sin c = code (if neg then 1 else 0) ∧ elem .cos c = code (if k / 2 % 2 = 0 then 5 else 6)) ∧ (k % 2 = 1 → elem .cos c = code 0)

/-- The bound of R274 on the error of an f32 result for an argument x whose exact result is v. -/
def Sys2Proof.f32Bound (f : Special) (x v : Val) : Val :=
  let ulp : Int := match v with
    | .num _ n d e => max (ilog2 n d + e - 23) (-149)
    | _ => 0
  match f with
  | .sqrt => .num false 1 1 (ulp - 1)
  | .rcp | .rsqrt => .num false 1 1 ulp
  | .sin | .cos => .num false 1 1 (-22)
  | .log2 => if x.ltb (.num false 1 1 (-1)) ∨ (Val.num false 2 1 0).ltb x then .num false 2 1 ulp else .num false 1 1 (-22)
  | _ => .num false 2 1 ulp

/-- R274, R96: where R273 names no result, f16 and bf16 results are the exact result rounded once; an f32 result whose rounding overflows is that, and any other lies within its bound of the exact result. The exact result is the one the model computes, to more than 200 bits (log 10). Of SQRT, in every format, and RSQRT, in f16 and bf16, no other finite result is nearer, which is said without it. -/
def Sys2Proof.SpecialPrecision : Prop :=
  (∀ F ∈ floatCodes, ∀ (f : Special) (mode c : Nat), mode ≤ 1 → f.named (decodeElem F.1 q8 c) = none →
    let x := decodeElem F.1 q8 c
    let v := (f.value x).1
    let r := f.elem F.1 mode c
    let overflows := fitVal F.1 q8 0 0 false v % nth F.2 1 0 = nth F.2 2 0
    ((F.1 ≠ .f32 ∨ overflows) → r = fitVal F.1 q8 mode 0 false v) ∧
    (F.1 = .f32 → ¬overflows → c < 2 ^ 32 → (f32Val r).isNan = false ∧ (f32Val r).isInf = false ∧ (f32Bound f x v).ltb ((f32Val r).sub v).abs = false)) ∧
  ∀ F ∈ floatCodes, ∀ mode c c', mode ≤ 1 → 0 < c → c < nth F.2 2 0 → c' < nth F.2 2 0 →
    let x := decodeElem F.1 q8 c
    let nearest := fun (r : Nat) (above below : Val → Bool) => r < nth F.2 2 0 ∧ let mid := ((decodeElem F.1 q8 r).add (decodeElem F.1 q8 c')).scale (-1)
      (r < c' → below mid = false) ∧ (c' < r → above mid = false)
    nearest (Special.elem .sqrt F.1 mode c) (fun m => x.ltb (m.mul m)) (fun m => (m.mul m).ltb x) ∧
    (F.1 ≠ .f32 → nearest (Special.elem .rsqrt F.1 mode c) (fun m => Val.one.ltb ((m.mul m).mul x)) (fun m => ((m.mul m).mul x).ltb Val.one))

/-- R272, R273: the F syllables complete; what they give at ±0, ±∞, NaN, negative inputs and multiples of 0.5; and that every other result is rounded once or lies within the bound of R274. The exact results are the model's own, and an f32 result within the bound is a free value (log 10). -/
def Obligations.SpecialFunctionsComplete : Prop := Sys2Proof.SpecialFunctionsRun ∧ Sys2Proof.SpecialInputs ∧ Sys2Proof.SpecialPrecision

/-- The widened elements of the active lanes of latch lane j, with base plus their core-wide numbers (R258, R276, R277). -/
def Sys2Proof.latchFeeds (s : State) (h : Hdr) (o : LReg) (base j : Nat) : List (Lane × Lane) :=
  ((activeLanes s h o).filter fun L => L % 16 == j).flatMap fun L =>
    (codes s h (s.core.vlane o.a.toNat L)).mapIdx fun e c => (widenElem (hFmt h) c, BitVec.ofNat 32 (base + ((codes s h (s.core.vlane o.a.toNat L)).length * L + e)))

/-- Is a word the greatest, or least, of some latch words by the order of R261, the canonical NaN where one of them is NaN (R276)? -/
def Sys2Proof.Extreme (k : WordKind) (big : Bool) (w : Lane) (ws : List Lane) : Prop :=
  ((∃ u ∈ ws, (k.val u).isNan = true) → w = 0x7FC00000) ∧
  ((∀ u ∈ ws, (k.val u).isNan = false) → w ∈ ws ∧ ∀ u ∈ ws, if big then ¬below (k.val w) (k.val u) else ¬below (k.val u) (k.val w))

/-- Is (v, n) the result of the candidate that R277 picks: one with the least value, a NaN ranking above all and zeros being equal, and among equal values the least index; a NaN as the canonical one? -/
def Sys2Proof.Picks (k : WordKind) (cands : List (Lane × Lane)) (v n : Lane) : Prop :=
  ∃ w, (w, n) ∈ cands ∧ (v = if (k.val w).isNan then 0x7FC00000 else w) ∧ ∀ u m, (u, m) ∈ cands →
    if (k.val w).isNan then (k.val u).isNan = true ∧ n.toNat ≤ m.toNat
    else (k.val u).isNan = true ∨ (k.val w).ltb (k.val u) = true ∨ ((k.val u).ltb (k.val w) = false ∧ n.toNat ≤ m.toNat)

/-- R275 to R280: RSUM, RMAX, RMIN and RMINIDX complete with an update of their latch at +7, RCLR with the identity at +1 (SUB 3 also all ones in the next latch), RABSMAX with the block maxima in the scale bypass at +4, RDRAIN at +2 with the latch, or in every lane with the sum of its 16 words fitted once, their greatest or least, or the value or index of the pair that R277 picks over the latch and the next. -/
def Sys2Proof.ReductionsRun : Prop := ∀ (h : Hdr) (o : LReg) (s : State),
  let feeds := fun base => (List.range 16).map (latchFeeds s h o base)
  let k := latchKind (hFmt h)
  let words := s.core.latchWords o.a.toNat
  (Admitted (.rsum h o) s → Lands (.rsum h o) s 7 (.latch o.d.toNat (.sum k (decide (hMode h = 1))) (feeds 0))) ∧
  (Admitted (.rmax h o) s → Lands (.rmax h o) s 7 (.latch o.d.toNat (.max k) (feeds 0))) ∧
  (Admitted (.rmin h o) s → Lands (.rmin h o) s 7 (.latch o.d.toNat (.min k) (feeds 0))) ∧
  (Admitted (.rminidx h o) s → Lands (.rminidx h o) s 7 (.latch o.d.toNat (.minIdx k) (feeds (s.core.bcommon o).toNat))) ∧
  (Admitted (.rclr h o) s → (o.sub ≠ 3 → Lands (.rclr h o) s 1 (.latchSet o.d.toNat (latchIdentity o.sub.toNat k))) ∧
    (o.sub = 3 → Completes (.rclr h o) s ((s.fly 1 (.latchSet o.d.toNat (latchIdentity 3 k))).fly 1 (.latchSet (o.d.toNat + 1) 0xFFFFFFFF)) (some 1))) ∧
  (Admitted (.rabsmax h o) s → Lands (.rabsmax h o) s 4 (.bypass ((List.range 8).map fun b =>
    blockMax (((activeLanes s h o).filter fun L => L / (32 / (hFmt h).perLane s.core.q) == b).flatMap fun L => values s h (s.core.vlane o.a.toNat L))))) ∧
  (Admitted (.rdrain h o) s →
    (o.sub = 0 → Lands (.rdrain h o) s 2 (vectorOf s h o fun L => nth words (L % 16) 0)) ∧
    (o.sub = 1 → Lands (.rdrain h o) s 2 (vectorOf s h o fun _ => k.fit (decide (hMode h = 1)) (Val.sum (words.map k.val)))) ∧
    (o.sub = 2 → ∃ w, Extreme k true w words ∧ Lands (.rdrain h o) s 2 (vectorOf s h o fun _ => w)) ∧
    (o.sub = 3 → ∃ w, Extreme k false w words ∧ Lands (.rdrain h o) s 2 (vectorOf s h o fun _ => w)) ∧
    (3 < o.sub.toNat → ∃ v n, Picks k ((List.range 16).map fun j => (nth words j 0, nth (s.core.latchWords (o.a.toNat + 1)) j 0)) v n ∧
      Lands (.rdrain h o) s 2 (vectorOf s h o fun _ => if o.sub = 4 then v else n)))

/-- R275, R276: a sum update lands on the latch as it stands: in a lane with active inputs the exact sum of the latch's own value and the inputs, fitted once; a lane without one stays exactly as it stood, and so does every other latch. -/
def Sys2Proof.LatchSumLands : Prop := ∀ (c : StreamCore) (l : Nat) (k : WordKind) (sat : Bool) (ins : List (List (Lane × Lane))), ins.length = 16 →
  (∀ j, j < 16 → (c.apply (.latch l (.sum k sat) ins)).regs.l.get (l * 16 + j) =
    if (nth ins j []).isEmpty then c.regs.l.get (l * 16 + j) else k.fit sat (Val.sum (k.val (c.regs.l.get (l * 16 + j)) :: (nth ins j []).map fun x => k.val x.1))) ∧
  (∀ n j, n ≠ l → j < 16 → (c.apply (.latch l (.sum k sat) ins)).regs.l.get (n * 16 + j) = c.regs.l.get (n * 16 + j)) ∧
  c.apply (.latch l (.sum k sat) ins) = { c with regs := { c.regs with l := (c.apply (.latch l (.sum k sat) ins)).regs.l } }

/-- R281: PART completes at +6: entry p of the list of each outcome in the p-th lane of the masked clusters, 0xFFFFFFFF in the further ones, and the list lengths in sC. -/
def Sys2Proof.PartitionCompletes : Prop := ∀ (h : Hdr) (o : LReg) (s : State), Admitted (.part h o) s →
  let lanes := (List.range 128).filter fun L => h.cmask.getLsbD (L / 16)
  let list := fun (out : Nat) => ((activeLanes s h o).filter fun L => ((s.core.vlane o.a.toNat L).extractLsb' 0 3).toNat == out).map fun L =>
    BitVec.ofNat 32 ((s.core.bcommon o).toNat + L)
  let outs := List.range (o.sub.toNat + 1)
  Completes (.part h o) s ((s.fly 6 (.vecs (outs.flatMap fun out => lanes.mapIdx fun p L => (lanePlace s (o.d.toNat + out) L, nth (list out) p 0xFFFFFFFF)))).fly 6
    (.sreg o.c.toNat (BitVec.ofNat 64 ((outs.map fun out => (list out).length * 2 ^ (8 * out)).foldl (· + ·) 0)))) (some 6)

/-- R276, R277: the updates of RMAX, RMIN and RMINIDX land on the latch as it stands. In a lane with active inputs RMAX and RMIN leave the greatest or least of the latch's word and the inputs; RMINIDX leaves the word and the index of the candidate with the least value, a NaN ranking above all and zeros being equal, and among equal values the least index, whatever the order in which the inputs come; a NaN it leaves is the canonical one. A lane without active inputs and every other latch stay. Which of −0 and +0 under one index is kept is the model's choice (log 60). -/
def Sys2Proof.LatchExtremesLand : Prop := ∀ (c : StreamCore) (l : Nat) (k : WordKind) (ins : List (List (Lane × Lane))), ins.length = 16 →
  let old := fun (n j : Nat) => c.regs.l.get (n * 16 + j)
  let lands := fun (op : LatchOp) (pair : Bool) (p : Nat → (Nat → Lane) → Prop) => let t := c.apply (.latch l op ins)
    let new := fun (n j : Nat) => t.regs.l.get (n * 16 + j)
    (∀ j, j < 16 → if (nth ins j []).isEmpty then new l j = old l j ∧ new (l + 1) j = old (l + 1) j else p j fun n => new n j) ∧
    (∀ n j, n ≠ l → (pair = true → n ≠ l + 1) → j < 16 → new n j = old n j) ∧ t = { c with regs := { c.regs with l := t.regs.l } }
  let words := fun (j : Nat) => old l j :: (nth ins j []).map fun x => x.1
  lands (.max k) false (fun j new => Extreme k true (new l) (words j)) ∧
  lands (.min k) false (fun j new => Extreme k false (new l) (words j)) ∧
  lands (.minIdx k) true (fun j new => Picks k ((old l j, old (l + 1) j) :: nth ins j []) (new l) (new (l + 1))) ∧
  ∀ ins' : List (List (Lane × Lane)), ins'.length = 16 → (∀ j, j < 16 → (nth ins' j []).Perm (nth ins j [])) →
    ∀ n j, j < 16 → (c.apply (.latch l (.minIdx k) ins')).regs.l.get (n * 16 + j) = (c.apply (.latch l (.minIdx k) ins)).regs.l.get (n * 16 + j)

/-- R275 to R281: the reductions and PART complete, and what each latch update lands. -/
def Obligations.ReductionsComplete : Prop := Sys2Proof.ReductionsRun ∧ Sys2Proof.LatchSumLands ∧ Sys2Proof.LatchExtremesLand ∧ Sys2Proof.PartitionCompletes

/-- R334: x ranks before y: it is better in the first counted objective in which they differ, the lesser under DIR 0b01 and the greater under 0b10, or they differ in none and its payload is less. -/
def Sys2Proof.RanksBefore (w : BitVec 40) (x y : Tuple) : Prop :=
  let dir := fun (j : Nat) => (w.extractLsb' (2 + 2 * j) 2).toNat
  let counted := fun (j : Nat) => j ≤ (w.extractLsb' 0 2).toNat ∧ dir j ≠ 0
  let better := fun (j : Nat) (a b : Tuple) => if dir j = 1 then (objVal w a j).ltb (objVal w b j) = true else (objVal w b j).ltb (objVal w a j) = true
  (∃ j, counted j ∧ better j x y ∧ ∀ i, i < j → counted i → ¬better i x y ∧ ¬better i y x) ∨
  ((∀ i, counted i → ¬better i x y ∧ ¬better i y x) ∧ x.payload.toNat < y.payload.toNat)

/-- R334: entries, oldest first, in lexicographic order: each stands before the first of the younger ones that does not rank before it. -/
def Sys2Proof.RankedAs (w : BitVec 40) : List Tuple → List Tuple → Prop
  | [], out => out = []
  | x :: xs, out => ∃ pre post, Sys2Proof.RankedAs w xs (pre ++ post) ∧ out = pre ++ x :: post ∧ (∀ y ∈ pre, Sys2Proof.RanksBefore w y x) ∧
      ∀ y, post.head? = some y → ¬Sys2Proof.RanksBefore w y x

/-- The entries of a front in lexicographic order; an unconfigured one has none. -/
def Sys2Proof.Ordered (f : Front) (es : List Tuple) : Prop :=
  (∀ w, f.cfg = some w → RankedAs w f.es es) ∧ (f.cfg = none → es = [])

/-- R339: tuples inserted into a front one by one, by the insertion of R335, until one overflows; and whether one has. -/
def Sys2Proof.insertsInto (w : BitVec 40) : List Tuple → Front → Front × Bool
  | [], f => (f, false)
  | x :: xs, f => if (f.insert w false x).2 then ((f.insert w false x).1, true) else Sys2Proof.insertsInto w xs (f.insert w false x).1

/-- R334 to R341, R343: FCFG completes with the new configuration at +1; FINS of a configured front with the tuples of its active lanes at +6; FMERGE of two configured fronts alike in arity, directions and kinds with the first front, the entries of the second inserted into it in lexicographic order until one overflows, at +12; FPEEL with entries k + j in lexicographic order, all ones where there is none, at +8; FCNT with EVI, REJ, CONF and COUNT at +2. -/
def Obligations.FrontSyllablesComplete : Prop := ∀ (h : Hdr) (o : LReg) (s : State),
  let tuple := fun L =>
    let x := s.core.vlane o.a.toNat L
    let y := s.core.vlane (o.a.toNat + 1) L
    ({ o0 := x.extractLsb' 0 16, o1 := x.extractLsb' 16 16, o2 := y.extractLsb' 0 16, o3 := y.extractLsb' 16 16, payload := s.core.vlane (o.a.toNat + 2) L } : Tuple)
  (Admitted (.fcfg h o) s → Lands (.fcfg h o) s 1 (.front o.d.toNat (.config (if o.bsel = 1 then (s.core.sreg o.b.toNat).setWidth 40 else o.imm)))) ∧
  (Admitted (.fins h o) s →
    ((s.core.front o.d.toNat).cfg ≠ none → Lands (.fins h o) s 6 (.front o.d.toNat (.insert ((activeLanes s h o).map fun L => (L, tuple L))))) ∧
    ((s.core.front o.d.toNat).cfg = none → TrapsHere (.fins h o) s 3 0x07 (BitVec.ofNat 64 o.d.toNat))) ∧
  (Admitted (.fmerge h o) s →
    ((s.core.front o.a.toNat).cfg = none → TrapsHere (.fmerge h o) s 3 0x07 (BitVec.ofNat 64 o.a.toNat)) ∧
    (∀ w, (s.core.front o.a.toNat).cfg = some w → (s.core.front o.b.toNat).cfg = none → TrapsHere (.fmerge h o) s 3 0x07 (BitVec.ofNat 64 o.b.toNat)) ∧
    ∀ w v, (s.core.front o.a.toNat).cfg = some w → (s.core.front o.b.toNat).cfg = some v →
      (w.extractLsb' 0 18 ≠ v.extractLsb' 0 18 → TrapsHere (.fmerge h o) s 3 0x07 (BitVec.ofNat 64 o.b.toNat)) ∧
      (w.extractLsb' 0 18 = v.extractLsb' 0 18 → ∃ es, RankedAs w (s.core.front o.b.toNat).es es ∧ Lands (.fmerge h o) s 12
        (.front o.d.toNat (.replace (insertsInto w es (s.core.front o.a.toNat)).1 (insertsInto w es (s.core.front o.a.toNat)).2)))) ∧
  (Admitted (.fpeel h o) s → ∃ es, Ordered (s.core.front o.a.toNat) es ∧ Lands (.fpeel h o) s 8 (.vecs ((List.range 3).flatMap fun r => (activeLanes s h o).map fun L =>
    (lanePlace s (o.d.toNat + r) L, match es[(s.core.bcommon o).toNat + L % 16]? with
      | some t => nth [t.o1 ++ t.o0, t.o3 ++ t.o2, t.payload] r 0
      | none => 0xFFFFFFFF)))) ∧
  (Admitted (.fcnt h o) s → Lands (.fcnt h o) s 2 (.sreg o.d.toNat
    (BitVec.ofNat 64 ((s.core.front o.a.toNat).evi.toNat * 2 ^ 32 + (s.core.front o.a.toNat).rej.toNat * 2 ^ 16 +
      (if (s.core.front o.a.toNat).cfg.isSome then 2 ^ 7 else 0) + (s.core.front o.a.toNat).es.length))))

/-- R342: FCLR and FCLR.all complete at +1; when the change lands, fD is empty with REJ and EVI zero, its configuration kept by SUB 0 and gone by SUB 1; SUB 2 to 15 are reserved. -/
def Obligations.FrontClear : Prop := ∀ (h : Hdr) (o : LReg) (s : State) (c : StreamCore),
  (Admitted (.fclr h o) s → Lands (.fclr h o) s 1 (.front o.d.toNat (.clear false))) ∧
  (Admitted (.fclrAll h o) s → Lands (.fclrAll h o) s 1 (.front o.d.toNat (.clear true))) ∧
  ((Instr.fclr h o).wf = true → o.sub = 0) ∧ ((Instr.fclrAll h o).wf = true → o.sub = 1) ∧
  (1 < o.sub.toNat → decodeSyllable (Syl.word { cls := 3, opc := 0x0D, h := h, body := .reg o }) = .error .badField) ∧
  (o.d.toNat < c.regs.fronts.length → ∀ all,
    let f := (c.apply (.front o.d.toNat (.clear all))).front o.d.toNat
    f.es = [] ∧ f.rej = 0 ∧ f.evi = 0 ∧ f.cfg = (if all then none else (c.front o.d.toNat).cfg))

/-! ### Taps -/

/-- The lanes of the masked clusters. -/
def Sys2Proof.maskedLanes (h : Hdr) : List Nat := (List.range 128).filter fun L => h.cmask.getLsbD (L / 16)

/-- The face index of R11 at a tick, floor toward minus infinity, and the history count of R12. -/
def Sys2Proof.faceIndex (g : Sig) (now : Word) : Int := ((now.toNat : Int) - g.skew).fdiv g.rate
def Sys2Proof.history (g : Sig) (now : Word) : Nat := min (faceIndex g now + 1).toNat g.depth

/-- Lane word j of a tap read whose checks have passed (R13). -/
def Sys2Proof.tapValue (g : Sig) (now : Word) (lag cl v j : Nat) : Lane :=
  let f := faceIndex g now
  if lag < history g now then g.stored lag cl v j
  else if f < 0 then (if g.fill = 1 then g.fillc else 0)
  else if g.fill = 0 then 0
  else if g.fill = 1 then g.fillc
  else if g.fill = 2 then g.stored (f - min (lag - f) f).toNat cl v j
  else g.stored f.toNat cl v j

/-- TVAL of a tap fault (R15). -/
def Sys2Proof.tapFaultValue (sig lag : Nat) : Word := BitVec.ofNat 64 (sig * 2 ^ 56 + min lag 0x00FFFFFFFFFFFFFF)

/-- Is every masked cluster one of the signal's, and the cluster-vector within VECS? -/
def Sys2Proof.tapPresent (g : Sig) (h : Hdr) (v : Nat) : Bool := (hClusters h).all (fun cl => bit g.clusters cl) && decide (v ≤ g.vecs)

/-- A read of lags a to b of a tap: the traps of R13, R21 and R30 in their order, with lag b recorded, or the result. -/
def Sys2Proof.TapReads (i : Instr) (h : Hdr) (o : LTap) (s : State) (a b : Nat) (res : Sig → Prop) : Prop :=
  let tval := tapFaultValue o.sig.toNat b
  (s.core.sig o.sig.toNat = none → TrapsHere i s 5 0x18 tval) ∧
  ∀ g, s.core.sig o.sig.toNat = some g →
    (tapPresent g h o.vec.toNat = false → TrapsHere i s 5 0x18 tval) ∧
    (tapPresent g h o.vec.toNat = true →
      (g.bridged = true → b = 0 → TrapsHere i s 5 0x19 tval) ∧
      ((g.bridged = false ∨ b ≠ 0) → g.depth ≤ b → TrapsHere i s 5 0x1A tval) ∧
      (b < g.depth → (g.bridged = true → 0 < b ∧ a = 0 → TrapsHere i s 5 0x19 tval)) ∧
      (b < g.depth → (g.bridged = false ∨ 0 < a) → (∃ k x, a ≤ k ∧ k ≤ b ∧ k < history g s.core.sys.now ∧ g.samples[k]? = some x ∧ x.bad ≠ none) → TrapsHere i s 5 0x1C tval) ∧
      (b < g.depth → (g.bridged = false ∨ 0 < a) → (∀ k, a ≤ k → k ≤ b → k < history g s.core.sys.now → ∀ x, g.samples[k]? = some x → x.bad = none) → res g))

/-- R11 to R15, R21, R30, R239, R240, R245, R246: TRD and TRDW complete at +3 with the tap values of R13 in every lane of the masked clusters, lag a + i in register vD + i, or trap by the first check that fails, a stored sample with an uncorrectable error being the last of them; THIST and TSIG complete at +3 with the history count and the shape word, or trap where the signal is not held. The order of the checks of a bridged window, and that every read of such a sample traps until its face is written, are the model's readings (logs 24 and 38). -/
def Obligations.TapReadsComplete : Prop := ∀ (h : Hdr) (o : LTap) (s : State),
  let reg := fun (r : BitVec 6) => (s.core.sreg r.toNat).toNat
  let lag := if o.lr then reg o.lreg else o.lag.toNat
  let a := if o.lr then reg o.lreg else o.lag.toNat
  let b := if o.lr then reg o.lreg + o.lagb.toNat else o.lagb.toNat
  let word := fun g k L => tapValue g s.core.sys.now k (L / 16) o.vec.toNat (L % 16)
  (Admitted (.trd h o) s → TapReads (.trd h o) h o s lag lag fun g =>
    Lands (.trd h o) s 3 (.vecs ((maskedLanes h).map fun L => (lanePlace s o.d.toNat L, word g lag L)))) ∧
  ((Instr.trdw h o).wf = true → Admitted (.trdw h o) s → TapReads (.trdw h o) h o s a b fun g =>
    Lands (.trdw h o) s 3 (.vecs ((List.range (b + 1 - a)).flatMap fun k => (maskedLanes h).map fun L => (lanePlace s (o.d.toNat + k) L, word g (a + k) L)))) ∧
  (Admitted (.thist h o) s →
    (s.core.sig o.sig.toNat = none → TrapsHere (.thist h o) s 5 0x18 (tapFaultValue o.sig.toNat 0)) ∧
    ∀ g, s.core.sig o.sig.toNat = some g → Lands (.thist h o) s 3 (.sreg o.d.toNat (BitVec.ofNat 64 (history g s.core.sys.now)))) ∧
  (Admitted (.tsig h o) s →
    (s.core.sig o.sig.toNat = none → TrapsHere (.tsig h o) s 5 0x18 (tapFaultValue o.sig.toNat 0)) ∧
    ∀ g, s.core.sig o.sig.toNat = some g → ∃ w : Word, Lands (.tsig h o) s 3 (.sreg o.d.toNat w) ∧
      w.extractLsb' 48 16 = BitVec.ofNat 16 g.depth ∧ w.extractLsb' 40 8 = BitVec.ofNat 8 g.rate ∧ w.extractLsb' 32 8 = BitVec.ofNat 8 g.skew ∧
      w.extractLsb' 24 8 = BitVec.ofInt 8 ((s.core.sys.now.toNat : Int) - g.skew - g.rate * faceIndex g s.core.sys.now) ∧
      w.extractLsb' 16 8 = BitVec.ofNat 8 g.clusters ∧ w.extractLsb' 13 3 = BitVec.ofNat 3 g.vecs ∧ w.getLsbD 12 = g.carryOpen ∧
      w.extractLsb' 10 2 = BitVec.ofNat 2 g.fill ∧ w.extractLsb' 8 2 = g.desc.extractLsb' 64 2 ∧ w.getLsbD 7 = (!g.replica && !g.bridged) ∧
      w.getLsbD 6 = g.replica ∧ w.getLsbD 5 = decide (0 ≤ faceIndex g s.core.sys.now) ∧ w.extractLsb' 0 5 = 0)

/-- The state in which a write of a face is in flight to the owner, +2, and to every replica, +32 wall cycles (R22, R242, R244). -/
def Sys2Proof.faceWritten (s : State) (g : Sig) (e : Eff) : State :=
  let dest := replicasOf s g
  ({ s with exports := if g.owner = 16 ∨ dest = [] then s.exports
      else s.exports ++ [{ due := s.wall + 32, cid := some s.core.seat.cid, seq := s.core.pipe.seq, dest := dest, eff := e }] } : State).fly 2 e

/-- The draws of n elements from the state of a lane's generator, and its state after them (R95). -/
def Sys2Proof.drawsFrom : Nat → BitVec 32 → List Nat × BitVec 32
  | 0, st => ([], st)
  | n + 1, st => let rest := Sys2Proof.drawsFrom n (stepGen st); (drawn (stepGen st) :: rest.1, rest.2)

/-- R18, R22, R95, R242 to R244: TWR and TWRA trap with absent-signal or, for a lag other than 0, a replica, a bridged-in signal or a face index of −1, with tap-write; else they complete with vD as read at issue on its way to the face of the masked clusters and of the replicas; under MODE 0b11 every lane of the masked clusters draws once for each element. -/
def Obligations.TapWritesComplete : Prop := ∀ (h : Hdr) (o : LTap) (s : State),
  let lag := if o.lr then (s.core.sreg o.lreg.toNat).toNat else o.lag.toNat
  let tval := tapFaultValue o.sig.toNat lag
  let writes := fun (i : Instr) (res : Sig → Prop) =>
    (s.core.sig o.sig.toNat = none → TrapsHere i s 5 0x18 tval) ∧
    ∀ g, s.core.sig o.sig.toNat = some g →
      let closed := lag ≠ 0 ∨ g.replica = true ∨ g.bridged = true ∨ faceIndex g s.core.sys.now < 0
      (tapPresent g h o.vec.toNat = false → TrapsHere i s 5 0x18 tval) ∧
      (tapPresent g h o.vec.toNat = true → (closed → TrapsHere i s 5 0x1B tval) ∧ (¬closed → res g))
  (Admitted (.twr h o) s → writes (.twr h o) fun g => Completes (.twr h o) s
    (faceWritten s g (.tapWrite g.id ((maskedLanes h).map fun L => (tapKey (L / 16) o.vec.toNat (L % 16), s.core.vlane o.d.toNat L)))) (some 2)) ∧
  (Admitted (.twra h o) s → writes (.twra h o) fun g =>
    let draws := fun (st : BitVec 32) => drawsFrom (if hMode h = 3 then 32 / slotW s h else 0) st
    ∃ gens : Store 32, GensAfter s gens (fun L => decide (L < 128) && h.cmask.getLsbD (L / 16)) (fun _ st => (draws st).2) (hMode h) ∧
      Completes (.twra h o) s (faceWritten (withGens s gens) g (.tapAdd g.id (hFmt h) s.core.q (hMode h)
        ((maskedLanes h).map fun L => (tapKey (L / 16) o.vec.toNat (L % 16), s.core.vlane o.d.toNat L, (draws (s.core.regs.gen.get L)).1)))) (some 2))

/-! ### Scratchpad -/

/-- The entry of the pool that the default or named nest of an access has, and the byte offset within the record (R248). -/
def Sys2Proof.nestOf (s : State) (o : LMem) : Nat :=
  if o.nest ≠ 0 then o.nest.toNat else if bit (s.core.entry o.rcd.toNat) 199 then bits (s.core.entry o.rcd.toNat) 198 191 else 0
def Sys2Proof.memOffset (s : State) (o : LMem) : Int :=
  let n := s.core.entry (nestOf s o)
  if o.offm = 1 then (s.core.sreg o.o.toNat).toInt + o.imm23.toNat
  else if o.offm = 2 then 2 ^ nestShift n * ((List.range 6).map fun d => (s.core.loopIdx d : Int) * nestStride n d).foldl (· + ·) 0 + o.imm23.toNat
  else o.imm23.toNat

/-- e of lane L of a vector access, and e of a scalar access of n bytes (R36, R248). -/
def Sys2Proof.lanePlaceOf (s : State) (o : LMem) (L : Nat) : Int :=
  if o.offm = 3 then 4 * ((64 * recBase (s.core.entry o.rcd.toNat) + (s.core.vlane o.o.toNat L).toNat + o.imm23.toNat : Int) / 4)
  else 4 * ((64 * recBase (s.core.entry o.rcd.toNat) + memOffset s o) / 4) + 4 * L
def Sys2Proof.scalarPlaceOf (s : State) (o : LMem) (n : Nat) : Int := n * ((64 * recBase (s.core.entry o.rcd.toNat) + memOffset s o) / n)

/-- Active lanes of an M1 access. -/
def Sys2Proof.memLanes (s : State) (h : Hdr) (o : LMem) : List Nat := (maskedLanes h).filter fun L => (s.core.kreg o.km.toNat).getLsbD L

/-- The first two checks of R249 on a record, then the range check on the places accessed. -/
def Sys2Proof.MemTraps (i : Instr) (s : State) (o : LMem) (places : List Int) : Prop :=
  let kind := recKind (s.core.entry o.rcd.toNat)
  let known := kind = 1 ∨ kind = 2
  let nested := o.offm = 2 → recKind (s.core.entry (nestOf s o)) = 3
  (¬known → TrapsHere i s 6 0x20 (o.rcd.setWidth 64)) ∧
  (known → ¬nested → TrapsHere i s 6 0x20 (BitVec.ofNat 64 (nestOf s o))) ∧
  (known → nested → ∀ e, (places.find? fun e => e < 0 ∨ 6291456 ≤ e) = some e → TrapsHere i s 6 0x21 (BitVec.ofInt 64 e))

/-- The access passes every check of R249. -/
def Sys2Proof.MemPasses (s : State) (o : LMem) (places : List Int) : Prop :=
  (recKind (s.core.entry o.rcd.toNat) = 1 ∨ recKind (s.core.entry o.rcd.toNat) = 2) ∧ (o.offm = 2 → recKind (s.core.entry (nestOf s o)) = 3) ∧
  ∀ e ∈ places, 0 ≤ e ∧ e < 6291456

/-- The uncorrectable granules that reads of n bytes at each place use, berm bytes not read (R34, R41, R249). -/
def Sys2Proof.lostGranules (s : State) (places : List Int) (n : Nat) : List Nat :=
  (places.flatMap fun e => if s.core.bermAt e.toNat then [] else s.core.sp.granulesOf e.toNat ++ if n = 8 then s.core.sp.granulesOf (e.toNat + 4) else []).filter fun g => s.core.sp.lost g

/-- What a load reads at a byte: zero in a berm (R41), else the byte of the scratchpad. -/
def Sys2Proof.readByte (s : State) (e : Nat) : Byte := if s.core.bermAt e then 0 else s.core.sp.byte e

/-- R248, R249, R251 to R255: a load that meets an uncorrectable granule traps with its first byte; else LD completes at +5 (+7 from a compressed region) and LDG at +9 with the word at each active lane's place, LDS with the sign- or zero-extended scalar there, LDB at +5 with a word of the record's entry; a load that fails a check traps. Loads change no byte of the scratchpad. The cycle of a berm touch is the model's reading (log 49). -/
def Obligations.ScratchLoadsComplete : Prop := ∀ (h : Hdr) (o : LMem) (s : State),
  let at_ := lanePlaceOf s o
  let vec := (memLanes s h o).map at_
  let n := scalarBytes h
  let sc := scalarPlaceOf s o n
  let late := fun (es : List Int) => if es.any fun e => s.core.sp.compressed e.toNat then 7 else 5
  let words := fun (L : Nat) => BitVec.ofNat 32 (leNat ((List.range 4).map fun i => readByte s ((at_ L).toNat + i)))
  let loads := fun (i : Instr) (places : List Int) (n k : Nat) (e : Eff) => MemTraps i s o places ∧ (MemPasses s o places →
    (∀ g, (lostGranules s places n).head? = some g → TrapsHere i s 6 0x23 (BitVec.ofNat 64 (64 * g))) ∧
    (lostGranules s places n = [] → ∃ s1 : State, Completes i s (s1.fly k e) (some k) ∧ s1.core.sp.data = s.core.sp.data ∧ s1.core.regs = s.core.regs ∧ s1.core.dev = s.core.dev))
  ((Instr.ld h o).wf = true → Admitted (.ld h o) s → loads (.ld h o) vec 4 (late vec) (.vecs ((memLanes s h o).map fun L => (lanePlace s o.d.toNat L, words L)))) ∧
  ((Instr.ldg h o).wf = true → Admitted (.ldg h o) s → loads (.ldg h o) vec 4 9 (.vecs ((memLanes s h o).map fun L => (lanePlace s o.d.toNat L, words L)))) ∧
  ((Instr.lds h o).wf = true → Admitted (.lds h o) s →
    loads (.lds h o) [sc] n (late [sc]) (.sreg o.d.toNat (ext64 (8 * n) (scalarSg (hFmt h)) (leNat ((List.range n).map fun i => readByte s (sc.toNat + i)))))) ∧
  ((Instr.ldb h o).wf = true → Admitted (.ldb h o) s → Lands (.ldb h o) s 5 (.sreg o.d.toNat ((nth s.core.pool o.rcd.toNat 0#256).extractLsb' (64 * o.imm23.toNat) 64)))

/-- R41, R43, R174, R248 to R254: ST, STG and STS complete: through a buffer with the bytes of the active lanes on their way to the scratchpad, +2 or +9, berm bytes left out, no store into a compressed region; through a window with the same bytes on their way to every named member, +32 wall cycles. That a window store's scoreboard goes down with its landing is the model's reading (log 36). -/
def Obligations.ScratchStoresComplete : Prop := ∀ (h : Hdr) (o : LMem) (s : State),
  let at_ := lanePlaceOf s o
  let vec := (memLanes s h o).map at_
  let n := scalarBytes h
  let sc := scalarPlaceOf s o n
  let lanes := (memLanes s h o).flatMap fun L => withKeys (at_ L).toNat (leBytes 4 (s.core.vlane o.d.toNat L).toNat)
  let scalar := withKeys sc.toNat (leBytes n (s.core.sreg o.d.toNat).toNat)
  let stores := fun (i : Instr) (places : List Int) (ws : List (Nat × Byte)) (k : Nat) => MemTraps i s o places ∧ (MemPasses s o places →
    (recKind (s.core.entry o.rcd.toNat) = 1 →
      (∀ e, (places.find? fun e => s.core.sp.compressed e.toNat) = some e → TrapsHere i s 6 0x22 (BitVec.ofInt 64 e)) ∧
      ((∀ e ∈ places, s.core.sp.compressed e.toNat = false) → ∃ s1 : State, Completes i s (s1.fly k (.store (ws.filter fun w => !s.core.bermAt w.1))) (some k) ∧
        s1.core.sp.data = s.core.sp.data ∧ s1.core.regs = s.core.regs ∧ s1.mem = s.mem)) ∧
    (recKind (s.core.entry o.rcd.toNat) = 2 → Completes i s { s with windows := s.windows ++ [{ due := s.wall + 32, cid := some s.core.seat.cid, member := s.core.seat.member, seq := s.core.pipe.seq, dest := windowMembers s (s.core.entry o.rcd.toNat), ws := ws, sb := if h.sbv then some h.sbi.toNat else none }] } none))
  ((Instr.st h o).wf = true → Admitted (.st h o) s → stores (.st h o) vec lanes 2) ∧
  ((Instr.stg h o).wf = true → Admitted (.stg h o) s → stores (.stg h o) vec lanes 9) ∧
  ((Instr.sts h o).wf = true → Admitted (.sts h o) s → stores (.sts h o) [sc] scalar 2)

/-- R34, R43, R44, R238: a store lands: each byte it writes holds the last value written to it; every other byte of the scratchpad reads as before, zero in a granule that was invalid; the granules written become valid and no other granule changes validity; a granule written whole is rid of its error, no other granule's error changes, what a window store of a TICK group replaced there is no longer kept to be taken back (log 15), and nothing else of the core changes. -/
def Obligations.StoreLands : Prop := ∀ (c : StreamCore) (ws : List (Nat × Byte)),
  let t := c.apply (.store ws)
  let whole := fun (g : Nat) => ∀ i, i < 64 → ∃ b, (64 * g + i, b) ∈ ws
  (∀ a, (∀ b, (a, b) ∉ ws) → t.sp.held a = c.sp.held a) ∧
  (∀ pre a b post, ws = pre ++ (a, b) :: post → (∀ b', (a, b') ∉ post) → t.sp.held a = b) ∧
  (∀ g, t.sp.valid.get g = if ws.any (fun w => w.1 / 64 == g) then 1 else c.sp.valid.get g) ∧
  (∀ g, whole g → c.sp.failedBanks = [] → t.sp.cellLost (g % 16) (g / 16) = false) ∧
  (∀ g, ¬whole g → t.sp.erased.get (18 * (g / 16) + g % 16) = c.sp.erased.get (18 * (g / 16) + g % 16)) ∧
  (∀ r, r ∈ t.sp.tentative.bytes ↔ r ∈ c.sp.tentative.bytes ∧ ∀ b, (r.key, b) ∉ ws) ∧
  t = { c with sp := { c.sp with data := t.sp.data, valid := t.sp.valid, erased := t.sp.erased
                                 tentative := { c.sp.tentative with bytes := t.sp.tentative.bytes, valid := t.sp.tentative.valid, marks := t.sp.tentative.marks } } }

/-- R346: the 832 bytes of the image of a front: its configuration word or zero, COUNT and CONF, REJ, EVI, zeros, and its entries in lexicographic order, zero after the last. -/
def Sys2Proof.ImageOf (f : Front) (bs : List Byte) : Prop := ∃ es, Ordered f es ∧ bs.length = 832 ∧
  let at_ := fun (i n : Nat) => leNat (slice bs i n)
  (∀ w, f.cfg = some w → at_ 0 5 = w.toNat ∧ nth bs 5 0 = BitVec.ofNat 8 (128 + es.length)) ∧
  (f.cfg = none → at_ 0 5 = 0 ∧ nth bs 5 0 = 0) ∧ at_ 6 2 = f.rej.toNat ∧ at_ 8 2 = f.evi.toNat ∧ (∀ i, 10 ≤ i → i < 64 → nth bs i 0 = 0) ∧
  ∀ i, i < 64 → let k := 64 + 12 * i
    (∀ t, es[i]? = some t → at_ k 2 = t.o0.toNat ∧ at_ (k + 2) 2 = t.o1.toNat ∧ at_ (k + 4) 2 = t.o2.toNat ∧ at_ (k + 6) 2 = t.o3.toNat ∧ at_ (k + 8) 4 = t.payload.toNat) ∧
    (es[i]? = none → ∀ j, j < 12 → nth bs (k + j) 0 = 0)

/-- R332: a configuration word without a reserved value, whose objectives at or above the arity have DIR and KIND zero. -/
def Sys2Proof.ValidConfig (w : BitVec 40) : Prop :=
  w.extractLsb' 27 13 = 0 ∧ w.extractLsb' 19 2 ≠ 3 ∧ ∀ j, j < 4 →
    w.extractLsb' (2 + 2 * j) 2 ≠ 3 ∧ ((w.extractLsb' 0 2).toNat < j → w.extractLsb' (2 + 2 * j) 2 = 0 ∧ w.extractLsb' (10 + 2 * j) 2 = 0)

/-- R346, R347: FSAVE and FLOAD address 832 bytes from 64 × BASE + sA + IMM23 with its low 6 bits cleared. The first check of R249 that fails traps: the record is no buffer, the first byte lies below the scratchpad or one of them above, FSAVE stores into a compressed region, FLOAD meets an uncorrectable granule. Else FSAVE completes at +16 with a store of the image of fB, less its berm bytes; FLOAD reads the bytes, berm bytes as zero, traps with the front-configuration fault on an invalid configuration and on more than 64 entries, and completes at +16 with the front that the image's fields give. The value of a range trap and the cycle of a berm touch are the model's readings (logs 35 and 49). -/
def Obligations.FrontImagesComplete : Prop := ∀ (h : Hdr) (o : LReg) (s : State),
  let r := (o.imm.extractLsb' 0 8).toNat
  let e : Int := 64 * ((64 * recBase (s.core.entry r) + (s.core.sreg o.a.toNat).toInt + (o.imm.extractLsb' 8 23).toNat) / 64)
  let isBuffer := recKind (s.core.entry r) = 1
  let inside := 0 ≤ e ∧ e + 832 ≤ 6291456
  let common := fun (i : Instr) => (¬isBuffer → TrapsHere i s 3 0x20 (BitVec.ofNat 64 r)) ∧ (isBuffer → e < 0 → TrapsHere i s 3 0x21 (BitVec.ofInt 64 e)) ∧
    (isBuffer → 0 ≤ e → 6291456 < e + 832 → TrapsHere i s 3 0x21 (BitVec.ofInt 64 (max e 6291456)))
  let shut := fun (k : Nat) => s.core.sp.compressed (e.toNat + k) = true
  let lost := lostGranules s ((List.range 208).map fun k : Nat => e + 4 * (k : Int)) 4
  let bs := (List.range 832).map fun i => readByte s (e.toNat + i)
  let at_ := fun (i n : Nat) => leNat (slice bs i n)
  let conf := (nth bs 5 0).getLsbD 7
  let count := (nth bs 5 0).toNat % 128
  let w := BitVec.ofNat 40 (at_ 0 5)
  let bad := (conf = true ∧ ¬ValidConfig w) ∨ 64 < count
  (Admitted (.fsave h o) s → common (.fsave h o) ∧ (isBuffer → inside →
    (∀ k, k < 832 → shut k → (∀ j, j < k → ¬shut j) → TrapsHere (.fsave h o) s 3 0x22 (BitVec.ofInt 64 (e + k))) ∧
    ((∀ k, k < 832 → ¬shut k) → ∃ (s1 : State) (image : List Byte), ImageOf (s.core.front o.b.toNat) image ∧
      Completes (.fsave h o) s (s1.fly 16 (.store ((withKeys e.toNat image).filter fun w => !s.core.bermAt w.1))) (some 16) ∧
      s1.core.sp.data = s.core.sp.data ∧ s1.core.regs = s.core.regs ∧ s1.mem = s.mem))) ∧
  (Admitted (.fload h o) s → common (.fload h o) ∧ (isBuffer → inside →
    (∀ g, lost.head? = some g → TrapsHere (.fload h o) s 3 0x23 (BitVec.ofNat 64 (64 * g))) ∧
    (lost = [] → bad → TrapsHere (.fload h o) s 3 0x07 (BitVec.ofNat 64 o.d.toNat)) ∧
    (lost = [] → ¬bad → ∃ s1 : State, s1.core.sp.data = s.core.sp.data ∧ s1.core.regs = s.core.regs ∧ s1.core.dev = s.core.dev ∧
      Completes (.fload h o) s (s1.fly 16 (.front o.d.toNat (.load (if conf then some w else none) (BitVec.ofNat 16 (at_ 6 2)) (BitVec.ofNat 16 (at_ 8 2))
        ((List.range count).map fun i => let k := 64 + 12 * i
          ({ o0 := BitVec.ofNat 16 (at_ k 2), o1 := BitVec.ofNat 16 (at_ (k + 2) 2), o2 := BitVec.ofNat 16 (at_ (k + 4) 2), o3 := BitVec.ofNat 16 (at_ (k + 6) 2)
             payload := BitVec.ofNat 32 (at_ (k + 8) 4) } : Tuple))))) (some 16))))

/-! ### The matrix array -/

/-- Schedule cycles that n array cycles take: twice as many in alternate mode (R286, R287). -/
def Sys2Proof.arrayCycles (s : State) (n : Nat) : Nat := if s.core.sys.amode = 0 then 2 * n else n

/-- `i` completes and starts an array job from `s0`: with b the row-block K-step time and G row blocks, K-step t of row block g commits at c + 24 + b(Gt + g + 1) and the array is occupied for G·b·(KST + 1) cycles, both doubled in alternate mode (R286, R287). -/
def Sys2Proof.StartsJob (i : Instr) (h : Hdr) (o : LArr) (s s0 : State) (G aw : Nat) (rows : List Nat) : Prop :=
  let b := max (stepTime s.core.q (hFmt h)) (stepTime s.core.wbuf.q s.core.wbuf.fmt)
  let K := o.kst.toNat + 1
  ∃ s1 : State, Completes i s s1 (some (arrayCycles s (24 + b * (G * o.kst.toNat + G)))) ∧ s1.core.regs = s0.core.regs ∧ s1.core.sp = s0.core.sp ∧ s1.mem = s0.mem ∧
    s1.core.pipe.arrayFree = s.core.pipe.cyc + arrayCycles s (G * b * K) ∧
    ∃ j : Job, s1.core.jobs = s.core.jobs ++ [j] ∧ j.mt = o.mt.toNat ∧ j.sat = decide (hMode h = 1) ∧ j.fa = hFmt h ∧ j.qa = s.core.q ∧ j.aw = aw ∧ j.rows = rows ∧
      j.w = s.core.wbuf ∧ j.scales = (if (hFmt h).isMx then (List.range K).map fun t => (List.range 256).map fun r => s.core.regs.sc.get (256 * (o.sc.toNat + t) + r) else []) ∧
      s1.core.pipe.flights = s.core.pipe.flights ++ (List.range K).flatMap fun t => (List.range G).map fun g =>
        inFlight s (arrayCycles s (24 + b * (G * t + g + 1))) (.commit j.uid t g)

/-- The scratchpad operand of an array syllable: from e, 64 × BASE + sO + IMM23 with its low 6 bits cleared, so many bytes (R289, R293). -/
def Sys2Proof.operandBlock (s : State) (o : LArr) (len : Nat) : SpBlock :=
  { rcd := o.rcd.toNat, start := 64 * ((64 * recBase (s.core.entry o.rcd.toNat) + (s.core.sreg o.o.toNat).toInt + o.imm23.toNat) / 64), len := len, write := false }

/-- The range check of an array operand: any byte outside the scratchpad, with e, the operand's start, as its value (R289, R292). -/
def Sys2Proof.operandRange (b : SpBlock) : Option SpFault := if b.start < 0 ∨ 6291456 < b.start + b.len then some (0x21, BitVec.ofInt 64 b.start) else none

/-- Does the partner of the core at turn hold exclusive mode (R163, R295)? -/
def Sys2Proof.partnerExclusive (s : State) : Prop :=
  s.core.sys.amode = 3 ∨ ∃ p, coreOf s (if s.core.seat.cid % 2 = 0 then s.core.seat.cid + 1 else s.core.seat.cid - 1) = some p ∧ p.seat.live = true ∧ p.sys.amode = 2

/-- The element of a tile, an accumulator word x, as an operand of the syllable's format under the scale code e (R289): an i32 wrapped or saturated for .q, an f32 divided by the scale for an MX format, code 0 under the NaN scale (log 28), else converted. -/
def Sys2Proof.tileElement (s : State) (h : Hdr) (e : Byte) (x : Lane) : Nat :=
  let fit := fun (int : Bool) (v : Val) => fitVal (hFmt h) s.core.q (hMode h) 0 int v
  if (hFmt h).isIntLike then fit true (Val.ofInt x.toInt)
  else if (hFmt h).isMx then (if e = 0xFF then 0 else fit false ((f32Val x.toNat).scale (127 - (e.toNat : Int))))
  else fit false (f32Val x.toNat)

/-- R286, R287, R289, R292, R293: MMA, MMAC and LDW trap by the first of their checks that fails, a range trap carrying the operand's start e; else MMA and MMAC start a job of 16 row blocks on the rows of the scratchpad block or of the converted tile, or of one row block on the sixteen samples of a tap window, and LDW loads the weight buffer, with the scales of an MX format, and occupies the array for 8(KST + 1) cycles. What a tile operand reads in a cycle of landings, and its code under the NaN scale, are the model's readings (log 28); that LDW's scoreboard goes down at the end of its occupancy is the model's choice (log 36). -/
def Obligations.MatrixSyllablesComplete : Prop := ∀ (h : Hdr) (o : LArr) (s : State) (taken : Option SpFault),
  (partnerExclusive s → taken = some (0x24, 0)) → (¬partnerExclusive s → taken = none) →
  let w := (hFmt h).width s.core.q
  let K := o.kst.toNat + 1
  let scales := if (hFmt h).isMx then (List.range K).map fun t => (List.range 256).map fun r => s.core.regs.sc.get (256 * (o.sc.toNat + t) + r) else []
  let fails := fun (i : Instr) (l : List (Option SpFault)) => ∀ f, firstFault l = some f → TrapsHere i s 8 f.1 f.2
  (Admitted (.mma h o) s → o.srck = 0 →
    let b := operandBlock s o (256 * (4 * w * K))
    let checks := [taken, s.core.recordFault b.rcd, operandRange b, s.core.weightFault o, s.core.blockLost b]
    fails (.mma h o) checks ∧ (firstFault checks = none →
      StartsJob (.mma h o) h o s (touchBlock (readGranules s s.core.seat.cid (s.core.blockGranules b)) b) 16 w (s.core.blockRows b (4 * w * K)))) ∧
  (Admitted (.mma h o) s → o.srck ≠ 0 →
    let a := (o.imm23.extractLsb' 0 16).toNat
    let checks := [taken, (s.core.tapCheck o.rcd.toNat 0 [] a (a + 15)).map fun code => (code, tapFaultValue o.rcd.toNat (a + 15)), s.core.weightFault o]
    fails (.mma h o) checks ∧ (firstFault checks = none → ∃ g, s.core.sig o.rcd.toNat = some g ∧
      StartsJob (.mma h o) h o s s 1 ((hFmt h).slotBits s.core.q) ((List.range 16).map fun i => g.rowString s.core.sys.now (a + i)))) ∧
  (Admitted (.mmac h o) s →
    fails (.mmac h o) [taken, s.core.weightFault o] ∧ (firstFault [taken, s.core.weightFault o] = none → ∃ rows : List Nat, rows.length = 256 ∧
      StartsJob (.mmac h o) h o s s 16 w rows ∧ ∀ r k, r < 256 → k < 32 * K →
        bits (nth rows r 0) (w * k + w - 1) (w * k) = tileElement s h (nth (nth scales (k / 32) []) r 0x7F) (s.core.regs.m.get (accKey o.ms.toNat r k)) % 2 ^ w)) ∧
  (Admitted (.ldw h o) s → let b := operandBlock s o (32 * K * (32 * w))
    let checks := [taken, s.core.recordFault b.rcd, operandRange b, s.core.blockLost b]
    fails (.ldw h o) checks ∧ (firstFault checks = none → ∃ s1 : State, Completes (.ldw h o) s s1 (some (arrayCycles s (8 * K))) ∧
      s1.core.regs = s.core.regs ∧ s1.core.pipe.arrayFree = s.core.pipe.cyc + arrayCycles s (8 * K) ∧ s1.core.wbuf.fcode = some (fcodeOf h.fmt) ∧
      s1.core.wbuf.kst = o.kst.toNat ∧ s1.core.wbuf.fmtr = s.core.sys.fmtr ∧ s1.core.wbuf.rows = s.core.blockRows b (32 * w) ∧ s1.core.wbuf.scales = scales))

/-- R88, R99, R100, R290: a K-step of an integer job adds the exact sum of the products, wrapped or saturated; one of a float job gives the canonical NaN where an operand, a product or a scale of an MX format is NaN or infinite products differ in sign, adds the one infinity of its products, or adds the exact sum times both scales rounded once to f32 and rounds again; every other word of the tiles keeps its value. -/
def Obligations.MatrixCommit : Prop := ∀ (c : StreamCore) (j : Job) (t g : Nat), c.jobs.find? (fun x => x.uid == j.uid) = some j → j.rows.length = 256 → g < 16 →
  let u := c.apply (.commit j.uid t g)
  let a := fun r k => nth (rowCodes j.aw (nth j.rows r 0) t) k 0
  let b := fun n k => j.w.code (32 * t + k) n
  (j.fa.isIntLike = true → ∀ i n, i < 16 → n < 256 →
    let r := 16 * g + i
    let x := (c.regs.m.get (accKey j.mt r n)).toInt + ((List.range 32).map fun k => readInt j.fa j.qa (a r k) * readInt j.w.fmt j.w.q (b n k)).foldl (· + ·) 0
    u.regs.m.get (accKey j.mt r n) = BitVec.ofInt 32 (if j.sat then max (-2147483648) (min x 2147483647) else x)) ∧
  (j.fa.isIntLike = false → ∀ i n, i < 16 → n < 256 →
    let r := 16 * g + i
    let ps := (List.range 32).map fun k => (decodeElem j.fa j.qa (a r k)).mul (decodeElem j.w.fmt j.w.q (b n k))
    let sa : Byte := if j.fa.isMx then nth (nth j.scales t []) r 0 else 0x7F
    let sb : Byte := if j.w.fmt.isMx then nth (nth j.w.scales t []) n 0 else 0x7F
    let adds := fun (blk : Val) => u.regs.m.get (accKey j.mt r n) = BitVec.ofNat 32 (f32Of j.sat ((f32Val (c.regs.m.get (accKey j.mt r n)).toNat).add blk))
    let bad := sa = 0xFF ∨ sb = 0xFF ∨ (∃ p ∈ ps, p.isNan = true) ∨ (Val.inf true ∈ ps ∧ Val.inf false ∈ ps)
    (bad → u.regs.m.get (accKey j.mt r n) = 0x7FC00000) ∧
    (¬bad → (∀ neg, Val.inf neg ∈ ps → adds (.inf neg)) ∧
      ((∀ p ∈ ps, p.isInf = false) → adds (f32Val (f32Of j.sat ((Val.sum ps).scale ((sa.toNat : Int) - 127 + ((sb.toNat : Int) - 127)))))))) ∧
  (∀ q, (∀ i n, i < 16 → n < 256 → q ≠ accKey j.mt (16 * g + i) n) → u.regs.m.get q = c.regs.m.get q) ∧
  u = { c with regs := { c.regs with m := u.regs.m } }

/-- The accumulator word of lane L of the half-row an accumulator syllable names (R294). -/
def Sys2Proof.halfRowWord (s : State) (o : LArr) (L : Nat) : Nat :=
  let q := (((s.core.sreg o.o.toNat).toInt + o.imm23.toNat) % 512).toNat
  accKey o.mt.toNat (q / 2) (128 * (q % 2) + L)

/-- The array states of the core at turn and of its partner, if that is bound, once an MMODE is applied (R295). -/
def Sys2Proof.pairStates (s : State) (own other : Nat) : State :=
  let n := if s.core.seat.cid % 2 = 0 then s.core.seat.cid + 1 else s.core.seat.cid - 1
  { s with
    core := { s.core with sys := { s.core.sys with amode := own } }
    cores := if (coreOf s n).any fun p => p.seat.live then
        s.cores.map fun c => if c.seat.cid = n then { c with sys := { c.sys with amode := other, mmode := other, amodeSet := some s.wall } } else c
      else s.cores }

/-- R124, R286, R291, R294, R295: ACCRD completes with the half-row as the tiles stood before the cycle's landings in the masked clusters, ACCWR with a write of it, both at +4, ACCCLR with the tile's clearing at +2, doubled in alternate mode; MMODE traps where the partner holds exclusive mode, also one that held it before this core was dispatched, or has set this core's state on the same wall cycle, else this core's array state changes at once and MMODE is written at +1, and the partner's with it. What ACCRD reads in a cycle of landings, and that MMODE acts on both cores at issue, are the model's readings (logs 28 and 34). -/
def Obligations.AccumulatorSyllablesComplete : Prop := ∀ (h : Hdr) (o : LArr) (s : State),
  let v := (o.rcd.extractLsb' 0 6).toNat
  let q := halfRowWord s o
  (Admitted (.accrd h o) s → Lands (.accrd h o) s (arrayCycles s 4) (.vecs ((maskedLanes h).map fun L => (lanePlace s v L, s.core.tilesRead.get (q L))))) ∧
  (Admitted (.accwr h o) s → Lands (.accwr h o) s (arrayCycles s 4) (.acc ((maskedLanes h).map fun L => (q L, s.core.vlane v L)))) ∧
  (Admitted (.accclr h o) s → Lands (.accclr h o) s (arrayCycles s 2) (.accClear o.mt.toNat)) ∧
  (∀ (c : StreamCore) k, (c.apply (.accClear o.mt.toNat)).regs.m.get k = if k / 65536 = o.mt.toNat then 0 else c.regs.m.get k) ∧
  (let barred := partnerExclusive s ∨ s.core.sys.amodeSet = some s.wall
   (Admitted (.mmodeExcl h o) s → (barred → TrapsHere (.mmodeExcl h o) s 8 0x24 0) ∧
    (¬barred → Completes (.mmodeExcl h o) s ((pairStates s 2 3).fly (arrayCycles s 1) .mmode) (some (arrayCycles s 1)))) ∧
   (Admitted (.mmodeAlt h o) s → (barred → TrapsHere (.mmodeAlt h o) s 8 0x24 0) ∧
    (¬barred → Completes (.mmodeAlt h o) s ((pairStates s 0 0).fly (arrayCycles s 1) .mmode) (some (arrayCycles s 1)))))

/-! ### Scales, conversions, rearrangement -/

/-- R296, R297: SCLD completes at +6 with the 256 bytes of its block, or traps by the checks of R249 it shares, its record, its range and an uncorrectable granule; SCSET at +2 with eight entries from sA; SCMOV at +2 with all 256 entries of another scale register. That a range trap of SCLD carries the first byte outside is the model's reading (log 35). -/
def Obligations.ScaleSyllablesComplete : Prop := ∀ (h : Hdr) (o : LScl) (s : State),
  let reg := fun (n : Nat) => (List.range 256).map fun i => s.core.regs.sc.get (256 * n + i)
  let j := (((s.core.sreg o.o.toNat).toInt + o.imm23.toNat) % 32).toNat
  (Admitted (.scld h o) s → ∃ b, s.core.blockOf (.scld h o) = some b ∧ b.len = 256 ∧
    b.start = 64 * ((64 * recBase (s.core.entry o.rcd.toNat) + (s.core.sreg o.o.toNat).toInt + o.imm23.toNat) / 64) ∧
    (recAccess (s.core.entry o.rcd.toNat) = false → TrapsHere (.scld h o) s 7 0x20 (BitVec.ofNat 64 o.rcd.toNat)) ∧
    (recAccess (s.core.entry o.rcd.toNat) = true → b.start < 0 → TrapsHere (.scld h o) s 7 0x21 (BitVec.ofInt 64 b.start)) ∧
    (recAccess (s.core.entry o.rcd.toNat) = true → 0 ≤ b.start → 6291456 < b.start + 256 → TrapsHere (.scld h o) s 7 0x21 (BitVec.ofInt 64 (max b.start 6291456))) ∧
    (recAccess (s.core.entry o.rcd.toNat) = true → 0 ≤ b.start → b.start + 256 ≤ 6291456 →
      ∀ g, (s.core.blockGranules b).find? s.core.sp.lost = some g → TrapsHere (.scld h o) s 7 0x23 (BitVec.ofNat 64 (64 * g))) ∧
    (recAccess (s.core.entry o.rcd.toNat) = true → 0 ≤ b.start → b.start + 256 ≤ 6291456 → (s.core.blockGranules b).find? s.core.sp.lost = none →
      ∃ s1 : State, Completes (.scld h o) s (s1.fly 6 (.scale (withKeys (256 * o.sc.toNat) ((List.range 256).map fun i => readByte s (b.start.toNat + i))))) (some 6) ∧
        s1.core.regs = s.core.regs ∧ s1.core.sp.data = s.core.sp.data ∧ s1.core.dev = s.core.dev)) ∧
  (Admitted (.scset h o) s → Lands (.scset h o) s 2 (.scale (withKeys (256 * o.sc.toNat + 8 * j) (leBytes 8 (s.core.sreg o.a.toNat).toNat)))) ∧
  (Admitted (.scmov h o) s → Lands (.scmov h o) s 2 (.scale (withKeys (256 * o.sc.toNat) (reg (o.imm23.extractLsb' 0 4).toNat))))

/-- The source format of a conversion, and its source element for element x of a cluster, if it has one (R299). -/
def Sys2Proof.sourceFmt (o : LReg) : Fmt := (fmtOf o.b).getD .f32
def Sys2Proof.sourceElement (s : State) (h : Hdr) (o : LReg) (x : Nat) : Option Nat :=
  let ns := (sourceFmt o).perLane s.core.q
  let nd := (hFmt h).perLane s.core.q
  let p := o.sub.toNat % (max ns nd / min ns nd)
  if ns < nd then (if p * (16 * ns) ≤ x ∧ x < p * (16 * ns) + 16 * ns then some (x - p * (16 * ns)) else none)
  else if nd < ns then some (p * (16 * nd) + x)
  else some x
/-- The source elements that the lane L of the destination receives, in increasing order. -/
def Sys2Proof.received (s : State) (h : Hdr) (o : LReg) (L : Nat) : List Nat :=
  (List.range ((hFmt h).perLane s.core.q)).filterMap fun e => sourceElement s h o ((hFmt h).perLane s.core.q * (L % 16) + e)
/-- Source element i of a cluster. -/
def Sys2Proof.sourceCode (s : State) (o : LReg) (cl i : Nat) : Nat :=
  let w := (sourceFmt o).slotBits s.core.q
  nth (elemsOf w (s.core.vlane o.a.toNat (16 * cl + i / (32 / w)))) (i % (32 / w)) 0
/-- The conversion's result: each active lane that receives elements, with the codes `codes L` of its elements. -/
def Sys2Proof.converted (s : State) (h : Hdr) (o : LReg) (codes : Nat → List Nat) : Eff :=
  .vecs (((activeLanes s h o).filter fun L => received s h o L != []).map fun L => (lanePlace s o.d.toNat L, packElems ((hFmt h).slotBits s.core.q) (codes L)))

/-- R94, R95, R298 to R300: CVT and CVTQ complete at +3: every active lane that receives elements holds the exact source values, for CVTQ divided by their block's scale, fitted once each under the destination format and MODE, with the draws of the lane in increasing source element number; CVTQ also writes the eight codes to sC; under code 0xFF elements are 0x00. A part number is taken modulo the number of parts (log 42). -/
def Obligations.ConversionsComplete : Prop := ∀ (h : Hdr) (o : LReg) (s : State),
  let v := fun L i => decodeElem (sourceFmt o) s.core.q (sourceCode s o (L / 16) i)
  let codes8 := (List.range 8).map fun k => scaleCode (hFmt h) (s.core.regs.byp.get k)
  let block := fun L i => nth codes8 (((L / 16) * 16 * (sourceFmt o).perLane s.core.q + i) / 32) 0x7F
  let fitted := fun (val : Nat → Nat → Val) (L : Nat) (st : BitVec 32) => rounded (hFmt h) s.core.q (hMode h) (sourceFmt o).isIntLike st ((received s h o L).map (val L))
  let run := fun (i : Instr) (val : Nat → Nat → Val) (more : State → State) (each : Nat → List Nat → List Nat) => Admitted i s →
    ∃ g : Store 32, GensAfter s g (activeLane s h o) (fun L st => (fitted val L st).2) (hMode h) ∧
      Completes i s (more ((withGens s g).fly 3 (converted s h o fun L => each L (fitted val L (s.core.regs.gen.get L)).1))) (some 3)
  run (.cvt h o) v id (fun _ codes => codes) ∧
  run (.cvtq h o) (fun L i => if block L i = 0xFF then Val.zero else (v L i).scale (127 - ((block L i).toNat : Int)))
    (fun t => t.fly 3 (.sreg o.c.toNat (BitVec.ofNat 64 (leNat codes8))))
    (fun L codes => List.zipWith (fun i c => if block L i = 0xFF then 0 else c) (received s h o L) codes)

/-- Element (r, c) of the block that TRANS takes from the registers from vA on, in cluster cl (R301). -/
def Sys2Proof.blockElement (s : State) (h : Hdr) (o : LReg) (cl r c : Nat) : Nat :=
  let w := slotW s h
  let rows := if w = 8 then 4 else 2
  nth (elemsOf w (s.core.vlane (o.a.toNat + r / rows) (16 * cl + 16 / rows * (r % rows) + c / (32 / w)))) (c % (32 / w)) 0

/-- R301 to R305: TRANS, XCL, REGROUP, PACK, UNPACK and XBCAST complete at +6, +8, +6, +3, +3 and +8 with their rearranged words in the active lanes: the transposed block, the source cluster's lane or zero where that cluster is not masked, the window element or its edge, packed and unpacked 6-bit elements, the scale register's entries. -/
def Obligations.RearrangementsComplete : Prop := ∀ (h : Hdr) (o : LReg) (s : State),
  let w := slotW s h
  let n := 32 / w
  let rows := if w = 8 then 4 else 2
  let v := fun L => s.core.vlane o.a.toNat L
  let num := (s.core.bcommon o).toNat
  ((Instr.trans h o).wf = true → Admitted (.trans h o) s → Lands (.trans h o) s 6 (.vecs ((List.range (if w = 16 then 8 else 4)).flatMap fun i => (activeLanes s h o).map fun L =>
    (lanePlace s (o.d.toNat + i) L, packElems w ((List.range n).map fun e =>
      blockElement s h o (L / 16) (n * (L % 16 % (16 / rows)) + e) (rows * i + L % 16 / (16 / rows))))))) ∧
  (Admitted (.xcl h o) s → Lands (.xcl h o) s 8 (vectorOf s h o fun L =>
    let src := if o.sub = 0 then (L / 16 + num) % 8 else if o.sub = 1 then (L / 16) ^^^ (num % 8) else ((s.core.sreg o.b.toNat) >>> (3 * (L / 16))).toNat % 8
    if h.cmask.getLsbD src then v (16 * src + L % 16) else 0)) ∧
  (Admitted (.regroup h o) s → Lands (.regroup h o) s 6 (vectorOf s h o fun L => packElems w ((List.range n).map fun e =>
    let C := 2 ^ (o.sub.extractLsb' 2 2).toNat
    let src : Int := (L % 16 : Nat) + (e / C : Nat) - ((o.imm.extractLsb' 0 4).toNat : Int)
    let pick := fun (j : Int) => nth (codes s h (v (16 * (L / 16) + j.toNat))) (e % C) 0
    let edge := o.sub.extractLsb' 0 2
    if 0 ≤ src ∧ src ≤ 15 then pick src
    else if edge = 0 then 0
    else if edge = 1 then (s.core.sreg o.b.toNat).toNat % 2 ^ w
    else if edge = 2 then pick (if src < 0 then -src else 30 - src)
    else pick (if src < 0 then 0 else 15)))) ∧
  (Admitted (.pack h o) s → ∃ f : Nat → Lane, Lands (.pack h o) s 3 (vectorOf s h o f) ∧ (∀ cl j, cl < 8 → 12 ≤ j → j < 16 → f (16 * cl + j) = 0) ∧ ∀ cl i b, cl < 8 → i < 64 → b < 6 →
    (f (16 * cl + (6 * i + b) / 32)).getLsbD ((6 * i + b) % 32) = (v (16 * cl + i / 4)).getLsbD (8 * (i % 4) + b)) ∧
  (Admitted (.unpack h o) s → ∃ f : Nat → Lane, Lands (.unpack h o) s 3 (vectorOf s h o f) ∧ ∀ cl i b, cl < 8 → i < 64 → b < 8 →
    (f (16 * cl + i / 4)).getLsbD (8 * (i % 4) + b) = (if b < 6 then (v (16 * cl + (6 * i + b) / 32)).getLsbD ((6 * i + b) % 32) else false)) ∧
  (Admitted (.xbcast h o) s → ∃ f : Nat → Lane, Lands (.xbcast h o) s 8 (vectorOf s h o f) ∧ ∀ cl j, cl < 8 →
    (j < 8 → ∀ e, e < 4 → (f (16 * cl + j)).extractLsb' (8 * e) 8 = s.core.regs.sc.get (256 * o.a.toNat + 32 * cl + 4 * j + e)) ∧
    (8 ≤ j → j < 16 → f (16 * cl + j) = 0))

/-! ### Device memory -/

/-- Offset and bytes of a scalar access to device memory (R311). -/
def Sys2Proof.devOffset (s : State) (o : LEmem) : Int := (s.core.sreg o.o.toNat).toInt + o.imm24.toNat
def Sys2Proof.devBytes (o : LEmem) : Nat := 2 ^ o.sz.toNat

/-- The extent an access names. -/
def Sys2Proof.devExtent (s : State) (o : LEmem) : Ext := nth s.core.dev.exts o.x.toNat Ext.none

/-- The access passes R62 and, where it must be aligned, R314. -/
def Sys2Proof.DevPasses (s : State) (o : LEmem) (rights : Ext → Bool) (promised aligned : Bool) : Prop :=
  let e := devExtent s o
  o.x.toNat < 16 ∧ e.declared = true ∧ 0 ≤ devOffset s o ∧ devOffset s o + devBytes o ≤ e.len ∧ rights e = true ∧
  (promised = true → e.lcreq ≠ 3 ∧ e.perAccess = false) ∧ (aligned = true → devOffset s o % devBytes o = 0)

/-- TVAL of the checks of R62: the extent and the low bits of the offset. -/
def Sys2Proof.devValue (s : State) (o : LEmem) : Word := xoWord o.x.toNat (devOffset s o)

/-- Where an access traps, by R62 and R314 in their order: extent not declared, offset outside, a right missing, a promise the extent cannot give, misaligned. -/
def Sys2Proof.DevTraps (i : Instr) (s : State) (o : LEmem) (rights : Ext → Bool) (promised aligned : Bool) : Prop :=
  let e := devExtent s o
  let declared := o.x.toNat < 16 ∧ e.declared = true
  let inside := 0 ≤ devOffset s o ∧ devOffset s o + devBytes o ≤ e.len
  let promise := promised = true → e.lcreq ≠ 3 ∧ e.perAccess = false
  (¬declared → TrapsHere i s 9 0x09 (devValue s o)) ∧
  (declared → ¬inside → TrapsHere i s 9 0x0A (devValue s o)) ∧
  (declared → inside → rights e = false → TrapsHere i s 9 0x0B (devValue s o)) ∧
  (declared → inside → rights e = true → ¬promise → TrapsHere i s 9 0x0C (devValue s o)) ∧
  (declared → inside → rights e = true → promise → aligned = true → devOffset s o % devBytes o ≠ 0 → TrapsHere i s 9 0x10 (devValue s o))

/-- Rights of the accesses. -/
def Sys2Proof.mayRead (e : Ext) : Bool := e.rd
def Sys2Proof.mayWrite (e : Ext) : Bool := e.wr
def Sys2Proof.mayAtomic (e : Ext) : Bool := e.at_

/-- R62, R311, R313, R314: every scalar access to device memory that fails a check of R62, and every atomic that is not aligned, traps with the cause of the first check that fails, the extent and the offset. -/
def Obligations.DeviceAccessTraps : Prop := ∀ (h : Hdr) (o : LEmem) (s : State),
  (Admitted (.ldd h o) s → DevTraps (.ldd h o) s o mayRead false false) ∧ (Admitted (.lddP h o) s → DevTraps (.lddP h o) s o mayRead true false) ∧
  (Admitted (.lddAcq h o) s → DevTraps (.lddAcq h o) s o mayRead false false) ∧ (Admitted (.std h o) s → DevTraps (.std h o) s o mayWrite false false) ∧
  (Admitted (.stdRel h o) s → DevTraps (.stdRel h o) s o mayWrite false false) ∧
  (∀ i, i ∈ [Instr.atomAdd h o, .atomAnd h o, .atomOr h o, .atomXor h o, .atomMin h o, .atomMax h o, .atomSwp h o, .atomCas h o, .cas128 h o] → Admitted i s →
    DevTraps i s o mayAtomic false true)

/-- The access `i` has put in flight: its operands as read at issue, its result, if it has one, still to come. -/
def Sys2Proof.AccessInFlight (s : State) (h : Hdr) (o : LEmem) (kind : VarKind) (v : VarOp) : Prop :=
  v.seq = s.core.pipe.seq ∧ v.kind = kind ∧ v.x = o.x.toNat ∧ (v.off : Int) = devOffset s o ∧ v.n = devBytes o ∧ v.d = o.d.toNat ∧ v.sg = scalarSg (hFmt h) ∧
  v.a = s.core.sreg o.a.toNat ∧ v.b = s.core.sreg o.b.toNat ∧ (kind = .cas128 → v.c = (s.core.sreg (o.d.toNat + 1)).toNat * 2 ^ 64 + (s.core.sreg o.d.toNat).toNat) ∧
  v.sb = (if h.sbv then some h.sbi.toNat else none) ∧ v.scope = o.scope.toNat ∧ v.ord = o.ord.toNat ∧ s.wall + 1 ≤ v.due

/-- `i` completes with nothing done but an access put in flight, to be performed and to land at times of its own (R115, R131, R174). -/
def Sys2Proof.PutsInFlight (i : Instr) (s : State) (h : Hdr) (o : LEmem) (kind : VarKind) : Prop :=
  ∃ v n, AccessInFlight s h o kind v ∧ v.stage = .issued ∧
    Completes i s { s with draws := n, core := { s.core with dev := { s.core.dev with vars := s.core.dev.vars ++ [v] } } } none

/-- R106: what a plain load at place `seq` in program order reads at a location: the latest own pending store to it, else the newest own write to it that is newer than the snapshot, else the snapshot; and a load that has waited for its page reads what it would have read at issue. -/
def Sys2Proof.PlainLoadRule : Prop :=
  (∀ (s : State) (c : StreamCore) (seq pa : Nat),
    let counts := fun (w : OwnWrite) => w ∈ c.dev.own ∧ w.pa = pa ∧ c.dev.snapStamp < w.stamp ∧ w.seq < seq
    (∀ pre b post, pendBytes s c seq = pre ++ (pa, b) :: post → (∀ b', (pa, b') ∉ post) → plainByte s c seq pa = b) ∧
    ((∀ b, (pa, b) ∉ pendBytes s c seq) →
      (∀ w, counts w → (∀ u, counts u → u = w ∨ u.seq < w.seq) → plainByte s c seq pa = w.val) ∧
      ((∀ w, ¬counts w) → plainByte s c seq pa = peek c.dev.snap pa))) ∧
  ∀ (s s1 : State) (cid : Nat) (c : StreamCore) (v : VarOp) (pas : List Nat), coreOf s cid = some c → v.kind = .load → access s c v.x v.off v.n needRead = (.ok pas, s1) →
    (∀ x, v.fixed = some x → perform s cid v = (.value x, s1)) ∧
    ∀ w, v.fixed = none → v.view = some w → ∃ d : StreamCore, perform s cid v = (.value (leNat (pas.map (plainByte s1 d v.seq))), s1) ∧
      d.dev.snap = w.snap ∧ d.dev.snapStamp = w.snapStamp ∧ d.dev.own = w.own ∧ d.dev.pend = w.pend ∧ d.dev.late = []

/-- The state with one more free value used and the core's view of device memory changed. -/
def Sys2Proof.withView (s : State) (f : DevView → DevView) : State := { s with core := { s.core with dev := f s.core.dev } }

/-- R57, R65, R106, R311, R312: plain loads that pass the checks complete, no earlier acquire of the core being open. Where the model's lookup gives the places of the bytes, LDD has an access in flight that has its value, and LDD.P a result at the cycle its extent promises; where it refuses, LDD leaves a failure to report, and LDD.P's result is zero and failed; where a request asks for the page or the page is held, LDD waits with what it reads fixed, and LDD.P's result is held with the value of the places known. An LDD of a TICK group looks up no page as it issues, and an LDD.P of one starts no walk of a marked run: the former has an access in flight still to be performed, with what it reads fixed, and the latter's result is held (R108, R374; the model's reading, log 15). What a value read at issue on a page still to come is, and that a refused LDD.P fails as one that has timed out (R64, R71), are the model's readings (logs 26 and 30). -/
def Sys2Proof.PlainLoadsComplete : Prop := ∀ (h : Hdr) (o : LEmem) (s s1 : State) (off : Nat), (off : Int) = devOffset s o →
  (∀ v ∈ s.core.dev.vars, v.acquires = false ∨ v.isOpen = false) →
  let n := devBytes o
  let seq := s.core.pipe.seq
  let launches := fun (u : State) (st : VarStage) (fixed : Option Nat) (view : Option LoadView) => ∃ v, AccessInFlight s h o .load v ∧ v.stage = st ∧ v.fixed = fixed ∧ v.view = view ∧
    Completes (.ldd h o) s (withView { u with draws := u.draws + 1 } fun d => { d with vars := d.vars ++ [v] }) none
  let known := (placesOf s s.core o.x.toNat off n).map fun pas => leNat (pas.map (plainByte s s.core seq))
  let waits := s.core.pipe.ticks = true ∧ ∃ p ∈ pieces ((devExtent s o).base + off) n, ∃ r, s.core.dev.runAt o.x.toNat p.1 = some r ∧ r.marked = true
  let value := fun (pas : List Nat) => ext64 (8 * n) (scalarSg (hFmt h)) (leNat (pas.map (plainByte s s.core seq)))
  let cycles := if (devExtent s o).lcreq = 0 then 700 else if (devExtent s o).lcreq = 1 then 1000 else 6000
  let promises := fun (u : State) (v : Word) (held failed : Bool) => ∃ q : Promise, s.wall ≤ q.arrive ∧ q.arrived = false ∧ q.held = held ∧ q.failed = failed ∧ q.xo = devValue s o ∧ q.pos = s.core.pipe.gpos ∧
    Completes (.lddP h o) s ({ u with draws := u.draws + 1 }.onPipe fun p => { p with flights := p.flights ++ [{ inFlight s cycles (.sreg o.d.toNat v) with late := some q }] }) (some cycles)
  (Admitted (.ldd h o) s → DevPasses s o mayRead false false → s.core.pipe.ticks = true → launches s .issued known (some s.core.dev.asRead)) ∧
  (Admitted (.ldd h o) s → DevPasses s o mayRead false false → s.core.pipe.ticks = false →
    (∀ pas, access s s.core o.x.toNat off n needRead = (.ok pas, s1) → launches s1 (.performed (leNat (pas.map (plainByte s1 s.core seq)))) none none) ∧
    (∀ d, access s s.core o.x.toNat off n needRead = (.error (.refused d), s1) → Completes (.ldd h o) s
      (withView s1 fun v => { v with fails := v.fails ++ [{ seq := seq, cause := 0x0E, detail := d, tval := devValue s o, sb := if h.sbv then some h.sbi.toNat else none }] }) none) ∧
    (∀ q, access s s.core o.x.toNat off n needRead = (.error (.request q), s1) → launches s1 (.resolving (some q)) none (some s.core.dev.asRead)) ∧
    (access s s.core o.x.toNat off n needRead = (.error .hold, s1) → launches s1 (.resolving none) known (some s.core.dev.asRead))) ∧
  (Admitted (.lddP h o) s → DevPasses s o mayRead true false → waits → ∀ pas, placesOf s s.core o.x.toNat off n = some pas → promises s (value pas) true false) ∧
  (Admitted (.lddP h o) s → DevPasses s o mayRead true false → ¬waits →
    (∀ pas, access s s.core o.x.toNat off n needRead = (.ok pas, s1) → promises s1 (value pas) false false) ∧
    (∀ d, access s s.core o.x.toNat off n needRead = (.error (.refused d), s1) → promises s1 0 false true) ∧
    (access s s.core o.x.toNat off n needRead = (.error .hold, s1) → ∀ pas, placesOf s s.core o.x.toNat off n = some pas → promises s1 (value pas) true false))

/-- R65, R110, R313: STD that passes the checks completes: with a pending store of its phase, also where a request asks for its page or the page is held, or with a failure to report where the model's lookup refuses it; at 65,536 pending stores it traps. One of a TICK group pends with no page looked up (R108, R374; the model's reading, log 15). -/
def Sys2Proof.PlainStoresComplete : Prop := ∀ (h : Hdr) (o : LEmem) (s s1 : State) (off : Nat), (off : Int) = devOffset s o → Admitted (.std h o) s → DevPasses s o mayWrite false false →
  let found := access s s.core o.x.toNat off (devBytes o) needWrite
  let pends := fun (u : State) (req : Option Nat) => Completes (.std h o) s (withView u fun v => { v with pend := v.pend ++
    [{ seq := s.core.pipe.seq, phase := s.core.seat.boundary + s.core.seat.arrivals.length, x := o.x.toNat, off := off, bytes := leBytes (devBytes o) (s.core.sreg o.a.toNat).toNat, req := req }] }) (some 1)
  (65536 ≤ s.core.dev.pend.length → TrapsHere (.std h o) s 9 0x11 (devValue s o)) ∧
  (s.core.dev.pend.length < 65536 → s.core.pipe.ticks = true → pends s none) ∧
  (s.core.dev.pend.length < 65536 → s.core.pipe.ticks = false →
    (∀ pas, found = (.ok pas, s1) → pends s1 none) ∧ (found = (.error .hold, s1) → pends s1 none) ∧ (∀ q, found = (.error (.request q), s1) → pends s1 (some q)) ∧
    ∀ d, found = (.error (.refused d), s1) → Completes (.std h o) s
      (withView s1 fun v => { v with fails := v.fails ++ [{ seq := s.core.pipe.seq, cause := 0x0E, detail := d, tval := devValue s o, sb := none }] }) (some 1))

/-- R115, R116, R312 to R314: LDD.ACQ, STD.REL and the atomics that pass the checks complete with an access in flight and nothing else. When an access is performed is free (logs 4 and 29). -/
def Sys2Proof.OrderedAccessesComplete : Prop := ∀ (h : Hdr) (o : LEmem) (s : State),
  (Admitted (.lddAcq h o) s → DevPasses s o mayRead false false → PutsInFlight (.lddAcq h o) s h o .acquire) ∧
  (Admitted (.stdRel h o) s → DevPasses s o mayWrite false false → PutsInFlight (.stdRel h o) s h o .release) ∧
  (∀ i k, (i, k) ∈ [(Instr.atomAdd h o, 0), (.atomAnd h o, 1), (.atomOr h o, 2), (.atomXor h o, 3), (.atomMin h o, 4), (.atomMax h o, 5), (.atomSwp h o, 6), (.atomCas h o, 7)] →
    Admitted i s → DevPasses s o mayAtomic false true → PutsInFlight i s h o (.atom k)) ∧
  (Admitted (.cas128 h o) s → DevPasses s o mayAtomic false true → PutsInFlight (.cas128 h o) s h o .cas128)

/-- Which core, bench or die a scope is as core `c` sees it, and whether it includes core `d` (R112). -/
def Sys2Proof.scopeName (c scope : Nat) : Nat × Nat := (scope, if scope = 0 then c else if scope = 1 then c / 16 else if scope = 2 then c / 64 else 0)
def Sys2Proof.Includes (c scope d : Nat) : Prop := (scope = 0 → c = d) ∧ (scope = 1 → c / 16 = d / 16) ∧ (scope = 2 → c / 64 = d / 64)

/-- The last of the writes of a list that satisfy `p` to one location, and where there is none, what stands there. -/
def Sys2Proof.LastOf (ls : List LimitedWrite) (p : LimitedWrite → Prop) (pa : Nat) (dflt got : Byte) : Prop :=
  (∀ pre l post, ls = pre ++ l :: post → l.pa = pa → p l → (∀ k ∈ post, k.pa = pa → ¬p k) → got = l.val) ∧ ((∀ l ∈ ls, l.pa = pa → ¬p l) → got = dflt)

/-- R103, R105, R107, R114, R117: an LDD.ACQ that is performed leaves the snapshot as current memory at its scope: the last write of each location that is current there; no own write counts beside it, and with no store pending the register gets the location's value of the snapshot. At a narrower scope no write enters or leaves current memory at system scope, and writes become current at the acquire's scope only, for every reader at it: each that the core is promised, or has read before, does. At system scope what it finds enters current memory in coherence order. That what one core has read at a scope is current there for every reader at it, and at system scope where the core acquires there, is the model's reading (log 12). -/
def Sys2Proof.AcquireRule : Prop := ∀ (s s1 : State) (i : Nat) (v : VarOp) (pas : List Nat),
  s.core.dev.vars[i]? = some v → v.stage = .issued → v.kind = .acquire → s.core.seat.live = true → v.scope ≤ 4 → access s s.core v.x v.off v.n needRead = (.ok pas, s1) →
  let cid := s.core.seat.cid
  let here := scopeName cid v.scope
  let promised := fun (l : LimitedWrite) => l.cid = cid ∨ cid ∈ l.seen ∨ here ∈ l.current ∨ (Includes l.cid l.scope cid ∧ Includes cid v.scope l.cid)
  ∃ t, exec (.variableResultLanding i) s = .next t ∧ t.core.dev.own = [] ∧ t.core.dev.snapStamp = t.stamp ∧
    (∀ pa, LastOf t.limited (fun l => here ∈ l.current) pa (peek t.mem pa) (peek t.core.dev.snap pa)) ∧
    (s.core.dev.pend = [] → s.core.dev.late = [] → ∀ r, t.core.sreg r = if r = v.d ∧ r ≠ 0 then ext64 (8 * v.n) v.sg (leNat (pas.map (peek t.core.dev.snap))) else s.core.sreg r) ∧
    (v.scope < 4 → t.mem = s1.mem ∧ t.limited.length = s1.limited.length ∧ ∀ (k : Nat) (l l' : LimitedWrite), s1.limited[k]? = some l → t.limited[k]? = some l' →
      l' = { l with seen := l'.seen, current := l'.current } ∧ (l' = l ∨ (cid ∈ l'.seen ∧ here ∈ l'.current)) ∧ (∀ a, a ∈ l'.current ↔ a ∈ l.current ∨ (a = here ∧ a ∈ l'.current)) ∧
      (promised l → here ∈ l'.current)) ∧
    (v.scope = 4 → ∃ found : LimitedWrite → Prop, (∀ l ∈ s1.limited, promised l → found l) ∧ (∀ l ∈ t.limited, l ∈ s1.limited ∧ ¬found l) ∧
      ∀ pa, LastOf s1.limited found pa (peek s1.mem pa) (peek t.mem pa))

/-- R57, R64, R65, R71, R103 to R107, R113 to R117, R311 to R314: accesses that pass the checks complete as said, what a plain load reads, and what an acquire takes. That LDD.P on a refused page has a zero result that has failed at once is the model's reading of R64 and R71 (log 30). That a plain load does not see its core's own STD.REL which has not been performed is the model's choice (log 53), and that an own current write counts only where it is newer than the snapshot its reading of R106 (log 45). -/
def Obligations.DeviceAccessesComplete : Prop := PlainLoadsComplete ∧ PlainStoresComplete ∧ OrderedAccessesComplete ∧ PlainLoadRule ∧ AcquireRule

/-! ### Engine commands -/

/-- `i` completes with its command in flight: its tag becomes pending when the group has committed, the command waits for the commands that are to set its consumed tags, and for its locks (R307 to R309, R51). -/
def Sys2Proof.Queues (i : Instr) (s : State) (o : LEcmd) (cls : Nat) (kind : CmdKind → Prop) : Prop :=
  ∃ (s1 : State) (k : Cmd), Completes i s s1 (some 1) ∧ s1.core.dev.cmds = s.core.dev.cmds ++ [k] ∧ k.uid = s.uid ∧ k.seq = s.core.pipe.seq ∧ k.tag = o.tp.toNat ∧ k.cls = cls ∧
    k.stage = .queued ∧ kind k.kind ∧ s.wall + 1 ≤ k.due ∧ s1.core.pipe.after = s.core.pipe.after ++ [.tagPend (BitVec.ofNat 64 (2 ^ o.tp.toNat))] ∧
    (∀ x ∈ s.core.dev.cmds, x.tag ∈ consumedTags o → s.core.regs.tagPend.getLsbD x.tag = true → x.uid ∈ k.waits) ∧
    s1.core.regs = s.core.regs ∧ s1.core.sp.data = s.core.sp.data ∧ s1.core.sys = s.core.sys ∧ s1.mem = s.mem

/-- Checks made in order: the first that fails traps at class 9 with its cause and value; where all hold, `done` does. -/
def Sys2Proof.ChecksInOrder (i : Instr) (s : State) (done : Prop) : List (Prop × Nat × Word) → Prop
  | [] => done
  | (ok, code, tval) :: rest => (¬ok → TrapsHere i s 9 code tval) ∧ (ok → Sys2Proof.ChecksInOrder i s done rest)

/-- The record operand is a buffer, and a compressed one where it must be (R315). -/
def Sys2Proof.bufferCheck (s : State) (r : Nat) (comp : Bool) : Prop × Nat × Word :=
  (recKind (s.core.entry r) = 1 ∧ (comp = true → recComp (s.core.entry r) = true), 0x20, BitVec.ofNat 64 r)
/-- The range is inside the declared extent, which grants the right (R62, R315). -/
def Sys2Proof.deviceChecks (s : State) (x : Nat) (off : Int) (n : Nat) (right : Ext → Bool) : List (Prop × Nat × Word) :=
  let e := nth s.core.dev.exts x Ext.none
  [(x < 16 ∧ e.declared = true, 0x09, xoWord x off), (0 ≤ off ∧ off + n ≤ e.len, 0x0A, xoWord x off), (right e = true, 0x0B, xoWord x off)]
/-- The range is inside the scratchpad (R315). -/
def Sys2Proof.scratchChecks (e : Int) (n : Nat) : List (Prop × Nat × Word) :=
  [(n = 0 ∨ 0 ≤ e, 0x21, BitVec.ofInt 64 e), (n = 0 ∨ e + n ≤ 6291456, 0x21, BitVec.ofInt 64 (max e 6291456))]
/-- The scratchpad place of an offset in a record's buffer (R36). -/
def Sys2Proof.spPlace (s : State) (r : Nat) (off : Int) : Int := 64 * recBase (s.core.entry r) + off

/-- R307 to R310, R315 to R317: a copy whose checks hold completes with a copy command of class 1 in flight, from its source to its destination, of the length of sC; CPYM with the two nests of sC. The first check that fails traps: the record operands, the nests, the extents and the ranges in them, the ranges in the scratchpad, and for CPY.D2T the signal and its face. When the command starts is free (log 4); that a range trap in the scratchpad carries the first byte outside it is the model's reading (log 35). -/
def Obligations.CopyCommandsComplete : Prop := ∀ (h : Hdr) (o : LEcmd) (s : State),
  let x := o.x.toNat
  let x2 := (o.rec2.extractLsb' 0 4).toNat
  let r1 := o.rec1.toNat
  let r2 := o.rec2.toNat
  let a := (s.core.sreg o.a.toNat).toInt
  let b := (s.core.sreg o.b.toNat).toInt
  let n := (s.core.sreg o.c.toNat).toNat
  let src := spPlace s r1 a
  let dst := spPlace s r2 b
  let buf := bufferCheck s
  let dev := deviceChecks s
  let copies := fun (i : Instr) (from_ to_ : CopyEnd) (comp : Bool) (checks : List (Prop × Nat × Word)) =>
    Admitted i s → ChecksInOrder i s (Queues i s o 1 fun k => k = .copy from_ to_ n none comp (0, 0)) checks
  copies (.cpyD2s h o) (.device x a) (.scratch dst) false ([buf r2 false] ++ dev x a n mayRead ++ scratchChecks dst n) ∧
  copies (.cpyS2d h o) (.scratch src) (.device x b) false ([buf r1 false] ++ dev x b n mayWrite ++ scratchChecks src n) ∧
  copies (.cpyD2d h o) (.device x a) (.device x2 b) false (dev x a n mayRead ++ dev x2 b n mayWrite) ∧
  copies (.cpyS2s h o) (.scratch src) (.scratch dst) false ([buf r1 false, buf r2 false] ++ scratchChecks src n ++ scratchChecks dst n) ∧
  copies (.cpyD2sz h o) (.device x a) (.scratch dst) true ([buf r2 true] ++ dev x a n mayRead ++ scratchChecks dst n) ∧
  copies (.cpyS2sz h o) (.scratch src) (.scratch dst) true ([buf r1 false, buf r2 true] ++ scratchChecks src n ++ scratchChecks dst n) ∧
  copies (.cpyD2t h o) (.device x a) (.face r2) false (dev x a n mayRead ++
    [(∃ g, s.core.sig r2 = some g, 0x18, BitVec.ofNat 64 (r2 * 2 ^ 56)),
     (∃ g, s.core.sig r2 = some g ∧ g.bridged = true ∧ 0 ≤ faceIndex g s.core.sys.now ∧ n = g.sampleBytes, 0x1B, BitVec.ofNat 64 (r2 * 2 ^ 56))]) ∧
  (Admitted (.cpym h o) s →
    let ns := n % 256
    let nd := n / 256 % 256
    let len := n / 65536 % 16777216
    let hs := nestHull (s.core.entry ns)
    let hd := nestHull (s.core.entry nd)
    let ends := if o.sub = 0 then (CopyEnd.device x a, CopyEnd.scratch dst) else if o.sub = 1 then (.scratch src, .device x b)
      else if o.sub = 2 then (.device x a, .device x2 b) else (.scratch src, .scratch dst)
    let inExtent := fun (e : CopyEnd) (hull : Int × Int) (right : Ext → Bool) => match e with
      | .device x off => dev x (off + hull.1) ((hull.2 - hull.1).toNat + len) right
      | _ => []
    let inScratch := fun (e : CopyEnd) (hull : Int × Int) => match e with
      | .scratch at_ => scratchChecks (at_ + hull.1) ((hull.2 - hull.1).toNat + len)
      | _ => []
    let nest := fun (r : Nat) => (recKind (s.core.entry r) = 3, 0x20, BitVec.ofNat 64 r)
    ChecksInOrder (.cpym h o) s
      (Queues (.cpym h o) s o 1 fun k => k = .copy ends.1 ends.2 len (some (BitVec.ofNat 256 (s.core.entry ns), BitVec.ofNat 256 (s.core.entry nd))) false (ns, nd))
      ((if o.sub = 0 then [buf r2 false] else if o.sub = 1 then [buf r1 false] else if o.sub = 2 then [] else [buf r1 false, buf r2 false]) ++
        [nest ns, nest nd] ++ inExtent ends.1 hs mayRead ++ inExtent ends.2 hd mayWrite ++ inScratch ends.1 hs ++ inScratch ends.2 hd))

/-- R307 to R310, R315, R318 to R325, R421: ADEC, the seam commands and LAUNCH, their record operands buffers and their ranges inside the scratchpad, complete with a command of class 2, 3 or 4 in flight that holds what it read at issue; the first of those checks that fails traps. When the command starts is free (log 4). That the range checked for a result is its header of 64 bytes is the model's reading, and that the read at issue takes the bytes as they stand, a store in flight or a lock on their tiles notwithstanding, its choice (log 32); that a range trap carries the first byte outside the scratchpad is its reading (log 35). -/
def Obligations.DescriptorCommandsComplete : Prop := ∀ (h : Hdr) (o : LEcmd) (s : State), s.core.sp.sound = true →
  let r1 := o.rec1.toNat
  let r2 := o.rec2.toNat
  let src := spPlace s r1 (s.core.sreg o.a.toNat).toInt
  let dst := spPlace s r2 (s.core.sreg o.b.toNat).toInt
  let c := s.core.sreg o.c.toNat
  let bytes := fun (n : Nat) => (List.range n).map fun i => readByte s (src.toNat + i)
  let describes := fun (i : Instr) (n : Nat) (done : Prop) =>
    Admitted i s → ChecksInOrder i s done ([bufferCheck s r1 false, bufferCheck s r2 false] ++ scratchChecks src n ++ scratchChecks dst 64)
  let query := fun (i : Instr) (union docs : Bool) => describes i 64 (∃ n, Queues i s o 3 fun k => k = .plQuery (bytes n) src.toNat union docs dst.toNat)
  let launch := fun (i : Instr) (done : Bool) =>
    Admitted i s → ChecksInOrder i s (Queues i s o 4 fun k => k = .launch (bytes 64) ((s.core.sreg o.b.toNat).extractLsb' 0 4).toNat done) ([bufferCheck s r1 false] ++ scratchChecks src 64)
  describes (.adec h o) 64 (Queues (.adec h o) s o 2 fun k => k = .adec (bytes 64) src.toNat dst.toNat) ∧
  describes (.plDec h o) 16 (Queues (.plDec h o) s o 3 fun k => k = .plDec (bytes 16) src.toNat (c.extractLsb' 0 20).toNat (c.extractLsb' 20 20).toNat dst.toNat) ∧
  query (.plAnd h o) false false ∧ query (.plAndDocs h o) false true ∧ query (.plOr h o) true false ∧ query (.plOrDocs h o) true true ∧
  describes (.plFuse h o) 64 (Queues (.plFuse h o) s o 3 fun k => k = .plFuse (bytes 64) src.toNat dst.toNat) ∧
  launch (.launchAcc h o) false ∧ launch (.launchDone h o) true

/-! ### Policy bytecodes -/

/-- `i` completes: the running decision of the function at turn becomes `d'`, and no other part of the state changes but, for BIND, the count of free values used. -/
def Sys2Proof.Decides (i : Instr) (s : State) (d' : Decision) : Prop := exec i s = .next (setDecision s d')

/-- The decision after one more bytecode of a cost, with a register written (R363, R364). -/
def Sys2Proof.wrote (d : Decision) (cost : Nat) (n : BitVec 4) (x : BitVec 32) : Decision :=
  ({ d with cost := d.cost + cost, w := d.w.set n.toNat x } : Decision).goTo (d.ix + 1)
/-- The second operand: the zero-extended B, or the register B[3:0]. -/
def Sys2Proof.second (d : Decision) (bi : Bool) (b : BitVec 16) : BitVec 32 := if bi then b.setWidth 32 else d.w.get (b.extractLsb' 0 4).toNat

/-- R363 to R365: while a decision runs, the arithmetic, LUI, compare and read bytecodes complete at their cost with their 32-bit result in wD and go on with the next index. -/
def Obligations.PolicyArithmeticCompletes : Prop := ∀ (s : State) (d : Decision) (dst a : BitVec 4) (bi : Bool) (b f : BitVec 16), runningDecision s = some d →
  let x := d.w.get a.toNat
  let y := second d bi b
  Decides (.tchMov dst bi b) s (wrote d 1 dst y) ∧ Decides (.tchAdd dst a bi b) s (wrote d 1 dst (x + y)) ∧ Decides (.tchSub dst a bi b) s (wrote d 1 dst (x - y)) ∧
  Decides (.tchAnd dst a bi b) s (wrote d 1 dst (x &&& y)) ∧ Decides (.tchOr dst a bi b) s (wrote d 1 dst (x ||| y)) ∧ Decides (.tchXor dst a bi b) s (wrote d 1 dst (x ^^^ y)) ∧
  Decides (.tchShl dst a bi b) s (wrote d 1 dst (x <<< (y.extractLsb' 0 5).toNat)) ∧ Decides (.tchShr dst a bi b) s (wrote d 1 dst (x >>> (y.extractLsb' 0 5).toNat)) ∧
  Decides (.tchMin dst a bi b) s (wrote d 1 dst (if x ≤ y then x else y)) ∧ Decides (.tchMax dst a bi b) s (wrote d 1 dst (if x ≤ y then y else x)) ∧
  Decides (.tchMul dst a bi b) s (wrote d 2 dst (x * y)) ∧ Decides (.tchLui dst f) s (wrote d 1 dst (f ++ 0#16)) ∧
  Decides (.tchCeq dst a bi b) s (wrote d 1 dst (if x = y then 1 else 0)) ∧ Decides (.tchClt dst a bi b) s (wrote d 1 dst (if x < y then 1 else 0)) ∧
  Decides (.tchClts dst a bi b) s (wrote d 1 dst (if x.slt y then 1 else 0)) ∧
  Decides (.tchQrd dst a f) s (wrote d 3 dst (nth (nth d.snap.heads (x.extractLsb' 0 4).toNat []) f.toNat 0)) ∧
  Decides (.tchCrd dst a f) s (wrote d 3 dst (nth (nth d.snap.cores (x.extractLsb' 0 8).toNat []) f.toNat 0)) ∧
  Decides (.tchErd dst f) s (wrote d 1 dst (BitVec.ofNat 32 (nth [d.ev.kind, d.ev.core, d.ev.task, d.ev.detail, d.ev.queue] f.toNat 0))) ∧
  Decides (.tchPrd dst f) s (wrote d 2 dst (nth d.snap.part f.toNat 0)) ∧
  Decides (.tchFreeb dst a) s (wrote d 2 dst (nth d.snap.freeBench (x.extractLsb' 0 4).toNat 0))

/-- R364, R368: the branches complete at cost 2, forward by the offset when taken and to the next index when not; LOOPN completes at cost 1 with its counter register zero and n + 1 iterations of the L bytecodes after it; at the end of an iteration the loop goes round with the counter one higher, or is left with the counter at its last value, for one more cycle, and a branch past its end leaves it for none. -/
def Sys2Proof.PolicyControlCompletes : Prop := ∀ (s : State) (d : Decision) (a n : BitVec 4) (off : BitVec 8), runningDecision s = some d →
  let goes := fun (next : Nat) => ({ d with cost := d.cost + 2 } : Decision).goTo next
  Decides (.tchBz a off) s (goes (d.ix + if d.w.get a.toNat = 0 then off.toNat else 1)) ∧
  Decides (.tchBnz a off) s (goes (d.ix + if d.w.get a.toNat = 0 then 1 else off.toNat)) ∧
  Decides (.tchJmp off) s (goes (d.ix + off.toNat)) ∧
  (off ≠ 0 → Decides (.tchLoopn a off n) s { d with
    cost := d.cost + 1, w := d.w.set a.toNat 0, ix := d.ix + 1, loop := some { reg := a.toNat, start := d.ix + 1, stop := d.ix + 1 + off.toNat, i := 0, last := n.toNat } }) ∧
  (∀ next, (d.loop = none → d.goTo next = { d with ix := next }) ∧ ∀ l, d.loop = some l →
    (next < l.stop → d.goTo next = { d with ix := next }) ∧
    (next = l.stop → l.i < l.last → d.goTo next = { d with ix := l.start, loop := some { l with i := l.i + 1 }, w := d.w.set l.reg (BitVec.ofNat 32 (l.i + 1)), cost := d.cost + 1 }) ∧
    (next = l.stop → l.last ≤ l.i → d.goTo next = { d with ix := next, loop := none, w := d.w.set l.reg (BitVec.ofNat 32 l.last), cost := d.cost + 1 }) ∧
    (l.stop < next → d.goTo next = { d with ix := next, loop := none }))

/-- The decision with one more action staged. -/
def Sys2Proof.staged (d : Decision) (cost op : Nat) (a b : BitVec 32) : Decision :=
  ({ d with cost := d.cost + cost, staged := d.staged ++ [{ op := op, a := a, b := b }] } : Decision).goTo (d.ix + 1)

/-- R364, R366, R369: the action bytecodes complete by staging their action, at cost 4, BIND at 8 and what its slot-table write takes; END, unless its own cycle takes the count to 1,024, completes: no decision of the function runs any more, and a PREEMPT alone among the staged actions marks every member of the tick group named. -/
def Sys2Proof.PolicyActionsComplete : Prop := ∀ (s : State) (d : Decision) (a b4 : BitVec 4) (bi : Bool) (b : BitVec 16), runningDecision s = some d →
  let x := d.w.get a.toNat
  let y := second d bi b
  (∃ n, exec (.tchBind a b4) s = .next (setDecision { s with draws := s.draws + 1 } (staged d (8 + n) 0x30 x (d.w.get b4.toNat)))) ∧
  Decides (.tchPreempt a) s (staged d 4 0x31 x 0) ∧ Decides (.tchKill a) s (staged d 4 0x32 x 0) ∧ Decides (.tchRefill a bi b) s (staged d 4 0x33 x y) ∧
  Decides (.tchDefer a) s (staged d 4 0x34 x 0) ∧ Decides (.tchPrio a bi b) s (staged d 4 0x35 x y) ∧
  (d.cost + 1 < 1024 → ∃ t, exec .tchEnd s = .next t ∧ (∀ f, fnOf t s.fnTurn = some f → f.decision = none) ∧
    (∀ x : BitVec 32, d.staged = [{ op := 0x31, a := x, b := 0 }] → (∀ g, fnOf s s.fnTurn = some g → g.holds x.toNat = true) → x.toNat < 256 →
      ∀ c, coreOf s x.toNat = some c → c.seat.status ≠ .free → ∀ m ∈ matesOf s c, ∀ m', coreOf t m.seat.cid = some m' → m'.seat.preempt = true)) ∧
  (1024 ≤ d.cost + 1 → Decides .tchEnd s { d with cost := d.cost + 1 })

/-- R366: what bars a BIND of the task u with the word b, by its reason: 1 the task is over, killed or not ready, or has a bind in the bench; 2 a named core is outside the partition or not free; 3 no core is named or a reserved bit is set; 4 the task's oldest saved group is of another size. -/
def Sys2Proof.BindBars (s : State) (f : Func) (u : Task) (b : BitVec 32) (reason : Nat) : Prop :=
  let bench := (b.extractLsb' 16 4).toNat
  match reason with
  | 1 => u.ended ≠ none ∨ u.killReq = true ∨ u.edges ≠ [] ∨ ∃ c ∈ coresOfTask s f.num u.num, c.seat.bench = bench
  | 2 => ∃ n, n < 16 ∧ b.getLsbD n = true ∧ (f.holds (16 * bench + n) = false ∨ ∀ c, coreOf s (16 * bench + n) = some c → c.isFree = false)
  | 3 => b.extractLsb' 0 16 = 0 ∨ b.extractLsb' 20 4 ≠ 0
  | 4 => ∃ x, u.saved.head? = some x ∧ ((List.range 16).filter fun n => b.getLsbD n).length ≠ x.gsize
  | _ => False

/-- R163, R356, R366: what END does with one staged action x of the function at turn, from s to t, where u is the task it names, live until its completion record is written, a killed one that drains among them: KILL discards the task's saved groups and no member of it lives on; REFILL of a core gives every member of its tick group its budget and lets it go on, one whose dispatch is still to come by way of its bind; DEFER moves the task to the tail of its queue; PRIO sets its priority; BIND is accepted, with its record, the oldest saved group and its cores loading, which a live partner that was given the array alone learns, or refused for the first reason that bars it, with a BINDREF event. -/
def Sys2Proof.Commits (s t : State) (f : Func) (x : Action) : Prop :=
  let a := x.a.toNat
  let live := fun (u : Task) => taskOf s f.num a = some u
  (x.op = 0x32 → ∀ u, live u → (∃ u', taskOf t f.num a = some u' ∧ u'.killReq = true ∧ u'.saved = []) ∧
    ∀ c c', coreOf s c.seat.cid = some c → c.seat.fn = f.num → c.seat.task = a → coreOf t c.seat.cid = some c' → c'.seat.live = false) ∧
  (x.op = 0x33 → f.holds a = true → a < 256 → ∀ c, coreOf s a = some c → c.seat.status ≠ .free → ((matesOf s c).map fun m => m.seat.cid).Nodup →
    (∀ m ∈ matesOf s c, m.seat.status ≠ .loading → coreOf s m.seat.cid = some m → ∃ m', coreOf t m.seat.cid = some m' ∧ m'.seat.stopped = false ∧
      m'.sys.budget = min (m.sys.budget + x.b.toNat * 65536) (2 ^ 48 - 1)) ∧
    ∀ g, fnOf t f.num = some g → g.binds = f.binds.map fun r =>
      if (matesOf s c).any fun m => decide (m.seat.status = .loading ∧ m.seat.cid / 16 = r.bench) && r.cores.testBit (m.seat.cid % 16) then { r with refill := r.refill + x.b.toNat } else r) ∧
  (x.op = 0x34 → ∀ u, live u → ∃ g, fnOf t f.num = some g ∧ g.queues[u.queue]? = f.queues[u.queue]?.map fun q => (q.filter fun n => n != a) ++ [a]) ∧
  (x.op = 0x35 → ∀ u, live u → taskOf t f.num a = some { u with prio := (x.b.extractLsb' 0 8).toNat }) ∧
  (x.op ≠ 0x30 → (if x.op = 0x31 ∨ x.op = 0x33 then groupOfWord s f a = [] else liveOf s f.num a = none) →
    t = onFn s f.num fun f => { f with decision := none, hostDecision := none }) ∧
  (x.op = 0x30 → liveOf s f.num a = none → ∃ g, fnOf t f.num = some g ∧ g.faults = f.faults ++ [{ kind := 7, core := 0, task := a, detail := 1, queue := 0 }]) ∧
  (x.op = 0x30 → ∀ u k, live u → BindBars s f u x.b k → (∀ j, j < k → ¬ BindBars s f u x.b j) →
    taskOf t f.num a = some u ∧ ∃ g, fnOf t f.num = some g ∧ g.faults = f.faults ++ [{ kind := 7, core := 0, task := a, detail := k, queue := u.queue }] ∧ g.binds = f.binds) ∧
  (x.op = 0x30 → ∀ u, live u → (∀ k, ¬ BindBars s f u x.b k) → taskOf t f.num a = some { u with saved := u.saved.tail } ∧
    (∃ g r, fnOf t f.num = some g ∧ g.faults = f.faults ∧ g.binds = f.binds ++ [r] ∧ r.task = a ∧ r.bench = (x.b.extractLsb' 16 4).toNat ∧ r.cores = (x.b.extractLsb' 0 16).toNat ∧
      r.slice = (x.b.extractLsb' 24 8).toNat ∧ r.budget = u.budget ∧ r.refill = 0 ∧ r.restore = u.saved.head?) ∧
    ∀ n, n < 16 → x.b.getLsbD n = true → let cid := 16 * (x.b.extractLsb' 16 4).toNat + n
      (∃ c, coreOf t cid = some c ∧ c.seat.status = .loading ∧ c.seat.fn = f.num ∧ c.seat.task = a ∧ c.seat.slice = (x.b.extractLsb' 24 8).toNat) ∧
      ∀ p, coreOf s (if cid % 2 = 0 then cid + 1 else cid - 1) = some p → p.seat.live = true → ∃ p', coreOf t p.seat.cid = some p' ∧
        p'.sys = { p.sys with share := decide (p.sys.amode = 1) })

/-- R366, R367: END completes and commits its one staged action as `Commits` says; several it commits in the order they were staged: a KILL of a live task makes a later action on it, or on a tick group of it, void, and of two BINDs that name one core the later, of a task that is ready, is refused with reason 2. -/
def Sys2Proof.PolicyCommits : Prop := ∀ (s : State) (d : Decision) (f : Func), runningDecision s = some d → fnOf s s.fnTurn = some f → d.cost + 1 < 1024 →
  (∀ x, d.staged = [x] → ∃ t, exec .tchEnd s = .next t ∧ Commits s t f x) ∧
  (∃ t, exec .tchEnd s = .next t ∧ t.core.sys.budget = (commitAll f.num d.staged [] [] s).1.core.sys.budget ∧ t.mem = (commitAll f.num d.staged [] [] s).1.mem) ∧
  (∀ xs ys : List Action, (∀ x ∈ xs, x.op ≠ 0x30 ∧ x.op ≠ 0x32) → commitAll f.num (xs ++ ys) [] [] s = commitAll f.num ys [] [] (commitAll f.num xs [] [] s).1) ∧
  (∀ (a : BitVec 32) (x : Action) (ys : List Action), (liveOf s f.num a.toNat).isSome = true →
    (if x.op = 0x31 ∨ x.op = 0x33 then ∃ c, coreOf s x.a.toNat = some c ∧ c.seat.status ≠ .free ∧ c.seat.fn = f.num ∧ c.seat.task = a.toNat else x.a = a) →
    commitAll f.num ({ op := 0x32, a := a, b := 0 } :: x :: ys) [] [] s = commitAll f.num ({ op := 0x32, a := a, b := 0 } :: ys) [] [] s) ∧
  (∀ (a b a' b' : BitVec 32) (u v : Task) (n : Nat), d.staged = [{ op := 0x30, a := a, b := b }, { op := 0x30, a := a', b := b' }] →
    taskOf s f.num a.toNat = some u → (∀ k, ¬ BindBars s f u b k) → taskOf s f.num a'.toNat = some v →
    b.extractLsb' 16 4 = b'.extractLsb' 16 4 → n < 16 → b.getLsbD n = true → b'.getLsbD n = true →
    ∃ t g, exec .tchEnd s = .next t ∧ fnOf t f.num = some g ∧ g.faults = f.faults ++
      [{ kind := 7, core := 0, task := a'.toNat, detail := if v.ended = none ∧ v.killReq = false ∧ v.edges = [] then 2 else 1, queue := v.queue }])

/-- R364, R366, R367, R368, R369: the control and action bytecodes complete as said, and END commits what is staged. The wait of BIND for the slot table is free (log 18). -/
def Obligations.PolicyControlAndActionsComplete : Prop := Sys2Proof.PolicyControlCompletes ∧ Sys2Proof.PolicyActionsComplete ∧ Sys2Proof.PolicyCommits

/-! ### Results, window stores, budget -/

/-- R22, R41, R43, R63, R64, R174, R176, R234, R238, R308, R384, R385: a performed scoreboarded value of a live context lands in its register and its scoreboard goes down; a promised load that has come after a freeze takes effect after one more frozen cycle, one that has timed out or was refused leaves zero; a window store lands in each receiver that is not killed, its berm bytes and bytes of compressed regions discarded, and its scoreboard goes down in its sender; a face write is replayed in each replica whose core is not killed; a finished command completes; an empty budget stops the core with a BUDGET event. Which events come in one cycle, and in which order, is the model's choice (logs 5, 29 and 30). -/
def Obligations.ResultEventsComplete : Prop := ∀ (s : State) (n : Nat),
  (∀ v x, s.core.dev.vars[n]? = some v → v.stage = .performed x → v.kind ≠ .release → v.kind ≠ .cas128 → s.core.seat.live = true →
    ∃ t, exec (.variableResultLanding n) s = .next t ∧ SameOutside s t ∧
      (∀ r, t.core.sreg r = if r = v.d ∧ r ≠ 0 then ext64 (8 * v.n) v.sg x else s.core.sreg r) ∧
      t.core.dev.vars = (s.core.dev.vars.filter fun w => w.seq != v.seq) ∧
      (∀ b, v.sb = some b → s.core.regs.sb.get b ≠ 0 → t.core.regs.sb.get b = s.core.regs.sb.get b - 1)) ∧
  (∀ f q, s.core.pipe.blocked s.wall = some (f, q) → q.held = false → q.failed = false → q.arrive ≤ s.wall →
    ∃ t, exec .promisedLoadArrival s = .next t ∧ SameOutside s t ∧ t.core.regs = s.core.regs ∧ t.core.sys = s.core.sys ∧ t.core.pipe.mark = .held .freeze) ∧
  (∀ f q z d x, s.core.pipe.blocked s.wall = some (f, q) → s.core.pipe.frozenAt = some z → (q.failed = true ∨ 2 ^ 26 ≤ s.wall - z) → f.eff = .sreg d x →
    ∃ t, exec .memoryTimeout s = .next t ∧ SameOutside s t ∧ t.core.regs = s.core.regs ∧ t.core.pipe.timeout.isSome = true ∧
      { f with late := none, eff := .sreg d 0 } ∈ t.core.pipe.flights) ∧
  (∀ w, s.windows[n]? = some w → w.dest.Nodup → ∃ t, exec (.windowLanding n) s = .next t ∧ t.mem = s.mem ∧ t.windows = s.windows.eraseIdx n ∧
    t.core.regs.s = s.core.regs.s ∧ t.core.taps = s.core.taps ∧ (w.cid ≠ some s.core.seat.cid → t.core.regs = s.core.regs ∧ t.core.pipe = s.core.pipe) ∧
    (∀ b, w.cid = some s.core.seat.cid → w.sb = some b → s.core.regs.sb.get b ≠ 0 → t.core.regs.sb.get b = s.core.regs.sb.get b - 1) ∧
    (s.core.seat.cid ∉ w.dest ∨ s.core.seat.status = .killed → t.core.sp = s.core.sp) ∧
    (s.core.seat.cid ∈ w.dest → s.core.seat.status ≠ .killed →
      (∀ a, (∀ b, (a, b) ∈ w.ws → s.core.bermAt a = true ∨ s.core.sp.compressed a = true) → t.core.sp.held a = s.core.sp.held a) ∧
      (∀ pre a b post, w.ws = pre ++ (a, b) :: post → (∀ b', (a, b') ∉ post) → s.core.bermAt a = false → s.core.sp.compressed a = false → t.core.sp.held a = b))) ∧
  (∀ w, s.exports[n]? = some w → w.dest.Nodup → ∃ t, exec (.exportLanding n) s = .next t ∧ t.mem = s.mem ∧ t.exports = s.exports.eraseIdx n ∧
    let u := if s.core.seat.cid ∈ w.dest ∧ s.core.seat.status ≠ .killed then s.core.apply w.eff else s.core
    t.core = { u with pipe := { u.pipe with back := t.core.pipe.back } } ∧ (w.cid ≠ some s.core.seat.cid → t.core = u)) ∧
  (∀ c k err, cmdOf s n = some (c, k) → k.stage = .finished err none → orderHeld c k = false → ∃ t, exec (.engineCommandCompletion n) s = .next t ∧
    ∀ c', coreOf s c.seat.cid = some c → c.seat.live = true → coreOf t c.seat.cid = some c' → (∀ x ∈ c'.dev.cmds, x.uid ≠ k.uid) ∧
      c'.dev.tagDone = c.dev.tagDone ++ [{ uid := k.uid, tag := k.tag, err := err.isSome, insert := none, wrote := k.wrote }]) ∧
  (s.core.seat.runs = true → s.core.sys.budget = 0 → ∃ t, exec .budgetStop s = .next t ∧ t.core = { s.core with seat := { s.core.seat with stopped := true } } ∧
    t.cores = s.cores ∧ t.mem = s.mem ∧ ∀ f, fnOf s s.core.seat.fn = some f → ∃ g, fnOf t s.core.seat.fn = some g ∧
      g.faults = f.faults ++ [{ kind := 5, core := s.core.seat.cid, task := s.core.seat.task, detail := s.core.seat.member, queue := 0 }])

/-! ### Boundaries -/

/-- R9, R11, R16, R17: the signal g of a core after a TICK at which NOW was `now`: where its face index advances it has a new face before its samples, DEPTH of them at most kept: all zero, or, for a carry open, FILLC or zero at index 0 by FILL, and the sample before it at any other; a signal whose face index stays is as it was. That a copied sample keeps its error is the model's choice (log 24). -/
def Sys2Proof.FaceOpens (g g' : Sig) (now : Word) : Prop :=
  let j := faceIndex g (now + 1)
  if faceIndex g now < j then ∃ x : Sample, g' = { g with samples := (x :: g.samples).take g.depth } ∧
    (g.carryOpen = false → x.bad = none ∧ ∀ k, x.words.get k = 0) ∧
    (g.carryOpen = true → j ≠ 0 → ∀ y ys, g.samples = y :: ys → x = y) ∧
    (g.carryOpen = true → j = 0 → x.bad = none ∧ ∀ cl v i, bit g.clusters cl = true → cl < 8 → v ≤ g.vecs → i < 16 → x.words.get (tapKey cl v i) = if g.fill = 1 then g.fillc else 0)
  else g' = g

/-- R8, R9, R16, R17, R26, R44, R50, R95, R108, R131, R163, R280, R293: what a TICK leaves in a member: NOW one higher, BUDGET, CTRL, SEED, WIDR and MMODE kept, every other special register zero, s1 to s31 kept, s32 to s63 and every other register cleared, the scale bypass, TAGR with its error and pending bits and the weight buffer among them, the generators seeded anew, the array shared where the partner was bound since the core was given it alone, every signal with its samples kept and its face opened where its index advances, the scratchpad kept exactly in carried buffers; a group of one with no result in flight completes its TICK so, and a PHASE with its registers kept and no pending store of the phase left; it issues no earlier than 24 + P after. A group whose save is asked for is saved in its record, in the lowest extent of the context pool that fits, its cores free and the record kept with its task, or, where there is none, goes on. That the boundary completes at the start of the next wall cycle, what a save waits for, and that a carried sample keeps its error, are the model's readings (logs 14 to 16 and 24). -/
def Obligations.BoundariesComplete : Prop := ∀ (s : State) (c : StreamCore) (save : Bool),
  (let t := c.nextTick.tickClear save; t.sys = { Sys.reset with now := c.sys.now + 1, budget := c.sys.budget, ctrl := c.sys.ctrl, seed := c.sys.seed, widr := c.sys.widr, amode := c.sys.amode, mmode := c.sys.mmode, amodeSet := c.sys.amodeSet, share := c.sys.share } ∧
    (∀ r, t.sreg r = if r < 32 then c.sreg r else 0) ∧ (∀ k, t.regs.v.get k = 0 ∧ t.regs.k.get k = 0 ∧ t.regs.q.get k = 0 ∧ t.regs.qlive.get k = 0 ∧
      t.regs.l.get k = 0 ∧ t.regs.m.get k = 0 ∧ t.regs.sc.get k = 0 ∧ t.regs.sb.get k = 0 ∧ t.regs.idx.get k = 0 ∧ t.regs.byp.get k = 0) ∧
    t.regs.tagr = 0 ∧ t.regs.tagErr = 0 ∧ t.regs.tagPend = 0 ∧ t.wbuf = { fcode := none, kst := 0, fmtr := 0, rows := [], scales := [] } ∧ t.jobs = [] ∧
    t.taps.length = c.taps.length ∧ (∀ (i : Nat) (g g' : Sig), c.taps[i]? = some g → t.taps[i]? = some g' → FaceOpens g g' c.sys.now) ∧ t.regs.fronts = List.replicate 8 Front.empty ∧ (∀ L, L < 128 → t.regs.gen.get L = seedOf c.sys.seed (c.sys.now + 1) L) ∧
    (∀ a, t.sp.data.get a = if inCarried c.pool (a / 64) then c.sp.data.get a else 0) ∧ (∀ g, t.sp.valid.get g = if inCarried c.pool g then c.sp.valid.get g else 0) ∧
    t.pool = c.pool ∧ t.pipe.pc = c.pipe.pc ∧ t.pipe.loop = none) ∧
  (∀ g, boundaryGroup s true = some g → ∃ t, exec .tickCompletion s = .next t) ∧
  (boundaryGroup s true = some [s.core] → s.core.seat.live = true → s.core.pipe.flights = [] → ∃ t, exec .tickCompletion s = .next t ∧
    t.core.sys.now = s.core.sys.now + 1 ∧ (∀ r, t.core.sreg r = if r < 32 then s.core.sreg r else 0) ∧ t.core.seat.arrivals = s.core.seat.arrivals.tail ∧
    t.core.sys.amode = (if s.core.sys.share = true ∧ s.core.sys.amode = 1 then 0 else s.core.sys.amode) ∧
    s.core.pipe.cyc + 23 + (s.core.dev.pend.filter fun p => decide (p.phase ≤ s.core.seat.boundary)).length ≤ t.core.pipe.nextIssue) ∧
  (∀ g, boundaryGroup s false = some g → ∃ t, exec .phaseCompletion s = .next t) ∧
  (boundaryGroup s false = some [s.core] → s.core.seat.live = true → s.core.seat.arrivals.head? = some .phase → s.core.pipe.back = none → ∃ t, exec .phaseCompletion s = .next t ∧
    t.core.regs.s = s.core.regs.s ∧ t.core.regs.v = s.core.regs.v ∧ t.core.sys = s.core.sys ∧ t.core.sp = s.core.sp ∧ t.core.seat.boundary = s.core.seat.boundary + 1 ∧
    t.core.seat.arrivals = s.core.seat.arrivals.tail ∧ ∀ p ∈ t.core.dev.pend, s.core.seat.boundary < p.phase) ∧
  (∀ d g f, saveGroup s = some (d :: g) → fnOf s d.seat.fn = some f → ∃ t, exec .preemptSave s = .next t ∧
    let rec_ := contextRecord (d :: g)
    (poolPlace f rec_.length = none → ∀ c ∈ d :: g, ∀ c', coreOf s c.seat.cid = some c → coreOf t c.seat.cid = some c' → c'.seat.atTick = false ∧ c'.seat.status = c.seat.status) ∧
    ∀ pa, poolPlace f rec_.length = some pa →
      (s.limited = [] → ∀ i, i < rec_.length → peek t.mem (pa + i) = nth rec_ i 0) ∧
      (∀ c ∈ d :: g, ∀ c', coreOf t c.seat.cid = some c' → c'.seat.status = .free) ∧
      ∀ u, taskOf s d.seat.fn d.seat.task = some u → ∃ u', taskOf t d.seat.fn d.seat.task = some u' ∧ u'.saved = u.saved ++ [{ pa := pa, len := rec_.length, gsize := (d :: g).length }])

/-! ### Device memory as it is written -/

/-- R108: the three effects of a boundary that is no TICK: a pending store of its phase enters current memory at its completion, byte by byte, and nothing else does. -/
def Sys2Proof.PhasePublishes : Prop := ∀ (s s1 : State) (p : PendStore) (pas : List Nat),
  boundaryGroup s false = some [s.core] → s.core.seat.live = true → s.core.seat.arrivals.head? = some .phase → s.core.pipe.back = none →
  s.core.dev.vars = [] → s.limited = [] → s.core.dev.pend = [p] → p.req = none → p.phase ≤ s.core.seat.boundary →
  (let u := { withView s (fun d => { d with pend := [], late := d.late.map fun l => (l.1, l.2.1, 4) }) with stamp := s.stamp + 1 }; access u u.core p.x p.off p.bytes.length needWrite = (.ok pas, s1)) →
  ∃ t, exec .phaseCompletion s = .next t ∧ Written s1.mem t.mem (pas.zip p.bytes) ∧ t.core.dev.pend = [] ∧ t.core.dev.snap = t.mem ∧ t.core.dev.own = []

/-- R113, R313: when a STD.REL is performed the pending store issued before it and then its own value become current at its scope: at system scope in current memory, at a narrower one beside it, and nothing else changes. -/
def Sys2Proof.ReleasePublishes : Prop := ∀ (s s1 : State) (i : Nat) (v : VarOp) (pas : List Nat),
  s.core.dev.vars[i]? = some v → v.stage = .issued → v.kind = .release → s.core.seat.live = true → s.core.dev.late = [] →
  access s s.core v.x v.off v.n needWrite = (.ok pas, s1) →
  let own := pas.zip (leBytes v.n v.a.toNat)
  (s.core.dev.pend = [] → ∃ t, exec (.variableResultLanding i) s = .next t ∧ t.core.regs.s = s.core.regs.s ∧
    (4 ≤ v.scope → Written s1.mem t.mem own) ∧
    (v.scope < 4 → t.mem = s1.mem ∧ ∃ ls, t.limited = s1.limited ++ ls ∧ (ls.map fun l => (l.pa, l.val)) = own ∧ ∀ l ∈ ls, l.cid = s.core.seat.cid ∧ l.scope = v.scope)) ∧
  ∀ p pas0 s2, s.core.dev.pend = [p] → p.req = none → p.seq < v.seq → 4 ≤ v.scope →
    (let u := withView s1 (fun d => { d with pend := [] }); access u u.core p.x p.off p.bytes.length needWrite = (.ok pas0, s2)) →
    ∃ t, exec (.variableResultLanding i) s = .next t ∧ t.core.dev.pend = [] ∧ Written s2.mem t.mem (pas0.zip p.bytes ++ own)

/-- The new value of an atomic by its SUB, 8 for CAS128; none where it writes nothing (R314). -/
def Sys2Proof.atomicValue (v : VarOp) (sub old : Nat) : Option Nat :=
  let w := 8 * v.n
  let a := v.a.toNat % 2 ^ w
  match sub with
  | 0 => some ((old + a) % 2 ^ w)
  | 1 => some (old &&& a)
  | 2 => some (old ||| a)
  | 3 => some (old ^^^ a)
  | 4 => some (if asInt w v.sg a < asInt w v.sg old then a else old)
  | 5 => some (if asInt w v.sg old < asInt w v.sg a then a else old)
  | 6 => some a
  | 7 => if old = v.b.toNat % 2 ^ w then some a else none
  | _ => if old = v.c then some (v.b.toNat * 2 ^ 64 + v.a.toNat) else none

/-- R75, R115, R314, R327: an atomic that its path carries replaces the value of its location by what its SUB makes of it, DI set in the leaves that its own look-up went through, or writes nothing; the destination gets the old value. -/
def Sys2Proof.AtomicsWrite : Prop := ∀ (s s1 : State) (i : Nat) (v : VarOp) (sub : Nat) (pas : List Nat),
  s.core.dev.vars[i]? = some v → v.stage = .issued → v.kind.sub? = some sub → (v.kind = .cas128 ∨ sub < 8) → s.core.seat.live = true →
  s.core.dev.late = [] → s.core.dev.pend = [] → s1.limited = [] → access s s.core v.x v.off v.n (needAtomic + needWithout) = (.ok pas, s1) →
  (∀ pa, pas.head? = some pa → carried s1 pa sub = true) → rangeHeld s1 s1.core v.x v.off v.n = false →
  let old := leNat (pas.map fun pa => peek s1.mem pa)
  ∃ t, exec (.variableResultLanding i) s = .next t ∧
    (match atomicValue v sub old with
    | some x => Written (dirtyLeaves s1 s.core.seat.fn (usedLeaves s s1 s.core v.x v.off v.n)).mem t.mem (pas.zip (leBytes v.n x))
    | none => t.mem = s1.mem) ∧
    (v.kind ≠ .cas128 → ∀ r, t.core.sreg r = if r = v.d ∧ r ≠ 0 then ext64 (8 * v.n) v.sg old else s.core.sreg r) ∧
    (v.kind = .cas128 → v.d ≠ 0 → t.core.sreg v.d = BitVec.ofNat 64 old ∧ t.core.sreg (v.d + 1) = BitVec.ofNat 64 (old / 2 ^ 64))

/-- R118, R316, R317: a copy of `n` bytes moves byte `i` of its source to byte `i` of its destination, whatever units it writes them in. -/
def Sys2Proof.CopiesMove : Prop := ∀ (k : Cmd) (c : StreamCore) (src dst : CopyEnd) (n : Nat) (ix : Nat × Nat) (seen : List Nat) (got : Store 8),
  k.kind = .copy src dst n none false ix → (∀ sig, dst ≠ .face sig) →
  (∀ i, i < n → byteKey src.base.1 (src.base.2 + (i : Nat)).toNat / 64 ∈ seen) →
  ∃ us, k.plan c seen got = .write us none none ∧ (∀ u ∈ us, u.space = dst.base.1) ∧
    (∀ i, i < n → ∃ u ∈ us, ((dst.base.2 + (i : Nat)).toNat, got.get (byteKey src.base.1 (src.base.2 + (i : Nat)).toNat)) ∈ u.ws) ∧
    ∀ u ∈ us, ∀ x ∈ u.ws, ∃ i, i < n ∧ x = ((dst.base.2 + (i : Nat)).toNat, got.get (byteKey src.base.1 (src.base.2 + (i : Nat)).toNat))

/-- R104, R118, R316, R421: an engine reads a unit of an extent from current memory, the core having no own store to lay over it; and it writes exactly the bytes of a unit, to an extent or to the tiles of the scratchpad that it has locked. -/
def Sys2Proof.UnitsMove : Prop := ∀ (s s1 : State) (k : Cmd) (pa : Nat),
  (∀ seen got u, lookPage s s.core (u / 2 ^ 58) ((s.core.dev.extent (u / 2 ^ 58)).base + u % 2 ^ 58 * 64) needRead = (.at_ pa, s1) → s1.limited = [] →
    s.core.dev.pend = [] → s.core.dev.late = [] → s.core.dev.vars = [] →
    readDevice s s.core k seen got u = setCmd s1 s.core.seat.cid k.uid (.reading (u :: seen) (Store.setAll (withKeys (64 * u) ((List.range 64).map fun i => peek s1.mem (pa + i))) got))) ∧
  (∀ x off b rest err insert, k.stage = .writing [{ space := x, ws := (off, b) :: rest }] err insert → x < 16 →
    lookPage { s with draws := s.draws + 1 } s.core x ((s.core.dev.extent x).base + off) needWrite = (.at_ pa, s1) →
    Written s1.mem (runCmd s s.core k).mem (((off, b) :: rest).map fun w => (pa + w.1 - off, w.2))) ∧
  ∀ ws err insert, k.stage = .writing [{ space := 16, ws := ws }] err insert →
    let t := runCmd s s.core k
    let takes := fun (a : Nat) => s.core.bermAt a = false ∧ a / 4096 ∈ k.wlocks
    t.mem = s.mem ∧ t.core.regs.s = s.core.regs.s ∧ (∀ a, (∀ b, (a, b) ∈ ws → ¬takes a) → t.core.sp.held a = s.core.sp.held a) ∧
      ∀ pre a b post, ws = pre ++ (a, b) :: post → (∀ b', (a, b') ∉ post) → takes a → t.core.sp.held a = b

/-- R75, R104, R108, R113, R115, R118, R313, R314, R316, R317, R421, R327: what a boundary, a release, an atomic and a copy write to memory, and that nothing else of it changes. Which page is looked up when, and that an engine's unit of 64 aligned bytes moves as one and bytes outside the locked tiles are dropped, are the model's readings (logs 12, 26, 29 and 31); so are the leaves in which a write sets DI: those its own look-up went through, where memory still holds a leaf of the same frame there (log 41). -/
def Obligations.DeviceWritesReachMemory : Prop := PhasePublishes ∧ ReleasePublishes ∧ AtomicsWrite ∧ CopiesMove ∧ UnitsMove

/-! ### The scheduler's events -/

/-- `i` completes: afterwards the function numbered `fn` is one of which `p` holds. -/
def Sys2Proof.FunctionAfter (i : Instr) (s : State) (fn : Nat) (p : State → Func → Prop) : Prop := ∃ t g, exec i s = .next t ∧ fnOf t fn = some g ∧ p t g

/-- The bind of a function that is due, its task, the translation of its extents and its code object, all of which pass their checks, and the state in which they have been read (R59 to R61, R155, R422). -/
def Sys2Proof.Loadable (s : State) (fn : Nat) (f : Func) (b : Bind) (u : Task) (tr : Translated) (o : CodeObject) (s2 : State) : Prop :=
  fnOf s fn = some f ∧ dueBind s f = some b ∧ taskOf s fn b.task = some u ∧ u.ended = none ∧ u.killReq = false ∧ b.unread = false ∧ (∀ c ∈ b.cids, f.holds c = true) ∧
  sigTableOk o.sigs b.cids.length = true ∧ poolOk (o.pool.map fun e => e.toNat) b.cids.length = true ∧
  ∃ s1, translateTask fn noneId u.num (b.cids.headD 0 / 64) u s = (.ok tr, s1) ∧
    readObject (codeSource f u.num (draw s1).1 (b.cids.headD 0 / 64) tr) b.restore.isNone (draw s1).2 = (.ok o, s2)

/-- R40, R95, R105, R151, R155, R163, R203, R366, R389: dispatch and restore. A bind that is due and whose task can be loaded puts member m on its m-th core (on a restore by the model's choice, log 59): live, its buffer records patched, its extents and runs those of the translation, its snapshot current memory at system scope; on a first dispatch with every register zero, every special register as at reset but BUDGET, WIDR and MMODE, and the program counter at the entry; on a restore with NOW, s1 to s31, CTRL, SEED, BUDGET, WIDR, the position and the status of its record; BUDGET with what REFILL has added since the bind, the generators seeded, and the array alone beside a partner that is not bound, else in alternate windows. The bind leaves, and the task counts one dispatch more. A failed translation frees the cores and raises XLATE; an object that the loader refuses kills the task as unloadable. -/
def Sys2Proof.DispatchCompletes : Prop :=
  (∀ (s s2 : State) (fn : Nat) (f : Func) (b : Bind) (u : Task) (tr : Translated) (o : CodeObject), Loadable s fn f b u tr o s2 →
    let placed := fun (t : State) (each : Nat → StreamCore → StreamCore → Prop) =>
      (∃ u', taskOf t fn b.task = some u' ∧ u'.dispatches = u.dispatches + 1 ∧ u'.ended = none) ∧ (∀ g, fnOf t fn = some g → b ∉ g.binds) ∧ t.mem = s2.mem ∧
      ∀ m cid c, b.cids[m]? = some cid → coreOf s cid = some c → ∃ c', coreOf t cid = some c' ∧ c'.seat.task = b.task ∧ c'.seat.member = m ∧ c'.seat.gsize = b.cids.length ∧
        c'.seat.slice = b.slice ∧ c'.pool = o.pool.map (patchEntry b.cids cid) ∧ c'.dev.exts = tr.exts ∧ c'.dev.code = tr.code ∧ c'.dev.runs = tr.runs ∧ c'.dev.snap = s2.mem ∧
        each m c c'
    let shares := fun (cid a : Nat) => ∀ p, coreOf s (if cid % 2 = 0 then cid + 1 else cid - 1) = some p → a = if p.seat.status = .free then 1 else 0
    let more := fun (n : Nat) => min (n + b.refill * 65536) (2 ^ 48 - 1)
    (b.restore = none → ∃ t, exec (.dispatch fn) s = .next t ∧ placed t fun _ c c' =>
      (∃ a, shares c.seat.cid a ∧ c'.sys = { Sys.reset with budget := more b.budget, widr := u.widr, amode := a, mmode := a }) ∧
      c'.seat.status = .live ∧ (∀ r, c'.sreg r = 0) ∧ c'.regs = { Regs.reset with gen := c'.regs.gen } ∧ (∀ L, L < 128 → c'.regs.gen.get L = seedOf 0 0 L) ∧ c'.pipe.pc = BitVec.ofNat 80 (tr.code.base + o.entry) ∧ c'.pipe.flights = [] ∧ c'.dev.pend = []) ∧
    ∀ x, b.restore = some x → ∃ t, exec (.restore fn) s = .next t ∧ exec (.dispatch fn) s = .next t ∧ placed t fun m c c' =>
      let rec_ := peekBytes s2.mem x.pa x.len
      let mine := slice rec_ (256 + 512 * m) 512
      let word := fun (i : Nat) => BitVec.ofNat 64 (leNat (slice mine i 8))
      (∃ a, shares c.seat.cid a ∧ c'.sys = { Sys.reset with
        now := BitVec.ofNat 64 (leNat (slice rec_ 0 8)), budget := more (leNat (slice mine 264 8) % 2 ^ 48), widr := word 272, ctrl := word 248, seed := word 256, amode := a, mmode := a }) ∧
      (∀ L, L < 128 → c'.regs.gen.get L = seedOf (word 256) (BitVec.ofNat 64 (leNat (slice rec_ 0 8))) L) ∧
      (∀ r, c'.sreg r = if 1 ≤ r ∧ r ≤ 31 then word (8 * (r - 1)) else 0) ∧ c'.pipe.pc = (word 288).setWidth 80 ∧
      c'.seat.status = (if leNat (slice mine 296 1) = 1 then .exited else if leNat (slice mine 296 1) = 2 then .killed else .live)) ∧
  ∀ (s s1 : State) (fn : Nat) (f : Func) (b : Bind) (u : Task), fnOf s fn = some f → dueBind s f = some b → taskOf s fn b.task = some u → u.ended = none → u.killReq = false →
    b.unread = false → (∀ c ∈ b.cids, f.holds c = true) →
    (∀ x page cond, translateTask fn noneId u.num (b.cids.headD 0 / 64) u s = (.error (x, page, cond), s1) → cond < 4 → FunctionAfter (.dispatch fn) s fn fun t g =>
      b ∉ g.binds ∧ g.faults = f.faults ++ [{ kind := 6, core := 0, task := u.num, detail := x % 16 * 2 ^ 28 + cond * 2 ^ 26 + min page (2 ^ 26 - 1), queue := u.queue }] ∧
      ∀ cid ∈ b.cids, ∀ c, coreOf t cid = some c → c.seat.status = .free) ∧
    (∀ tr s2, translateTask fn noneId u.num (b.cids.headD 0 / 64) u s = (.ok tr, s1) →
      readObject (codeSource f u.num (draw s1).1 (b.cids.headD 0 / 64) tr) b.restore.isNone (draw s1).2 = (.refused, s2) →
      ∃ t u', exec (.dispatch fn) s = .next t ∧ taskOf t fn b.task = some u' ∧ u'.unloadable = true ∧ u'.killReq = true)

/-- R357, R359, R409: a task that is over completes: it has ended with status 3, 1 or 0, as its object was refused, a member or the task was killed, or neither; with room on ring 2, nothing waiting for it there and no dependent, its completion record is written at TAIL, with its number, its name, the status, the identifiers not delivered and the dispatches, and the task is gone. -/
def Sys2Proof.TasksComplete : Prop := ∀ (s : State) (fn : Nat) (f : Func) (task : Nat) (u : Task), fnOf s fn = some f → taskOf s fn task = some u → taskOver s f u = true →
  let status := if u.unloadable then 3 else if u.killed || u.killReq then 1 else 0
  let ring := f.ring 2
  ∃ t, exec (.taskCompletion fn task) s = .next t ∧ (∀ u', taskOf t fn task = some u' → u'.ended = some status) ∧
    (f.resetting = false → f.waitingDone = [] → 2 < f.rings.length → ring.room 1 = true → (∀ d ∈ f.tasks, d.edges.contains task = false) → u.doneTag = none →
      let at_ := fun (i n : Nat) => peekLe t.mem (ring.slot ring.tail + i) n
      taskOf t fn task = none ∧ at_ 0 1 = 1 ∧ at_ 6 2 = task % 2 ^ 16 ∧ at_ 8 4 = ring.seq.toNat ∧ at_ 16 2 = u.name % 2 ^ 16 ∧ at_ 18 1 = status ∧ at_ 24 8 = min u.undelivered (2 ^ 64 - 1) ∧
      at_ 32 4 = u.dispatches % 2 ^ 32 ∧ ∃ g, fnOf t fn = some g ∧ (g.ring 2).tail = ring.tail + 1)

/-- Cores bound to a task. -/
def Sys2Proof.boundCores (s : State) (f : Func) (u : Task) : Nat := ((allCores s).filter fun c => c.seat.status != .free && c.seat.fn == f.num && c.seat.task == u.num).length

/-- R358: what makes a task one that may head its queue; and the first of queue q that may. -/
def Sys2Proof.MayHead (s : State) (f : Func) (u : Task) : Prop :=
  u.ended = none ∧ u.killReq = false ∧ u.edges = [] ∧ boundCores s f u < u.demand ∧ (u.undelivered ≠ 0 ∨ u.saved ≠ [])
def Sys2Proof.Heads (s : State) (f : Func) (q : Nat) (u : Task) : Prop :=
  ∃ pre post, nth f.queues q [] = pre ++ u.num :: post ∧ (f.tasks.find? fun t => t.num == u.num) = some u ∧ MayHead s f u ∧
    ∀ n ∈ pre, ∀ v, (f.tasks.find? fun t => t.num == n) = some v → ¬MayHead s f v

/-- R358, R362, R365: a snapshot of a function's queues, cores and counts, taken now: the nine fields of each queue's head, all zero without one; of each core its STATE, and of a bound one its task, priority, run time and budget; the free cores of the partition, the time, the queues that have a head and the overruns; the free cores of each bench. Which STATE comes first where two hold is the model's reading (log 25). -/
def Sys2Proof.SnapshotOf (s : State) (f : Func) (snap : Snapshot) : Prop :=
  let n := BitVec.ofNat 32
  let units := fun (from_ : Nat) => min ((s.wall - from_) / 1024) 4294967295
  let free := fun (c : StreamCore) => f.cores.getLsbD c.seat.cid = true ∧ c.seat.status = .free ∧ c.seat.withdrawn = false
  (∀ q, q < 16 → ((∀ u, ¬Heads s f q u) → snap.heads[q]? = some (List.replicate 9 0)) ∧ ∀ u, Heads s f q u → snap.heads[q]? = some [1, n u.num, n u.prio, n (units u.accepted),
    if u.deadline = 0 then 0x7FFFFFFF else BitVec.ofInt 32 (max (-2147483648) (min ((u.deadline : Int) - ((s.wall - u.accepted) / 1024 : Nat)) 2147483647)),
    n u.demand, n (boundCores s f u), n (min u.undelivered 4294967295), n ((u.saved.head?.map fun x => x.gsize).getD 0)]) ∧
  (∀ cid c, cid < 256 → coreOf s cid = some c →
    (f.cores.getLsbD cid = false → snap.cores[cid]? = some [0, 0, 0, 0, 0]) ∧
    (f.cores.getLsbD cid = true → c.seat.status = .free → snap.cores[cid]? = some [if c.seat.withdrawn then 5 else 1, 0, 0, 0, 0]) ∧
    (f.cores.getLsbD cid = true → c.seat.status ≠ .free → ∃ prio, (∀ u, (f.tasks.find? fun t => t.num == c.seat.task) = some u → prio = n u.prio) ∧
      snap.cores[cid]? = some [if c.seat.stopped then 4 else if c.seat.preempt then 3 else 2, n c.seat.task, prio, n (units c.seat.started), n (min (c.sys.budget / 65536) 4294967295)])) ∧
  (∃ mask, snap.part = [n ((allCores s).filter fun c => f.cores.getLsbD c.seat.cid && (c.seat.status == .free && !c.seat.withdrawn)).length, n (s.wall / 1024 % 4294967296), mask, n f.overruns] ∧
    ∀ q, q < 32 → (mask.getLsbD q = true ↔ q < 16 ∧ ∃ u, Heads s f q u)) ∧
  ∀ b, b < 16 → ∃ mask, snap.freeBench[b]? = some mask ∧ ∀ i, i < 32 → (mask.getLsbD i = true ↔ i < 16 ∧ ∃ c, coreOf s (16 * b + i) = some c ∧ free c)

/-- R360 to R362, R365, R369, R371, R411: the next event is decided: by the host, which is asked for it; by the verified policy of the active bank, from the entry of the event's kind with its registers zero and no cost, on a snapshot taken then; or at once by the fallback. A decision that has taken 1,024 cycles is abandoned and counted; a host that has not answered in time is not waited for. The timer raises TIMER, which replaces only a TIMER event: the flag keeps a CROWD, whose KIND is larger. The host's answer adds its actions, and commits them with the last entry. -/
def Sys2Proof.DecisionsComplete : Prop := ∀ (s : State) (fn : Nat) (f : Func), fnOf s fn = some f →
  let after := fun (i : Instr) => FunctionAfter i s fn
  (f.decision = none → f.hostDecision = none → ∀ ev f', nextEvent f = some (ev, f') →
    (f.fmode.getLsbD 1 = true → after (.decision fn) fun _ g => g.decision = none ∧ g.hostDecision = some { id := f.decisions + 1, ev := ev, asked := s.wall, staged := [] }) ∧
    (f.fmode.getLsbD 1 = false → ∀ b, f.banks[f.active]? = some b →
      (b.vstat = 2 → after (.decision fn) fun _ g => g.hostDecision = none ∧ ∃ d, g.decision = some d ∧ d.ev = ev ∧
        d.ix = entryIx (b.code.headD 0) ev.kind ∧ d.w = [] ∧ d.staged = [] ∧ d.cost = 0 ∧ d.began = s.wall ∧ SnapshotOf s f d.snap) ∧
      (b.vstat ≠ 2 → after (.decision fn) fun _ g => g.decision = none ∧ g.hostDecision = none))) ∧
  (∀ d, f.decision = some d → 1024 ≤ d.cost → after (.decisionOverrun fn) fun _ g => g.decision = none ∧ g.overruns = min (f.overruns + 1) 4294967295) ∧
  (timerDue s f = true → after (.timer fn) fun t g => g.timer = s.wall ∧ t.mem = s.mem ∧
    g.preemptFlag = some (match f.preemptFlag with
      | some p => if p.kind ≤ 3 then { kind := 3, core := 0, task := 0, detail := 0, queue := 0 } else p
      | none => { kind := 3, core := 0, task := 0, detail := 0, queue := 0 })) ∧
  (∀ e h, 7 < f.rings.length → nextEntry s f 7 = some e → decisionEntryOk e = true → f.hostDecision = some h → after (.decisionAnswer fn) fun _ g =>
    (g.ring 7).head = (f.ring 7).head + 1 ∧
    (h.id ≠ leNat (slice e 48 8) → g.hostDecision = some h) ∧
    (h.id = leNat (slice e 48 8) → g.hostDecision = if (nth e 63 0).getLsbD 0 then none else some { h with staged := h.staged ++ entryActions e })) ∧
  (∀ h, hostLate s f = some h → after (.hostDecisionTimeout fn) fun _ g => g.hostDecision = none ∧ g.decision = none)

/-- A run of the one page at `r.va` walked again, with the leaves that map it. -/
def Sys2Proof.onePage (r : Run) (pa cls : Nat) (ex sp mg : Bool) (st : RunState) (refuse : Option Nat) (leaves : List (Nat × Nat)) : Run :=
  { ext := r.ext, va := r.va, len := 65536, pa := pa, cls := cls, ex := ex, sp := sp, mg := mg, st := st, marked := false, refuse := refuse, leaves := [leaves] }

/-- R59, R71, R72: a marked run of one page, of an operand extent or of the code, that is walked again holds what the walk finds now: the page where the extent's needs and class are met, else a refusal with the reason; a page that lacks a right is refused for that (reason 1) also where its class fails too, which is the model's choice of an order (log 52); where a migrating page holds the walk the run stays marked and the walk goes on. While a walk is under way the core is frozen. Of two marked runs that hold the page the one whose walk is over goes first. How long a walk takes is free (log 19); that the code extent is checked as the others are is the model's reading (log 17). -/
def Sys2Proof.RunsRewalked : Prop := (∀ s : State, s.core.seat.runs = true → s.core.pipe.mark = .running → s.core.sys.budget ≠ 0 → s.core.pipe.blocked s.wall = none →
    s.core.dev.walks ≠ [] → coreAct s = .change (s.onPipe fun p => { p with mark := .held .freezeFree })) ∧
  ∀ (s : State) (page : Nat) (r : Run) (f : Func), fnOf s s.core.seat.fn = some f →
  (let holds := fun (r : Run) => r.marked && decide (r.va ≤ page) && decide (page < r.va + r.len)
   let ended := s.core.dev.runs.find? fun r => holds r && s.core.dev.walks.any fun w => decide (w.ext = r.ext ∧ w.va = r.va ∧ w.due ≤ s.wall)
   ended = some r ∨ (ended = none ∧ s.core.dev.runs.find? holds = some r)) →
  let x := s.core.dev.extent r.ext
  let found := translate { s with draws := s.draws + 1 } f (freeNow s) r.va
  let others := s.core.dev.walks.filter fun w => decide (w.ext ≠ r.ext ∨ w.va ≠ r.va)
  let becomes := fun (n : Run) => ∃ t, exec (.runRewalk page) s = .next t ∧ t.core.dev.runs = (s.core.dev.runs.filter fun x => x != r) ++ [n] ∧ t.core.dev.walks = others ∧
    t.core.regs = s.core.regs ∧ t.core.sp = s.core.sp
  (∃ t, exec (.runRewalk page) s = .next t) ∧
  (r.len = 65536 →
    (∀ p, found = .page p →
      let fits := p.grants x.need = true ∧ p.cls s.core.seat.die ≤ x.lcreq
      (fits → becomes (onePage r p.pa (p.cls s.core.seat.die) p.ex p.sp p.mg .present none p.leaves)) ∧
      (p.grants x.need = false → becomes (onePage r 0 0 false false false .absent (some 1) [])) ∧
      (p.grants x.need = true → x.lcreq < p.cls s.core.seat.die → becomes (onePage r 0 0 false false false .absent (some 2) []))) ∧
    (found = .held → ∃ t, exec (.runRewalk page) s = .next t ∧ t.core = { s.core with dev := { s.core.dev with walks := others ++ [{ ext := r.ext, va := r.va, due := s.wall + 1 }] } } ∧ t.mem = s.mem) ∧
    (∀ stage addr slot, found = .absent stage addr slot → becomes (onePage r 0 0 false false false .absent (some 0) [])))

/-- R65, R74, R420: the resolver answers the request at the head: it leaves. Where the level-0 entry is absent, a frame is listed and the quota has room, the topmost frame is mapped with all rights, EX for a fetch, and SP unless FMODE bit 2 is set; one unit is charged; the frame, if it changes owner, reads zero, and every other byte of memory is as before. Past the quota nothing is charged or taken. -/
def Sys2Proof.ResolverAnswers : Prop := ∀ (s : State) (fn : Nat) (f : Func) (r : Resolution), fnOf s fn = some f → resolverRequest s f = some r →
  FunctionAfter (.hardwareResolver fn) s fn fun t g => (∀ x ∈ g.resolutions, x.id ≠ r.id) ∧
    (r.cond = 0 → (f.num = 0 ∨ r.stage ≠ 1) → ∀ slot, requestSlot s f r = some (some slot) → f.rfcount ≠ 0 →
      let frame := peekLe s.mem (f.rflist + 8 * (f.rfcount - 1)) 8
      let leaf := frame + 2 ^ 63 + 2 ^ 62 + 2 ^ 61 + 2 ^ 60 + (if r.need.testBit 3 then 2 ^ 59 else 0) + 2 ^ 58 + (if f.fmode.getLsbD 2 then 0 else 2 ^ 56)
      (f.qused + 1 ≤ f.quota → g.rfcount = f.rfcount - 1 ∧ g.qused = f.qused + 1 ∧ ∀ a, peek t.mem a =
        if slot ≤ a ∧ a < slot + 8 then nth (leBytes 8 leaf) (a - slot) 0
        else if f.fmode.getLsbD 2 = false ∧ frame ≤ a ∧ a < frame + 65536 then 0 else peek s.mem a) ∧
      (f.quota < f.qused + 1 → g.rfcount = f.rfcount ∧ g.qused = f.qused))

/-- R65, R74, R410: an entry of ring 5 that the layout allows and that names a request answers it: the request leaves, a RESOLVE within the quota charges its units, and the entry has been read. -/
def Sys2Proof.HostResolves : Prop := ∀ (s : State) (fn : Nat) (f : Func) (e : List Byte) (r : Resolution), fnOf s fn = some f → 5 < f.rings.length → nextEntry s f 5 = some e →
  zeroOutside [(0, 10), (16, 8)] e = true → leNat (slice e 8 1) ≤ 1 → leNat (slice e 9 1) ≤ 4 → (f.resolutions.find? fun r => r.id == leNat (slice e 0 8)) = some r →
  FunctionAfter (.resolutionAnswer fn) s fn fun _ g => (g.ring 5).head = (f.ring 5).head + 1 ∧ (∀ x ∈ g.resolutions, x.id ≠ r.id) ∧
    g.qused = if leNat (slice e 8 1) = 0 ∧ f.qused + leNat (slice e 16 8) ≤ f.quota then f.qused + leNat (slice e 16 8) else f.qused

/-- R33, R73: the scrub of a frame leaves no granule of it pending, clears SP in its leaf if that still maps the frame with SP set, and changes no other byte of memory; a pass of the background scrubber corrects and counts an erased granule that can be rebuilt, and the next one follows within 2^28 cycles. -/
def Sys2Proof.ScrubsComplete : Prop := ∀ (s : State) (page : Nat) (p : ScrubPage),
  ((s.scrubPages.find? fun p => p.frame == page) = some p → ∃ t, exec (.scrub page) s = .next t ∧ p ∉ t.scrubPages ∧
    (∀ g, p.frame / 64 ≤ g → g < p.frame / 64 + 1024 → g ∉ t.scrub) ∧
    let e := BitVec.ofNat 64 (peekLe s.mem p.leaf 8)
    ∀ a, peek t.mem a = if a = p.leaf + 7 ∧ e.getLsbD 63 = true ∧ e.getLsbD 56 = true ∧ 65536 * (e.extractLsb' 16 36).toNat = p.frame then peek s.mem a &&& 0xFE else peek s.mem a) ∧
  (∃ t, exec .scrubberPass s = .next t ∧ s.wall < t.scrubNext ∧ t.scrubNext ≤ s.wall + 2 ^ 28 ∧
    ∀ bank row, bank < 18 → s.core.sp.erased = [(18 * row + bank, 1)] → s.core.sp.failedBanks = [] → (∀ c ∈ s.cores, c.sp.erased = []) →
      t.core.sp.erased = [] ∧ t.core.sp.counts.get bank = s.core.sp.counts.get bank + 1 ∧ t.core.sp.data = s.core.sp.data)

/-- R67 to R71, R76, R410: an entry of ring 3 starts an invalidation, of the kind, function, count and address that the entry gives to the physical function, and of the issuing function's own pages otherwise; the runs of the function's bound cores that it covers are marked. Its completion passes the entry and puts, for KIND 3, the registers of its issue into effect. -/
def Sys2Proof.InvalidationsComplete : Prop := ∀ (s : State) (fn : Nat) (f : Func), fnOf s fn = some f → 3 < f.rings.length →
  (invalReady f = true → FunctionAfter (.invalidation fn) s fn fun t g =>
    let e := ringEntry s f 3 f.invals.length
    let d := BitVec.ofNat 128 (leNat (slice e 0 16))
    let kind := if fn = 0 then (d.extractLsb' 124 4).toNat else 0
    let dest := if fn = 0 then (d.extractLsb' 116 8).toNat else fn
    let addr := (d.extractLsb' 0 80).toNat
    let good := zeroOutside [(0, 16)] e = true ∧ kind ≤ 3 ∧ dest ≤ 128 ∧ d.extractLsb' 80 16 = 0 ∧ addr % (if kind = 3 then 2 ^ 29 else 65536) = 0
    ∃ v : Inval, g.invals = f.invals ++ [v] ∧
      (good → v.kind = kind ∧ v.fn = dest ∧ v.count = (d.extractLsb' 96 20).toNat + 1 ∧ v.addr = addr ∧ v.flushed = false ∧ v.regs = nth f.issuedRegs f.invals.length [s.dirbase, s.dirlen, s.expbase, s.explen]) ∧
      (s.core.seat.status ≠ .free → s.core.seat.fn = dest → t.core.dev.runs = s.core.dev.runs.map fun r =>
        if good ∧ ((kind = 0 ∧ r.va < addr + 65536 * v.count ∧ addr < r.va + r.len) ∨ kind = 1 ∨ kind = 2) then { r with marked := true } else r)) ∧
  (∀ v, invalDone s f = some v → FunctionAfter (.invalidationComplete fn) s fn fun t g => g.invals = f.invals.tail ∧ (g.ring 3).head = (f.ring 3).head + 1 ∧
    t.fabricRegs = (if v.kind = 3 then v.regs else s.fabricRegs) ∧ t.mem = s.mem)

/-- R143, R368: the verification of a spare bank ends with its image verified or refused with its reason and index; a stopping function whose groups have all stopped is stopped, no bind left. -/
def Sys2Proof.FunctionServicesComplete : Prop := ∀ (s : State) (fn : Nat) (f : Func), fnOf s fn = some f →
  (f.spareBank.vstat = 1 → f.active < 2 → f.banks.length = 2 → FunctionAfter (.verificationDone fn) s fn fun _ g => g.spareBank.code = f.spareBank.code ∧ match imageRefusal f.spareBank.code with
    | none => g.spareBank.vstat = 2
    | some x => g.spareBank.vstat = 3 ∧ g.vreason = x.1 ∧ g.failix = x.2) ∧
  (stopDone s f = true → FunctionAfter (.functionStopped fn) s fn fun _ g => g.stopped = true ∧ g.stopReq = true ∧ g.binds = [])

/-- R33, R40, R59 to R76, R143, R151, R155, R163, R203, R357 to R371, R389, R409 to R411, R420, R422: each event of the scheduler and of its services completes when the manual says it occurs, with what it does. When the events come is free, and the conditions, and that a record holds the low 64 bits of an address, are the model's readings (logs 1, 4, 11, 16 to 20 and 59); that a page which lacks a right and fails its class too is refused for the right is its choice (log 52). A core dispatched beside any bound partner, one in exclusive mode too, has STATE 0b00, as R163 says it. -/
def Obligations.SchedulerEventsComplete : Prop :=
  DispatchCompletes ∧ TasksComplete ∧ DecisionsComplete ∧ RunsRewalked ∧ ResolverAnswers ∧ HostResolves ∧ ScrubsComplete ∧ InvalidationsComplete ∧ FunctionServicesComplete

/-! ### The host -/

/-- The state with functions of a number changed. -/
def Sys2Proof.withFunc (s : State) (fn : Nat) (g : Func → Func) : State := { s with fns := s.fns.map fun f => if f.num = fn then g f else f }

/-- The function with one ring changed. -/
def Sys2Proof.withRing (f : Func) (ring : Nat) (g : Ring → Ring) : Func := { f with rings := modifyNth f.rings ring g }

/-- R143 to R145, R355, R368, R370, R371, R403 to R405, R411 to R414: each host write to a function that exists completes with the change the manual gives it, and where the manual discards it with none. -/
def Sys2Proof.HostWritesRun : Prop := ∀ (s : State) (fn : Nat) (f : Func) (data : Word) (w : BitVec 32), fnOf s fn = some f →
  let does := fun (i : Instr) (g : Func → Func) => exec i s = .next (withFunc s fn g)
  let write := fun (o : Nat) => Instr.registerWrite fn o (.value data)
  let back := fun (o : Nat) => Instr.registerWrite fn o (.back data)
  let field := fun (o : Nat) => Instr.partitionDescriptorWrite fn o data
  let drains := fun (i : Instr) (r : Ring) => ∀ es rest, f.waitingDone = es ++ rest → (∀ e ∈ es, e.length = 64) → r.size ≤ 16 → (es ≠ [] → r.room es.length = true) →
    (rest ≠ [] → r.room (es.length + 1) = false) → 2 < f.rings.length → ∃ t g, exec i s = .next t ∧ fnOf t fn = some g ∧ g.waitingDone = rest ∧
    (g.ring 2).head = r.head ∧ (g.ring 2).tail = r.tail + BitVec.ofNat 32 es.length ∧ ∀ k e, es[k]? = some e →
      let slot := r.slot (r.tail + BitVec.ofNat 32 k)
      (∀ i, i < 64 → (i < 8 ∨ 16 ≤ i) → peek t.mem (slot + i) = nth e i 0) ∧ peekLe t.mem (slot + 8) 4 = (r.seq + BitVec.ofNat 32 k).toNat ∧
      ∀ v ∈ g.tasks, v.num ≠ leNat (slice e 6 2)
  (∀ slot dword, slot < 16 → dword < 7 → does (.launchStage fn slot dword data) fun g => { g with launch := g.launch.set (8 * slot + dword) data }) ∧
  (∀ slot, slot < 16 → ∃ t, exec (.launchRecord fn slot data) s = .next t ∧ ∀ g, fnOf t fn = some g → ∀ k, g.launch.get k = if k / 8 = slot then 0 else f.launch.get k) ∧
  (∀ index, index < 256 → f.swapPend = false → f.active < 2 → f.banks.length = 2 → ∃ t g, exec (.policyWindowWrite fn index w) s = .next t ∧ fnOf t fn = some g ∧
    g.spareBank.vstat = 0 ∧ nth g.spareBank.code index 0 = w ∧ g.banks[g.active]? = f.banks[f.active]?) ∧
  (∀ index, index < 256 → f.swapPend = true → ∃ t, exec (.policyWindowWrite fn index w) s = .next t ∧ ∀ g, fnOf t fn = some g → g.banks = f.banks) ∧
  (f.swapPend = false → f.active < 2 → f.banks.length = 2 → ∃ t g, exec (.pcmdVerify fn) s = .next t ∧ fnOf t fn = some g ∧ g.spareBank.vstat = 1 ∧ s.wall ≤ g.verifyDue) ∧
  (does (.pcmdSwap fn) fun g => { g with swapPend := g.swapPend || decide (g.spareBank.vstat = 2) }) ∧
  (does (.stopRequest fn) fun g => { g with stopReq := true, savedGroups := if g.stopReq then g.savedGroups else 0 }) ∧
  (f.resetting = false → ∃ t, exec (.resume fn) s = .next t ∧ ∀ g, fnOf t fn = some g → g.stopReq = false ∧ (f.stopReq = true → g.stopped = false)) ∧
  (f.resetting = true → exec (.resume fn) s = .next s) ∧
  (∃ t, exec (.uestaClear fn data) s = .next t ∧ ∀ g, fnOf t fn = some g → g.uesta = f.uesta &&& ~~~data ∧ g.cesta = f.cesta) ∧
  (does (.cestaClear fn data) fun g => { g with cesta := g.cesta &&& ~~~data }) ∧
  (does (.fmodeWrite fn data) fun g => if g.stopped then { g with fmode := data &&& 0xF } else g) ∧
  (∀ ring, ring < 8 →
    (does (.ringBaseWrite fn ring data) fun g => if f.stopped = true ∧ data.toNat % 64 = 0 then withRing g ring fun r => { r with base := data.toNat } else g) ∧
    (let sized := fun (r : Ring) => { r with size := data.toNat % 256, head := 0, tail := 0, drop := 0, disc := 0, seq := 0, ends := [] }
     let taken := f.stopped = true ∧ (data.toNat % 256 = 0 ∨ (4 ≤ data.toNat % 256 ∧ data.toNat % 256 ≤ 16))
     (¬taken → exec (.ringSizeWrite fn ring data) s = .next s) ∧ (∃ t, exec (.ringSizeWrite fn ring data) s = .next t) ∧
     (taken → (ring ≠ 3 → (ring ≠ 2 ∨ f.waitingDone = []) → does (.ringSizeWrite fn ring data) fun g => withRing g ring sized) ∧
       (ring = 2 → drains (.ringSizeWrite fn ring data) (sized (f.ring 2))) ∧
       (ring = 3 → does (.ringSizeWrite fn ring data) fun g => { withRing g ring sized with issuedRegs := [], invals := [] }))) ∧
    (let r := f.ring ring
     let forward := (w - r.head).toNat ≤ r.held
     (∃ t, exec (.ringHeadWrite fn ring w) s = .next t) ∧
     (ring = 3 ∨ ring = 5 ∨ ring = 7 → exec (.ringHeadWrite fn ring w) s = .next s) ∧
     (ring ≠ 3 → ring ≠ 5 → ring ≠ 7 →
       (forward → (ring ≠ 2 ∨ f.waitingDone = []) → does (.ringHeadWrite fn ring w) fun g => withRing g ring fun r => { r with head := w }) ∧
       (forward → ring = 2 → drains (.ringHeadWrite fn ring w) { r with head := w }) ∧
       (¬forward → does (.ringHeadWrite fn ring w) fun g => withRing g ring fun r => { r with drop := min (r.drop + 1) 4294967295 }))) ∧
    (∃ t, exec (.ringTailWrite fn 3 w) s = .next t ∧ ∀ g, fnOf t fn = some g → ∀ r r', f.rings[3]? = some r → g.rings[3]? = some r' →
      if (w - r.tail).toNat + r.held ≤ (if r.size = 0 then 0 else 2 ^ r.size) then r' = { r with tail := w } else r' = { r with drop := min (r.drop + 1) 4294967295 }) ∧
    (ring = 5 ∨ ring = 7 → does (.ringTailWrite fn ring w) fun g =>
      if (w - (f.ring ring).tail).toNat + (f.ring ring).held ≤ (if (f.ring ring).size = 0 then 0 else 2 ^ (f.ring ring).size) then withRing g ring fun r => { r with tail := w }
      else withRing g ring fun r => { r with drop := min (r.drop + 1) 4294967295 }) ∧
    (ring ≠ 3 → ring ≠ 5 → ring ≠ 7 → exec (.ringTailWrite fn ring w) s = .next s)) ∧
  (does (.qrelWrite fn data) fun g => { g with qused := g.qused - data.toNat, charges := g.charges.drop data.toNat }) ∧ (does (.rfcountWrite fn w) fun g => { g with rfcount := w.toNat }) ∧
  (∀ o, ∃ t, exec (field o) s = .next t) ∧
  (∀ k, k < 4 → ∃ m : BitVec 256, m.extractLsb' (64 * k) 64 = data ∧ (∀ j, j < 4 → j ≠ k → m.extractLsb' (64 * j) 64 = f.cores.extractLsb' (64 * j) 64) ∧
    let owners := f.stopped = true ∧ ∀ g ∈ s.fns, g.num = fn ∨ g.stopped = true ∨ g.cores &&& (f.cores ^^^ m) = 0
    (owners → does (field (8 * k)) fun g => { g with cores := m }) ∧ (¬owners → exec (field (8 * k)) s = .next s)) ∧
  (f.stopped = true → (does (field 32) fun g => { g with root2 := if fn = 0 then 0 else data.toNat }) ∧ (does (field 40) fun g => { g with poolPa := data.toNat }) ∧
    (does (field 64) fun g => { g with engineQuotas := data.extractLsb' 0 24 }) ∧ does (field 88) fun g => { g with rflist := data.toNat }) ∧
  (f.stopped = false → ∀ o, o = 32 ∨ o = 40 ∨ o = 64 ∨ o = 88 → exec (field o) s = .next s) ∧
  (f.stopped = true ∨ f.poolLen ≤ data.toNat → does (field 48) fun g => { g with poolLen := data.toNat }) ∧
  (f.stopped = false → data.toNat < f.poolLen → exec (field 48) s = .next s) ∧ (does (field 56) fun g => { g with quota := data.toNat }) ∧
  exec (field 80) s = exec (.qrelWrite fn data) s ∧ (does (field 96) fun g => { g with rfcount := data.toNat % 4294967296 }) ∧
  (∀ o, o ∉ [0, 8, 16, 24, 32, 40, 48, 56, 64, 80, 88, 96] → exec (field o) s = .next s) ∧
  (∀ i, (i = write ∨ i = back) → (does (i 0x810) fun g => { g with quantum := data.toNat }) ∧ (∀ o, o % 8 ≠ 0 → exec (i o) s = .next s) ∧ ∀ o, ∃ t, exec (i o) s = .next t) ∧
  (∀ o, o < 0x400 → o % 8 = 0 → exec (write o) s = if o % 64 = 56 then exec (.launchRecord fn (o / 64) data) s else exec (.launchStage fn (o / 64) (o % 64 / 8) data) s) ∧
  (∀ k, k < 128 → ∃ t, exec (.policyWindowWrite fn (2 * k) (data.extractLsb' 0 32)) s = .next t ∧
    exec (write (0x400 + 8 * k)) s = exec (.policyWindowWrite fn (2 * k + 1) (data.extractLsb' 32 32)) t) ∧
  exec (write 0x800) s = (if data = 1 then exec (.pcmdVerify fn) s else if data = 2 then exec (.pcmdSwap fn) s else .next s) ∧
  exec (write 0x818) s = exec (.fmodeWrite fn data) s ∧ exec (write 0x820) s = (if data.getLsbD 0 then exec (.stopRequest fn) s else exec (.resume fn) s) ∧
  exec (write 0x828) s = exec (.uestaClear fn data) s ∧ exec (write 0x838) s = exec (.cestaClear fn data) s ∧
  (does (write 0x830) fun g => { g with uemsk := data &&& 0x3F#64 }) ∧ (does (write 0x840) fun g => { g with cemsk := data &&& 0xF#64 }) ∧
  (∀ ring, ring < 8 → exec (write (0x900 + 32 * ring)) s = exec (.ringBaseWrite fn ring data) s ∧ exec (write (0x908 + 32 * ring)) s = exec (.ringSizeWrite fn ring data) s ∧
    exec (write (0x910 + 32 * ring)) s = exec (.ringHeadWrite fn ring (data.extractLsb' 0 32)) s ∧ exec (write (0x918 + 32 * ring)) s = exec (.ringTailWrite fn ring (data.extractLsb' 0 32)) s) ∧
  (fn = 0 → exec (write 0xA00) s = .next { s with dirbase := data.toNat } ∧ exec (write 0xA08) s = .next { s with dirlen := data.toNat } ∧
    exec (write 0xA10) s = .next { s with expbase := data.toNat } ∧ exec (write 0xA18) s = .next { s with explen := data.toNat }) ∧
  (∀ o, o = 0x808 ∨ (0x848 ≤ o ∧ o < 0x900) ∨ 0xA20 ≤ o ∨ (fn ≠ 0 ∧ 0xA00 ≤ o) → exec (write o) s = .next s) ∧
  (f.stopped = false → ∀ o, exec (back o) s = exec (write o) s) ∧
  (f.stopped = true → (∀ ring k, ring < 8 → k < 4 → ∃ t, exec (back (0x900 + 32 * ring + 8 * k)) s = .next t ∧ t.mem = s.mem ∧
      ∀ g, fnOf t fn = some g → ∀ n r r', f.rings[n]? = some r → g.rings[n]? = some r' → if n = ring then { r' with ends := r.ends } =
        (if k = 0 then { r with base := data.toNat } else if k = 1 then { r with drop := (data.extractLsb' 32 32).toNat, disc := (data.extractLsb' 16 16).toNat, size := (data.extractLsb' 0 8).toNat }
         else if k = 2 then { r with head := data.extractLsb' 0 32 } else { r with tail := data.extractLsb' 0 32 }) else r' = r) ∧
    (does (back 0x808) fun g => { g with overruns := (data.extractLsb' 32 32).toNat, failix := (data.extractLsb' 16 8).toNat, vreason := (data.extractLsb' 8 4).toNat, active := (data.extractLsb' 4 1).toNat }) ∧
    (does (back 0x828) fun g => { g with uesta := data &&& 0x3F#64, hdrTaken := (data &&& 0x3F#64 &&& ~~~g.uemsk) != 0 }) ∧
    (does (back 0x830) fun g => { g with uemsk := data &&& 0x3F#64, hdrTaken := (g.uesta &&& ~~~(data &&& 0x3F#64)) != 0 }) ∧
    (does (back 0x838) fun g => { g with cesta := data &&& 0xF#64 }) ∧
    ∀ i, i < 8 → does (back (0x848 + 8 * i)) fun g => { g with
      hdrlog := g.hdrlog.take (8 * i) ++ leBytes 8 data.toNat ++ g.hdrlog.drop (8 * i + 8), hdrTaken := (g.uesta &&& ~~~g.uemsk) != 0 })

/-- Checks made in order: the first that is bad gives its number; where none is, there is none. -/
def Sys2Proof.FirstRefusal : List (Prop × Nat) → Option Nat → Prop
  | [], k => k = none
  | (bad, n) :: rest, k => (bad → k = some n) ∧ (¬bad → Sys2Proof.FirstRefusal rest k)

/-- R58: what an extent descriptor keeps, as the code extent or another. -/
def Sys2Proof.DescriptorOk (code : Bool) (d : Nat) : Prop :=
  d / 2 ^ 176 % 2 ^ 80 % 64 = 0 ∧ d / 2 ^ 128 % 2 ^ 48 ≠ 0 ∧ (bit d 125 = true → bit d 127 = true ∧ bit d 126 = true) ∧ bit d 121 = code ∧ d % 2 ^ 121 = 0

/-- R152: what the widths, the number of fields and the counts of a layout keep. -/
def Sys2Proof.LayoutOk (width count : Nat → Nat) (fields : Nat) : Prop :=
  1 ≤ fields ∧ fields ≤ 6 ∧ ((List.range 6).map width).foldl (· + ·) 0 ≤ 64 ∧
    ∀ j, j < 6 → (j < fields → width j ≠ 0 ∧ 1 ≤ count j ∧ count j ≤ 2 ^ width j) ∧ (fields ≤ j → width j = 0 ∧ count j = 1)

/-- R353 to R357, R360: what the write of dword 7 of a slot makes of the record of the staged dwords and it. While earlier records wait, and where its task block lies on a migrating page, it waits behind them. Else the first check of R356 that fails refuses it: there is no task, and the error ring, if it has room, gets a TYPE 5 record with the refusal and the queue. Where none fails there is a live task with the lowest free number at the tail of the slot's queue, of the record's and the block's fields, waiting for the live tasks that DEPS names; one that waits for none raises ARRIVE, or CROWD while no core of the partition is free. A block that is not at a multiple of 64 counts as unreadable (log 33). -/
def Sys2Proof.LaunchRecordSubmits : Prop := ∀ (s s2 : State) (fn slot : Nat) (f : Func) (data : Word) (out : Read), fnOf s fn = some f → slot < 16 →
  let bs := ((List.range 7).flatMap fun i => leBytes 8 (f.launch.get (8 * slot + i)).toNat) ++ leBytes 8 data.toNat
  let r := leNat bs
  let at_ := fun (lo n : Nat) => r / 2 ^ lo % 2 ^ n
  let nx := at_ 382 5
  let tblk := at_ 432 80
  let emptied := fun (f : Func) => { f with launch := f.launch.keep fun k => decide (k / 8 ≠ slot) }
  let s1 := withFunc s fn emptied
  let reserved := at_ 0 206 ≠ 0 ∨ 16 < nx
  let submits := exec (.launchRecord fn slot data) s
  (f.submits ≠ [] → submits = .next (withFunc s fn fun g => { emptied g with submits := g.submits ++ [(slot, bs)] })) ∧
  (f.submits = [] → (if reserved ∨ tblk % 64 ≠ 0 then out = .unreadable ∧ s2 = s1 else readVirt (emptied f) noneId none (freeNow s1) tblk (96 + 32 * nx) { s1 with draws := s1.draws + 1 } = (out, s2)) →
    (out = .hold → submits = .next (withFunc s2 fn fun g => { g with submits := g.submits ++ [(slot, bs)] })) ∧
    (out ≠ .hold → ∀ g k, fnOf s2 fn = some g →
      let b := match out with
        | .ok b => b
        | _ => []
      let width := fun (j : Nat) => at_ (387 + 7 * j) 7
      let count := fun (j : Nat) => leNat (slice b (8 * j) 8) + 1
      let ext := fun (i : Nat) => leNat (slice b i 32)
      let name := at_ 318 16
      let named := fun (d : Task) => d.name ≠ 0 ∧ ∃ k, k < 4 ∧ d.name = at_ (302 - 16 * k) 16
      FirstRefusal [(reserved, 1), (∀ b, out ≠ .ok b, 3), (¬LayoutOk width count (at_ 429 3), 2), (∃ i, 48 ≤ i ∧ i < 64 ∧ nth b i 0 ≠ 0, 3),
        (¬DescriptorOk true (ext 64) ∨ ∃ x, x < nx ∧ ¬DescriptorOk false (ext (96 + 32 * x)), 4), (name ≠ 0 ∧ ∃ d ∈ g.tasks, d.name = name, 5), (4096 ≤ g.tasks.length, 6)] k →
      (∀ n, k = some n → ∃ t h, submits = .next t ∧ fnOf t fn = some h ∧ h.tasks = g.tasks ∧ h.queues = g.queues ∧ h.uesta.getLsbD 4 = true ∧
        let ring := g.ring 0
        (g.uesta.getLsbD 4 = true → g.resetting = false → 0 < g.rings.length → ring.room 1 = true →
          let e := fun (i n : Nat) => peekLe t.mem (ring.slot ring.tail + i) n
          (h.ring 0).tail = ring.tail + 1 ∧ e 0 1 = 5 ∧ e 16 1 = n ∧ e 17 1 = slot ∧ e 24 10 = tblk)) ∧
      (k = none → (∀ d ∈ g.tasks, named d → d.ended = none) → ∃ t h u, submits = .next t ∧ fnOf t fn = some h ∧ t.mem = s2.mem ∧ h.tasks = g.tasks ++ [u] ∧
        u.num < 4096 ∧ (∀ d ∈ g.tasks, d.num ≠ u.num) ∧ (∀ m, m < u.num → ∃ d ∈ g.tasks, d.num = m) ∧
        h.queues[slot]? = g.queues[slot]?.map (fun q => q ++ [u.num]) ∧ (∀ q, q ≠ slot → h.queues[q]? = g.queues[q]?) ∧
        u.name = name ∧ u.queue = slot ∧ u.prio = at_ 374 8 ∧ u.deadline = at_ 342 32 ∧ u.demand = at_ 334 8 + 1 ∧ u.budget = at_ 206 48 ∧ u.accepted = s2.wall ∧ u.ended = none ∧
        u.widths = (List.range 6).map width ∧ u.counts = (List.range 6).map count ∧ u.fields = at_ 429 3 ∧ u.delivered = 0 ∧ u.saved = [] ∧
        u.codeDesc = BitVec.ofNat 256 (ext 64) ∧ u.extDescs = (List.range nx).map (fun x => BitVec.ofNat 256 (ext (96 + 32 * x))) ∧
        (∀ m, m ∈ u.edges ↔ ∃ d ∈ g.tasks, d.num = m ∧ named d) ∧
        let free := ∃ c ∈ allCores s2, g.cores.getLsbD c.seat.cid = true ∧ c.seat.status = .free ∧ c.seat.withdrawn = false
        let event := fun (kind : Nat) => some ({ kind := kind, core := 0, task := u.num, detail := 0, queue := slot } : Event)
        (u.edges = [] → free → h.dispatchFlag = event 1 ∧ h.preemptFlag = g.preemptFlag) ∧
        (u.edges = [] → ¬free → (∀ p, g.preemptFlag = some p → p.kind ≤ 4) → h.preemptFlag = event 4 ∧ h.dispatchFlag = g.dispatchFlag) ∧
        (u.edges ≠ [] → h.dispatchFlag = g.dispatchFlag ∧ h.preemptFlag = g.preemptFlag))))

/-- R143 to R145, R353 to R357, R368, R370, R371, R403 to R405, R411 to R414: each host write to a function that exists completes with the change the manual gives it, and where the manual discards it with none; a launch record becomes a task or is refused. Values off their alignment and reserved bits follow the model's readings (logs 13 and 22), and so do a resume while a reset is under way (log 21), the messages after a resume (log 58), which frames a QREL returns, the oldest charged (log 52), and the refusal of a block off its alignment (log 33): these are the model's choice. -/
def Obligations.HostWritesComplete : Prop := Sys2Proof.HostWritesRun ∧ Sys2Proof.LaunchRecordSubmits

/-- R103, R115, R127, R314, R370, R402 to R405, R412, R415, R416: a host read of HBM or host memory returns current memory and changes nothing else; a read of a readable register or of a descriptor's field returns it; a host write changes exactly its bytes; a host atomic returns what its location holds at its home, a write current at a narrower scope included (log 29), and writes as its operation says; a peer's read and write are served or refused by the export table, whose first valid entry of the device that covers the first byte's segment decides, and an unserved request is completed with an error; a request of a port beyond the package's 64 does not occur (R1). That pooled memory is refused to the host is the model's reading, and what leaves the package is its own outbox (logs 5 and 22). -/
def Obligations.MemoryRequestsComplete : Prop := ∀ (s : State) (pa : Nat),
  let old := fun (n : Nat) => (List.range n).map fun i => peek s.mem (pa + i)
  let home := fun (n : Nat) => (List.range n).map fun i => peek (homeImage s) (pa + i)
  (∀ len, exec (.hostRead (.memory pa) len) s = .next { s with outbox := s.outbox ++ [if frameOk pa len && !isPooled pa then .hostRead pa (old len) else .refused] }) ∧
  (∀ fn f, fnOf s fn = some f →
    let word := fun (place : HostPlace) (n : Nat) => exec (.hostRead place 8) s = .next { s with outbox := s.outbox ++ [.hostWord (BitVec.ofNat 64 n)] }
    word (.register fn 0x808) (f.overruns * 2 ^ 32 + f.failix % 256 * 2 ^ 16 + f.spareBank.vstat * 2 ^ 12 + f.vreason % 16 * 2 ^ 8 + f.active * 16 + if f.swapPend then 1 else 0) ∧
    word (.register fn 0x810) f.quantum ∧ word (.register fn 0x818) f.fmode.toNat ∧
    word (.register fn 0x820) ((if f.stopReq then 1 else 0) + if f.stopped then 2 else 0) ∧ word (.register fn 0x828) f.uesta.toNat ∧ word (.register fn 0x838) f.cesta.toNat ∧
    (∀ ring, ring < 8 → let r := f.ring ring
      word (.register fn (0x900 + 32 * ring)) r.base ∧ word (.register fn (0x908 + 32 * ring)) (r.drop * 2 ^ 32 + r.disc * 2 ^ 16 + r.size) ∧
      word (.register fn (0x910 + 32 * ring)) r.head.toNat ∧ word (.register fn (0x918 + 32 * ring)) r.tail.toNat) ∧
    word (.register fn 0x830) f.uemsk.toNat ∧ word (.register fn 0x840) f.cemsk.toNat ∧ (∀ i, i < 8 → word (.register fn (0x848 + 8 * i)) (leNat (slice f.hdrlog (8 * i) 8))) ∧
    (fn = 0 → word (.register fn 0xA00) s.dirbase ∧ word (.register fn 0xA08) s.dirlen ∧ word (.register fn 0xA10) s.expbase ∧ word (.register fn 0xA18) s.explen) ∧
    (∀ k, k < 4 → word (.descriptor fn (8 * k)) (f.cores.extractLsb' (64 * k) 64).toNat) ∧ word (.descriptor fn 32) f.root2 ∧ word (.descriptor fn 40) f.poolPa ∧
    word (.descriptor fn 48) f.poolLen ∧ word (.descriptor fn 56) f.quota ∧ word (.descriptor fn 64) f.engineQuotas.toNat ∧ word (.descriptor fn 88) f.rflist ∧
    word (.descriptor fn 72) f.qused ∧ word (.descriptor fn 80) 0 ∧ word (.descriptor fn 96) f.rfcount ∧
    ∀ o, (∃ t, exec (.hostRead (.register fn o) 8) s = .next t ∧ t.mem = s.mem ∧ t.core = s.core) ∧ ∃ t, exec (.hostRead (.descriptor fn o) 8) s = .next t) ∧
  (∀ data : List Byte, frameOk pa data.length = true → isPooled pa = false → ∃ t, exec (.hostWrite pa data) s = .next t ∧ t.core = s.core ∧ t.cores = s.cores ∧
    ∀ a, peek t.mem a = if pa ≤ a ∧ a < pa + data.length then nth data (a - pa) 0 else peek s.mem a) ∧
  (∀ data : List Byte, (frameOk pa data.length = false ∨ isPooled pa = true) → exec (.hostWrite pa data) s = .next { s with outbox := s.outbox ++ [.refused] }) ∧
  (∀ (op : HostAtomic) (len a b : Nat), (len = 4 ∨ len = 8 ∨ len = 16) → pa % len = 0 → isHbm pa = true → isHbm (pa + len - 1) = true →
    ∃ t, exec (.hostAtomic op pa len a b) s = .next t ∧ t.outbox = s.outbox ++ [.hostAtomic pa (home len)] ∧ t.core = s.core ∧
      (∀ x, (x < pa ∨ pa + len ≤ x) → peek t.mem x = peek s.mem x) ∧
      leNat ((List.range len).map fun i => peek t.mem (pa + i)) =
        (match op with
        | .fetchAdd => (leNat (home len) + a) % 256 ^ len
        | .swap => a % 256 ^ len
        | .cas => if leNat (home len) = b % 256 ^ len then a % 256 ^ len else leNat (old len))) ∧
  (∀ (peer : Peer) op len (data : List Byte), 64 ≤ peer.port → exec (.fabricRequest peer op pa len data) s = .refused (.notEnabled "FABRIC_REQUEST")) ∧
  (∀ (peer : Peer) (len : Nat), peer.port < 64 → len ≠ 0 → fabricServed s peer.device .read pa len = true →
    exec (.fabricRequest peer .read pa len []) s = .next { s with outbox := s.outbox ++ [.fabric peer.device (some (old len))] }) ∧
  (∀ (peer : Peer) (data : List Byte), peer.port < 64 → data ≠ [] → fabricServed s peer.device .write pa data.length = true →
    ∃ t, exec (.fabricRequest peer .write pa data.length data) s = .next t ∧ t.core = s.core ∧ t.outbox = s.outbox ++ [.fabric peer.device (some [])] ∧
      ∀ a, peek t.mem a = if pa ≤ a ∧ a < pa + data.length then nth data (a - pa) 0 else peek s.mem a) ∧
  (∀ (peer : Peer) op len (data : List Byte), peer.port < 64 → fabricServed s peer.device op pa len = false → ∃ t, exec (.fabricRequest peer op pa len data) s = .next t ∧
    t.core = s.core ∧ t.outbox.getLast? = some (.fabric peer.device none))

/-- R30, R33, R34, R392, R402, R413, R417 to R419: a function-level reset discards the rings of its function, marks every live task of it killed and leaves no member of it live; a task launched while the reset is under way is killed too; once its cores are free it is stopped, with no task, its rings unconfigured, FMODE zero and no verified policy; a cold start zeroes HBM and frees every core, a warm start keeps memory; a clock step changes nothing else; an upset of a granule or of a sample, a bank's failure and an attestation complete: a sample that cannot be corrected is bad until its face is written, be it that its upset says so, that two other banks of the tap store have failed, or that its row holds another such one; a tap bank that fails changes no word, and as one of the first two nothing of the samples. What a reset leaves beside R402, R413 and R417, that an upset of a sample names a bank and a row, and which samples a third failed bank loses is the model's choice (logs 3, 8, 21, 23, 24 and 51). -/
def Obligations.PackageEventsComplete : Prop := ∀ (s : State),
  (∀ fn f, fn ≠ 0 → fnOf s fn = some f → ∃ t g, exec (.functionLevelReset fn) s = .next t ∧ fnOf t fn = some g ∧ g.resetting = true ∧ g.stopReq = true ∧ g.launch = [] ∧
    (∀ r ∈ g.rings, r.size = 0 ∧ r.head = 0 ∧ r.tail = 0) ∧ (∀ u ∈ g.tasks, u.ended = none → u.killReq = true ∧ u.saved = []) ∧
    ∀ c ∈ allCores t, c.seat.fn = fn → (∃ u ∈ f.tasks, u.num = c.seat.task ∧ u.ended = none) → c.seat.live = false) ∧
  (∀ fn f u, fnOf s fn = some f → f.num = fn → f.resetting = true → u ∈ f.tasks → u.ended = none → u.killReq = false → ∃ t v, resetStep s f = some t ∧
    (∃ w ∈ f.tasks, w.ended = none ∧ w.killReq = false ∧ taskOf t fn w.num = some v ∧ v.killReq = true ∧ v.saved = [])) ∧
  (∀ fn f, fnOf s fn = some f → f.num = fn → f.resetting = true → f.resolutions = [] → (∀ u ∈ f.tasks, u.ended = none → u.killReq = true) →
    (∀ c ∈ allCores s, c.seat.fn = fn → c.seat.status = .free) → ∃ t g, resetStep s f = some t ∧ fnOf t fn = some g ∧ g.stopped = true ∧ g.stopReq = true ∧ g.resetting = false ∧ g.tasks = [] ∧ g.fmode = 0 ∧ g.launch = [] ∧ (∀ b ∈ g.banks, b.vstat = 0) ∧
    (∀ r ∈ g.rings, r.size = 0 ∧ r.head = 0 ∧ r.tail = 0) ∧ g.cores = f.cores ∧ g.quota = f.quota) ∧
  (∀ images, ∃ t, exec (.coldStart images) s = .next t ∧ (∀ a, peek t.mem a = if isHbm a then 0 else peek s.mem a) ∧
    (∀ g ∈ t.fns, g.stopped = true ∧ g.tasks = []) ∧ ∀ c ∈ allCores t, c.seat.status = .free) ∧
  (∀ images, ∃ t, exec (.warmStart images) s = .next t ∧ t.mem = s.mem ∧ (∀ g ∈ t.fns, g.stopped = true ∧ g.tasks = []) ∧ ∀ c ∈ allCores t, c.seat.status = .free) ∧
  exec (.clockThrottle true) s = .next { s with clockStep := s.clockStep + 1 } ∧ exec (.clockThrottle false) s = .next { s with clockStep := s.clockStep - 1 } ∧
  (∀ bank row, bank < 18 → row < 6144 → ∃ t, exec (.softError s.core.seat.cid (.granule bank row)) s = .next t ∧ SameOutside s t ∧ t.core.sp.data = s.core.sp.data ∧
    t.core.sp.erased.get (18 * row + bank) ≠ 0) ∧
  (∀ sig lag bank row g, bank < 18 → row < 3072 → s.core.sig sig = some g → lag < g.samples.length →
    let lost := fun (correctable : Bool) => ∃ t g', exec (.softError s.core.seat.cid (.sample sig lag bank row correctable)) s = .next t ∧ t.core.sig sig = some g' ∧
      g'.samples[lag]? = (g.samples[lag]?).map fun x => { x with bad := some (bank, row) }
    let clean := ∀ g ∈ s.core.taps, ∀ x ∈ g.samples, ∀ b, x.bad = some (b, row) → b = bank
    lost false ∧ (¬clean → lost true) ∧
    (bank ∉ s.core.tapBanks.failed → 2 ≤ s.core.tapBanks.failed.length → lost true) ∧
    (bank ∉ s.core.tapBanks.failed → s.core.tapBanks.failed.length < 2 → clean →
      ∃ t, exec (.softError s.core.seat.cid (.sample sig lag bank row true)) s = .next t ∧ t.core.taps = s.core.taps ∧ t.core.tapBanks.counts.get bank = s.core.tapBanks.counts.get bank + 1) ∧
    (bank ∈ s.core.tapBanks.failed → s.core.tapBanks.failed.length < 3 → clean → exec (.softError s.core.seat.cid (.sample sig lag bank row true)) s = .next s)) ∧
  (∀ bank, bank < 18 → (∃ t, exec (.bankHardFailure s.core.seat.cid (.scratch bank)) s = .next t ∧ bank ∈ t.core.sp.failedBanks) ∧
    ∃ t, exec (.bankHardFailure s.core.seat.cid (.tap bank)) s = .next t ∧ bank ∈ t.core.tapBanks.failed ∧ t.core.sp.data = s.core.sp.data ∧
      ((bank ∈ s.core.tapBanks.failed ∨ s.core.tapBanks.failed.length < 2) → t.core.taps = s.core.taps) ∧ t.core.taps.length = s.core.taps.length ∧
      ∀ (i : Nat) (g : Sig), s.core.taps[i]? = some g → ∃ g' : Sig, t.core.taps[i]? = some g' ∧ { g' with samples := g.samples } = g ∧ (g'.samples.map fun x => x.words) = (g.samples.map fun x => x.words) ∧
        ∀ (lag : Nat) (x : Sample), g.samples[lag]? = some x → x.bad ≠ none → g'.samples[lag]? = some x) ∧
  (∀ nonce, ∃ r sig, exec (.attestationReport nonce) s = .next { s with outbox := s.outbox ++ [.attestation r sig] } ∧
    ∃ rest, r = leBytes 64 nonce ++ (s.meas.flatMap fun m => (leBytes 64 m.toNat).reverse) ++ rest)

/-! ### Encoding -/

/-- R167, R182: every well-formed syllable decodes from its own word: no bit of an encoding is dropped. -/
def Obligations.EncodeDecodeSyllable : Prop := ∀ (i : Instr) (w : Syllable), i.wf = true → encodeSyllable i = some w → decodeSyllable w = .ok i

/-- R167, R180, R364: a word decodes to at most the instruction whose word it is: a syllable the decoder accepts is the word of its instruction, and so with bytecodes in both directions; no two words decode alike. -/
def Obligations.DecodeEncode : Prop :=
  (∀ (w : Syllable) (i : Instr), decodeSyllable w = .ok i → encodeSyllable i = some w) ∧
  (∀ (w : BitVec 32) (i : Instr), decodeBytecode w = .ok i → encodeBytecode i = some w) ∧
  ∀ (i : Instr) (w : BitVec 32), encodeBytecode i = some w → tchOk i = true → decodeBytecode w = .ok i

/-- Words written out in the manual decode to what it says they are: R186 (nop), R202 (exit), R218 (brc), R240 (trd), R300 (cvtq), R314 (ldd.acq), R317 (cpy.d2s), R364 (bytecodes), and reserved words to none. -/
def Obligations.DecodeSpecWords : Prop :=
  (∃ h o, decodeSyllable 0xA8000000FF04100C0000020000000000 = .ok (.trd h o) ∧ h.stop = true ∧ h.cmask = 0xFF ∧ h.fmt = 0x04 ∧ o.d = 4 ∧ o.sig = 3 ∧ o.lag = 2 ∧ o.lr = false) ∧
  (∃ h o, decodeSyllable 0x82080000001C0041402000FFFFFFFFFD = .ok (.brc h o) ∧ o.imm.toInt = -3 ∧ o.bsel = 0) ∧
  (∃ h o, decodeSyllable 0xA0080000FF5450404700000000000000 = .ok (.cvtq h o) ∧ o.d = 20 ∧ o.a = 4 ∧ o.c = 7) ∧
  (∃ h o, decodeSyllable 0xC8184800002C14000426300000000008 = .ok (.lddAcq h o) ∧ o.d = 5 ∧ o.imm24 = 8) ∧
  (∃ h o, decodeSyllable 0xC80000000000105180014C2040008000 = .ok (.cpyD2s h o)) ∧
  (∃ h o, decodeSyllable 0x82800000000000000000000000000000 = .ok (.nop h o)) ∧ (∃ h o, decodeSyllable 0x82600000000000000000000000000000 = .ok (.exit h o)) ∧
  decodeSyllable 0xF8000000000000000000000000000000 = .error .reservedClass ∧
  decodeBytecode 0x6CC200DF = .ok (.tchLoopn 3 13 15) ∧ decodeBytecode 0x810E0000 = .ok (.tchQrd 4 3 0) ∧ decodeBytecode 0xC0080005 = .ok (.tchBind 2 5) ∧
  decodeBytecode 0x810E0009 = .error .badBytecode

/-! ### The machine -/

/-- Log 3: the memory keeps its canonical form, addresses strictly rising and no entry that reads as an unlisted byte, over every step. -/
def Obligations.MemoryCanonicalKept : Prop := ∀ s t : State, memWf s.mem = true → Machine.step s = .next t → memWf t.mem = true

/-- R413, R417: after a start the memory is in its canonical form and reads zero everywhere; every core is free with its registers zero; every function is stopped, with no live task, no verified policy, FMODE zero and its rings unconfigured. That unbound registers and unlisted memory read zero is the model's choice (logs 2, 3 and 8). -/
def Obligations.ResetState : Prop :=
  memWf State.reset.mem = true ∧ (∀ a, peek State.reset.mem a = 0) ∧ (allCores State.reset).length = 256 ∧
  (∀ c ∈ allCores State.reset, c.seat.status = .free ∧ (∀ r, c.sreg r = 0) ∧ c.sys.now = 0 ∧ c.sys.tl = 0 ∧ (∀ a, c.sp.byte a = 0) ∧ c.taps = []) ∧
  State.reset.fns.length = 129 ∧
  ∀ f ∈ State.reset.fns, f.stopReq = true ∧ f.stopped = true ∧ f.tasks = [] ∧ f.fmode = 0 ∧ f.launch = [] ∧ (∀ b ∈ f.banks, b.vstat ≠ 2) ∧
    ∀ r ∈ f.rings, r.size = 0 ∧ r.head = 0 ∧ r.tail = 0 ∧ r.drop = 0 ∧ r.disc = 0

/-- R168, R169, R171, R364: a step runs the decoded instruction. When no event comes first and the core at turn fetches, its group being the one syllable `w`, mapped executable in a run of its code extent, at a place that has an owner, and the same in every image that the core may fetch from, the step is exec of the syllable's instruction, with one free value used; a group of several syllables is issued as one; a bytecode of a running decision is executed when the package's turn comes to it. The order of events and turns is the model's (log 5). -/
def Obligations.StepRunsInstruction : Prop :=
  (∀ (s : State) (r : Run) (w : Syllable) (i : Instr) (pa : Nat), pickEvent s = none → coreAct s = .fetch → s.core.pipe.fetchFail = none → fetchPending s = false →
    s.core.dev.code.declared = true → s.core.dev.code.perAccess = false → s.core.dev.code.base ≤ s.core.pipe.pc.toNat →
    s.core.pipe.pc.toNat + 16 ≤ s.core.dev.code.base + s.core.dev.code.len → s.core.dev.runAt 16 s.core.pipe.pc.toNat = some r → r.marked = false → r.mg = false →
    r.st = .present → r.ex = true →
    lookOwned s (freeNow s) (r.pa + (s.core.pipe.pc.toNat - r.va)) = .at_ pa → (∀ img ∈ codeImages s, peekLe img pa 16 = w.toNat) →
    w.getLsbD 127 = true → decodeSyllable w = .ok i → Machine.step s = exec i { s with draws := s.draws + 1 }) ∧
  (∀ (s : State) (ws : List Syllable), pickEvent s = none → coreAct s = .fetch → (fetchGroup s).1 = .group ws → Machine.step s = runGroup exec (ws.map slotOfWord) (fetchGroup s).2) ∧
  (∀ (s : State) (i : Instr) (s' : State), pickEvent s = some (.event i s') → Machine.step s = exec i s') ∧
  (∀ (s : State) (f : Func) (d : Decision) (i : Instr), d.cost < 1024 → i ≠ .tchEnd → decodeBytecode (nth d.code d.ix 0) = .ok i →
    ∃ s', bytecodeDue s f d = some (.event i s') ∧ s' = { s with fnTurn := f.num })
end

