-- ==== Sys2Proof/Laws/Constructors.lean ====
section
/-! SUPPORT. One lemma for each constructor of `Instr`: its arm of `exec`, its syllable, its field checks, its bytecode fields. No proof need open a match of 260 arms. -/
namespace Sys2Proof.Machine

/-! ### exec -/

@[simp] theorem exec_sAdd (h : Hdr) (o : LReg) (s : State) : exec (.sAdd h o) s = execSAdd h o s := rfl
@[simp] theorem exec_sSub (h : Hdr) (o : LReg) (s : State) : exec (.sSub h o) s = execSSub h o s := rfl
@[simp] theorem exec_sMul (h : Hdr) (o : LReg) (s : State) : exec (.sMul h o) s = execSMul h o s := rfl
@[simp] theorem exec_sMulh (h : Hdr) (o : LReg) (s : State) : exec (.sMulh h o) s = execSMulh h o s := rfl
@[simp] theorem exec_sDiv (h : Hdr) (o : LReg) (s : State) : exec (.sDiv h o) s = execSDiv h o s := rfl
@[simp] theorem exec_sRem (h : Hdr) (o : LReg) (s : State) : exec (.sRem h o) s = execSRem h o s := rfl
@[simp] theorem exec_sMin (h : Hdr) (o : LReg) (s : State) : exec (.sMin h o) s = execSMin h o s := rfl
@[simp] theorem exec_sMax (h : Hdr) (o : LReg) (s : State) : exec (.sMax h o) s = execSMax h o s := rfl
@[simp] theorem exec_sAnd (h : Hdr) (o : LReg) (s : State) : exec (.sAnd h o) s = execSAnd h o s := rfl
@[simp] theorem exec_sOr (h : Hdr) (o : LReg) (s : State) : exec (.sOr h o) s = execSOr h o s := rfl
@[simp] theorem exec_sXor (h : Hdr) (o : LReg) (s : State) : exec (.sXor h o) s = execSXor h o s := rfl
@[simp] theorem exec_sAndn (h : Hdr) (o : LReg) (s : State) : exec (.sAndn h o) s = execSAndn h o s := rfl
@[simp] theorem exec_sShl (h : Hdr) (o : LReg) (s : State) : exec (.sShl h o) s = execSShl h o s := rfl
@[simp] theorem exec_sShr (h : Hdr) (o : LReg) (s : State) : exec (.sShr h o) s = execSShr h o s := rfl
@[simp] theorem exec_sSra (h : Hdr) (o : LReg) (s : State) : exec (.sSra h o) s = execSSra h o s := rfl
@[simp] theorem exec_sRot (h : Hdr) (o : LReg) (s : State) : exec (.sRot h o) s = execSRot h o s := rfl
@[simp] theorem exec_sClz (h : Hdr) (o : LReg) (s : State) : exec (.sClz h o) s = execSClz h o s := rfl
@[simp] theorem exec_sPopc (h : Hdr) (o : LReg) (s : State) : exec (.sPopc h o) s = execSPopc h o s := rfl
@[simp] theorem exec_sCmp (h : Hdr) (o : LReg) (s : State) : exec (.sCmp h o) s = execSCmp h o s := rfl
@[simp] theorem exec_sSel (h : Hdr) (o : LReg) (s : State) : exec (.sSel h o) s = execSSel h o s := rfl
@[simp] theorem exec_bfx (h : Hdr) (o : LReg) (s : State) : exec (.bfx h o) s = execBfx h o s := rfl
@[simp] theorem exec_bfi (h : Hdr) (o : LReg) (s : State) : exec (.bfi h o) s = execBfi h o s := rfl
@[simp] theorem exec_liw (h : Hdr) (o : LWide) (s : State) : exec (.liw h o) s = execLiw h o s := rfl
@[simp] theorem exec_mfsr (h : Hdr) (o : LReg) (s : State) : exec (.mfsr h o) s = execMfsr h o s := rfl
@[simp] theorem exec_mtsr (h : Hdr) (o : LReg) (s : State) : exec (.mtsr h o) s = execMtsr h o s := rfl
@[simp] theorem exec_mtq (h : Hdr) (o : LReg) (s : State) : exec (.mtq h o) s = execMtq h o s := rfl
@[simp] theorem exec_mtqNull (h : Hdr) (o : LReg) (s : State) : exec (.mtqNull h o) s = execMtqNull h o s := rfl
@[simp] theorem exec_mfq (h : Hdr) (o : LReg) (s : State) : exec (.mfq h o) s = execMfq h o s := rfl
@[simp] theorem exec_mfqNull (h : Hdr) (o : LReg) (s : State) : exec (.mfqNull h o) s = execMfqNull h o s := rfl
@[simp] theorem exec_nop (h : Hdr) (o : LReg) (s : State) : exec (.nop h o) s = execNop h o s := rfl
@[simp] theorem exec_br (h : Hdr) (o : LReg) (s : State) : exec (.br h o) s = execBr h o s := rfl
@[simp] theorem exec_brc (h : Hdr) (o : LReg) (s : State) : exec (.brc h o) s = execBrc h o s := rfl
@[simp] theorem exec_call (h : Hdr) (o : LReg) (s : State) : exec (.call h o) s = execCall h o s := rfl
@[simp] theorem exec_ret (h : Hdr) (o : LReg) (s : State) : exec (.ret h o) s = execRet h o s := rfl
@[simp] theorem exec_loop (h : Hdr) (o : LReg) (s : State) : exec (.loop h o) s = execLoop h o s := rfl
@[simp] theorem exec_waitany (h : Hdr) (o : LReg) (s : State) : exec (.waitany h o) s = execWaitany h o s := rfl
@[simp] theorem exec_waitall (h : Hdr) (o : LReg) (s : State) : exec (.waitall h o) s = execWaitall h o s := rfl
@[simp] theorem exec_ffr (h : Hdr) (o : LReg) (s : State) : exec (.ffr h o) s = execFfr h o s := rfl
@[simp] theorem exec_tick (h : Hdr) (o : LReg) (s : State) : exec (.tick h o) s = execTick h o s := rfl
@[simp] theorem exec_phase (h : Hdr) (o : LReg) (s : State) : exec (.phase h o) s = execPhase h o s := rfl
@[simp] theorem exec_next (h : Hdr) (o : LReg) (s : State) : exec (.next h o) s = execNext h o s := rfl
@[simp] theorem exec_grow (h : Hdr) (o : LReg) (s : State) : exec (.grow h o) s = execGrow h o s := rfl
@[simp] theorem exec_exit (h : Hdr) (o : LReg) (s : State) : exec (.exit h o) s = execExit h o s := rfl
@[simp] theorem exec_trap (h : Hdr) (o : LReg) (s : State) : exec (.trap h o) s = execTrap h o s := rfl
@[simp] theorem exec_rte (h : Hdr) (o : LReg) (s : State) : exec (.rte h o) s = execRte h o s := rfl
@[simp] theorem exec_iflush (h : Hdr) (o : LReg) (s : State) : exec (.iflush h o) s = execIflush h o s := rfl
@[simp] theorem exec_setfmt (h : Hdr) (o : LScl) (s : State) : exec (.setfmt h o) s = execSetfmt h o s := rfl
@[simp] theorem exec_trd (h : Hdr) (o : LTap) (s : State) : exec (.trd h o) s = execTrd h o s := rfl
@[simp] theorem exec_trdw (h : Hdr) (o : LTap) (s : State) : exec (.trdw h o) s = execTrdw h o s := rfl
@[simp] theorem exec_twr (h : Hdr) (o : LTap) (s : State) : exec (.twr h o) s = execTwr h o s := rfl
@[simp] theorem exec_twra (h : Hdr) (o : LTap) (s : State) : exec (.twra h o) s = execTwra h o s := rfl
@[simp] theorem exec_thist (h : Hdr) (o : LTap) (s : State) : exec (.thist h o) s = execThist h o s := rfl
@[simp] theorem exec_tsig (h : Hdr) (o : LTap) (s : State) : exec (.tsig h o) s = execTsig h o s := rfl
@[simp] theorem exec_ld (h : Hdr) (o : LMem) (s : State) : exec (.ld h o) s = execLd h o s := rfl
@[simp] theorem exec_st (h : Hdr) (o : LMem) (s : State) : exec (.st h o) s = execSt h o s := rfl
@[simp] theorem exec_lds (h : Hdr) (o : LMem) (s : State) : exec (.lds h o) s = execLds h o s := rfl
@[simp] theorem exec_sts (h : Hdr) (o : LMem) (s : State) : exec (.sts h o) s = execSts h o s := rfl
@[simp] theorem exec_ldg (h : Hdr) (o : LMem) (s : State) : exec (.ldg h o) s = execLdg h o s := rfl
@[simp] theorem exec_stg (h : Hdr) (o : LMem) (s : State) : exec (.stg h o) s = execStg h o s := rfl
@[simp] theorem exec_ldb (h : Hdr) (o : LMem) (s : State) : exec (.ldb h o) s = execLdb h o s := rfl
@[simp] theorem exec_vAdd (h : Hdr) (o : LReg) (s : State) : exec (.vAdd h o) s = execVAdd h o s := rfl
@[simp] theorem exec_vSub (h : Hdr) (o : LReg) (s : State) : exec (.vSub h o) s = execVSub h o s := rfl
@[simp] theorem exec_vMul (h : Hdr) (o : LReg) (s : State) : exec (.vMul h o) s = execVMul h o s := rfl
@[simp] theorem exec_vMulh (h : Hdr) (o : LReg) (s : State) : exec (.vMulh h o) s = execVMulh h o s := rfl
@[simp] theorem exec_fma (h : Hdr) (o : LReg) (s : State) : exec (.fma h o) s = execFma h o s := rfl
@[simp] theorem exec_fms (h : Hdr) (o : LReg) (s : State) : exec (.fms h o) s = execFms h o s := rfl
@[simp] theorem exec_vMin (h : Hdr) (o : LReg) (s : State) : exec (.vMin h o) s = execVMin h o s := rfl
@[simp] theorem exec_vMax (h : Hdr) (o : LReg) (s : State) : exec (.vMax h o) s = execVMax h o s := rfl
@[simp] theorem exec_abs (h : Hdr) (o : LReg) (s : State) : exec (.abs h o) s = execAbs h o s := rfl
@[simp] theorem exec_neg (h : Hdr) (o : LReg) (s : State) : exec (.neg h o) s = execNeg h o s := rfl
@[simp] theorem exec_absd (h : Hdr) (o : LReg) (s : State) : exec (.absd h o) s = execAbsd h o s := rfl
@[simp] theorem exec_vAnd (h : Hdr) (o : LReg) (s : State) : exec (.vAnd h o) s = execVAnd h o s := rfl
@[simp] theorem exec_vOr (h : Hdr) (o : LReg) (s : State) : exec (.vOr h o) s = execVOr h o s := rfl
@[simp] theorem exec_vXor (h : Hdr) (o : LReg) (s : State) : exec (.vXor h o) s = execVXor h o s := rfl
@[simp] theorem exec_vAndn (h : Hdr) (o : LReg) (s : State) : exec (.vAndn h o) s = execVAndn h o s := rfl
@[simp] theorem exec_vShl (h : Hdr) (o : LReg) (s : State) : exec (.vShl h o) s = execVShl h o s := rfl
@[simp] theorem exec_vShr (h : Hdr) (o : LReg) (s : State) : exec (.vShr h o) s = execVShr h o s := rfl
@[simp] theorem exec_vSra (h : Hdr) (o : LReg) (s : State) : exec (.vSra h o) s = execVSra h o s := rfl
@[simp] theorem exec_vClz (h : Hdr) (o : LReg) (s : State) : exec (.vClz h o) s = execVClz h o s := rfl
@[simp] theorem exec_vPopc (h : Hdr) (o : LReg) (s : State) : exec (.vPopc h o) s = execVPopc h o s := rfl
@[simp] theorem exec_vCmp (h : Hdr) (o : LReg) (s : State) : exec (.vCmp h o) s = execVCmp h o s := rfl
@[simp] theorem exec_vSel (h : Hdr) (o : LReg) (s : State) : exec (.vSel h o) s = execVSel h o s := rfl
@[simp] theorem exec_mov (h : Hdr) (o : LReg) (s : State) : exec (.mov h o) s = execMov h o s := rfl
@[simp] theorem exec_bcast (h : Hdr) (o : LReg) (s : State) : exec (.bcast h o) s = execBcast h o s := rfl
@[simp] theorem exec_extr (h : Hdr) (o : LReg) (s : State) : exec (.extr h o) s = execExtr h o s := rfl
@[simp] theorem exec_ins (h : Hdr) (o : LReg) (s : State) : exec (.ins h o) s = execIns h o s := rfl
@[simp] theorem exec_perm (h : Hdr) (o : LReg) (s : State) : exec (.perm h o) s = execPerm h o s := rfl
@[simp] theorem exec_iota (h : Hdr) (o : LReg) (s : State) : exec (.iota h o) s = execIota h o s := rfl
@[simp] theorem exec_kand (h : Hdr) (o : LReg) (s : State) : exec (.kand h o) s = execKand h o s := rfl
@[simp] theorem exec_kor (h : Hdr) (o : LReg) (s : State) : exec (.kor h o) s = execKor h o s := rfl
@[simp] theorem exec_kxor (h : Hdr) (o : LReg) (s : State) : exec (.kxor h o) s = execKxor h o s := rfl
@[simp] theorem exec_knot (h : Hdr) (o : LReg) (s : State) : exec (.knot h o) s = execKnot h o s := rfl
@[simp] theorem exec_kpopc (h : Hdr) (o : LReg) (s : State) : exec (.kpopc h o) s = execKpopc h o s := rfl
@[simp] theorem exec_ktail (h : Hdr) (o : LReg) (s : State) : exec (.ktail h o) s = execKtail h o s := rfl
@[simp] theorem exec_exp2 (h : Hdr) (o : LReg) (s : State) : exec (.exp2 h o) s = execExp2 h o s := rfl
@[simp] theorem exec_log2 (h : Hdr) (o : LReg) (s : State) : exec (.log2 h o) s = execLog2 h o s := rfl
@[simp] theorem exec_rcp (h : Hdr) (o : LReg) (s : State) : exec (.rcp h o) s = execRcp h o s := rfl
@[simp] theorem exec_rsqrt (h : Hdr) (o : LReg) (s : State) : exec (.rsqrt h o) s = execRsqrt h o s := rfl
@[simp] theorem exec_sqrt (h : Hdr) (o : LReg) (s : State) : exec (.sqrt h o) s = execSqrt h o s := rfl
@[simp] theorem exec_tanh (h : Hdr) (o : LReg) (s : State) : exec (.tanh h o) s = execTanh h o s := rfl
@[simp] theorem exec_sigm (h : Hdr) (o : LReg) (s : State) : exec (.sigm h o) s = execSigm h o s := rfl
@[simp] theorem exec_erf (h : Hdr) (o : LReg) (s : State) : exec (.erf h o) s = execErf h o s := rfl
@[simp] theorem exec_sin (h : Hdr) (o : LReg) (s : State) : exec (.sin h o) s = execSin h o s := rfl
@[simp] theorem exec_cos (h : Hdr) (o : LReg) (s : State) : exec (.cos h o) s = execCos h o s := rfl
@[simp] theorem exec_rsum (h : Hdr) (o : LReg) (s : State) : exec (.rsum h o) s = execRsum h o s := rfl
@[simp] theorem exec_rmax (h : Hdr) (o : LReg) (s : State) : exec (.rmax h o) s = execRmax h o s := rfl
@[simp] theorem exec_rmin (h : Hdr) (o : LReg) (s : State) : exec (.rmin h o) s = execRmin h o s := rfl
@[simp] theorem exec_rminidx (h : Hdr) (o : LReg) (s : State) : exec (.rminidx h o) s = execRminidx h o s := rfl
@[simp] theorem exec_rabsmax (h : Hdr) (o : LReg) (s : State) : exec (.rabsmax h o) s = execRabsmax h o s := rfl
@[simp] theorem exec_rdrain (h : Hdr) (o : LReg) (s : State) : exec (.rdrain h o) s = execRdrain h o s := rfl
@[simp] theorem exec_rclr (h : Hdr) (o : LReg) (s : State) : exec (.rclr h o) s = execRclr h o s := rfl
@[simp] theorem exec_part (h : Hdr) (o : LReg) (s : State) : exec (.part h o) s = execPart h o s := rfl
@[simp] theorem exec_fcfg (h : Hdr) (o : LReg) (s : State) : exec (.fcfg h o) s = execFcfg h o s := rfl
@[simp] theorem exec_fins (h : Hdr) (o : LReg) (s : State) : exec (.fins h o) s = execFins h o s := rfl
@[simp] theorem exec_fmerge (h : Hdr) (o : LReg) (s : State) : exec (.fmerge h o) s = execFmerge h o s := rfl
@[simp] theorem exec_fpeel (h : Hdr) (o : LReg) (s : State) : exec (.fpeel h o) s = execFpeel h o s := rfl
@[simp] theorem exec_fcnt (h : Hdr) (o : LReg) (s : State) : exec (.fcnt h o) s = execFcnt h o s := rfl
@[simp] theorem exec_fclr (h : Hdr) (o : LReg) (s : State) : exec (.fclr h o) s = execFclr h o s := rfl
@[simp] theorem exec_fclrAll (h : Hdr) (o : LReg) (s : State) : exec (.fclrAll h o) s = execFclrAll h o s := rfl
@[simp] theorem exec_fsave (h : Hdr) (o : LReg) (s : State) : exec (.fsave h o) s = execFsave h o s := rfl
@[simp] theorem exec_fload (h : Hdr) (o : LReg) (s : State) : exec (.fload h o) s = execFload h o s := rfl
@[simp] theorem exec_mma (h : Hdr) (o : LArr) (s : State) : exec (.mma h o) s = execMma h o s := rfl
@[simp] theorem exec_mmac (h : Hdr) (o : LArr) (s : State) : exec (.mmac h o) s = execMmac h o s := rfl
@[simp] theorem exec_ldw (h : Hdr) (o : LArr) (s : State) : exec (.ldw h o) s = execLdw h o s := rfl
@[simp] theorem exec_accrd (h : Hdr) (o : LArr) (s : State) : exec (.accrd h o) s = execAccrd h o s := rfl
@[simp] theorem exec_accwr (h : Hdr) (o : LArr) (s : State) : exec (.accwr h o) s = execAccwr h o s := rfl
@[simp] theorem exec_accclr (h : Hdr) (o : LArr) (s : State) : exec (.accclr h o) s = execAccclr h o s := rfl
@[simp] theorem exec_mmodeExcl (h : Hdr) (o : LArr) (s : State) : exec (.mmodeExcl h o) s = execMmodeExcl h o s := rfl
@[simp] theorem exec_mmodeAlt (h : Hdr) (o : LArr) (s : State) : exec (.mmodeAlt h o) s = execMmodeAlt h o s := rfl
@[simp] theorem exec_scld (h : Hdr) (o : LScl) (s : State) : exec (.scld h o) s = execScld h o s := rfl
@[simp] theorem exec_scset (h : Hdr) (o : LScl) (s : State) : exec (.scset h o) s = execScset h o s := rfl
@[simp] theorem exec_scmov (h : Hdr) (o : LScl) (s : State) : exec (.scmov h o) s = execScmov h o s := rfl
@[simp] theorem exec_cvt (h : Hdr) (o : LReg) (s : State) : exec (.cvt h o) s = execCvt h o s := rfl
@[simp] theorem exec_cvtq (h : Hdr) (o : LReg) (s : State) : exec (.cvtq h o) s = execCvtq h o s := rfl
@[simp] theorem exec_trans (h : Hdr) (o : LReg) (s : State) : exec (.trans h o) s = execTrans h o s := rfl
@[simp] theorem exec_xcl (h : Hdr) (o : LReg) (s : State) : exec (.xcl h o) s = execXcl h o s := rfl
@[simp] theorem exec_regroup (h : Hdr) (o : LReg) (s : State) : exec (.regroup h o) s = execRegroup h o s := rfl
@[simp] theorem exec_pack (h : Hdr) (o : LReg) (s : State) : exec (.pack h o) s = execPack h o s := rfl
@[simp] theorem exec_unpack (h : Hdr) (o : LReg) (s : State) : exec (.unpack h o) s = execUnpack h o s := rfl
@[simp] theorem exec_xbcast (h : Hdr) (o : LReg) (s : State) : exec (.xbcast h o) s = execXbcast h o s := rfl
@[simp] theorem exec_ldd (h : Hdr) (o : LEmem) (s : State) : exec (.ldd h o) s = execLdd h o s := rfl
@[simp] theorem exec_lddP (h : Hdr) (o : LEmem) (s : State) : exec (.lddP h o) s = execLddP h o s := rfl
@[simp] theorem exec_lddAcq (h : Hdr) (o : LEmem) (s : State) : exec (.lddAcq h o) s = execLddAcq h o s := rfl
@[simp] theorem exec_std (h : Hdr) (o : LEmem) (s : State) : exec (.std h o) s = execStd h o s := rfl
@[simp] theorem exec_stdRel (h : Hdr) (o : LEmem) (s : State) : exec (.stdRel h o) s = execStdRel h o s := rfl
@[simp] theorem exec_atomAdd (h : Hdr) (o : LEmem) (s : State) : exec (.atomAdd h o) s = execAtomAdd h o s := rfl
@[simp] theorem exec_atomAnd (h : Hdr) (o : LEmem) (s : State) : exec (.atomAnd h o) s = execAtomAnd h o s := rfl
@[simp] theorem exec_atomOr (h : Hdr) (o : LEmem) (s : State) : exec (.atomOr h o) s = execAtomOr h o s := rfl
@[simp] theorem exec_atomXor (h : Hdr) (o : LEmem) (s : State) : exec (.atomXor h o) s = execAtomXor h o s := rfl
@[simp] theorem exec_atomMin (h : Hdr) (o : LEmem) (s : State) : exec (.atomMin h o) s = execAtomMin h o s := rfl
@[simp] theorem exec_atomMax (h : Hdr) (o : LEmem) (s : State) : exec (.atomMax h o) s = execAtomMax h o s := rfl
@[simp] theorem exec_atomSwp (h : Hdr) (o : LEmem) (s : State) : exec (.atomSwp h o) s = execAtomSwp h o s := rfl
@[simp] theorem exec_atomCas (h : Hdr) (o : LEmem) (s : State) : exec (.atomCas h o) s = execAtomCas h o s := rfl
@[simp] theorem exec_cas128 (h : Hdr) (o : LEmem) (s : State) : exec (.cas128 h o) s = execCas128 h o s := rfl
@[simp] theorem exec_cpyD2s (h : Hdr) (o : LEcmd) (s : State) : exec (.cpyD2s h o) s = execCpyD2s h o s := rfl
@[simp] theorem exec_cpyS2d (h : Hdr) (o : LEcmd) (s : State) : exec (.cpyS2d h o) s = execCpyS2d h o s := rfl
@[simp] theorem exec_cpyD2d (h : Hdr) (o : LEcmd) (s : State) : exec (.cpyD2d h o) s = execCpyD2d h o s := rfl
@[simp] theorem exec_cpyS2s (h : Hdr) (o : LEcmd) (s : State) : exec (.cpyS2s h o) s = execCpyS2s h o s := rfl
@[simp] theorem exec_cpyD2t (h : Hdr) (o : LEcmd) (s : State) : exec (.cpyD2t h o) s = execCpyD2t h o s := rfl
@[simp] theorem exec_cpyD2sz (h : Hdr) (o : LEcmd) (s : State) : exec (.cpyD2sz h o) s = execCpyD2sz h o s := rfl
@[simp] theorem exec_cpyS2sz (h : Hdr) (o : LEcmd) (s : State) : exec (.cpyS2sz h o) s = execCpyS2sz h o s := rfl
@[simp] theorem exec_cpym (h : Hdr) (o : LEcmd) (s : State) : exec (.cpym h o) s = execCpym h o s := rfl
@[simp] theorem exec_adec (h : Hdr) (o : LEcmd) (s : State) : exec (.adec h o) s = execAdec h o s := rfl
@[simp] theorem exec_plDec (h : Hdr) (o : LEcmd) (s : State) : exec (.plDec h o) s = execPlDec h o s := rfl
@[simp] theorem exec_plAnd (h : Hdr) (o : LEcmd) (s : State) : exec (.plAnd h o) s = execPlAnd h o s := rfl
@[simp] theorem exec_plAndDocs (h : Hdr) (o : LEcmd) (s : State) : exec (.plAndDocs h o) s = execPlAndDocs h o s := rfl
@[simp] theorem exec_plOr (h : Hdr) (o : LEcmd) (s : State) : exec (.plOr h o) s = execPlOr h o s := rfl
@[simp] theorem exec_plOrDocs (h : Hdr) (o : LEcmd) (s : State) : exec (.plOrDocs h o) s = execPlOrDocs h o s := rfl
@[simp] theorem exec_plFuse (h : Hdr) (o : LEcmd) (s : State) : exec (.plFuse h o) s = execPlFuse h o s := rfl
@[simp] theorem exec_launchAcc (h : Hdr) (o : LEcmd) (s : State) : exec (.launchAcc h o) s = execLaunchAcc h o s := rfl
@[simp] theorem exec_launchDone (h : Hdr) (o : LEcmd) (s : State) : exec (.launchDone h o) s = execLaunchDone h o s := rfl
@[simp] theorem exec_tagclr (h : Hdr) (o : LEcmd) (s : State) : exec (.tagclr h o) s = execTagclr h o s := rfl
@[simp] theorem exec_fixedResultLanding (s : State) : exec (.fixedResultLanding) s = execFixedResultLanding s := rfl
@[simp] theorem exec_variableResultLanding (n : Nat) (s : State) : exec (.variableResultLanding n) s = execVariableResultLanding n s := rfl
@[simp] theorem exec_promisedLoadArrival (s : State) : exec (.promisedLoadArrival) s = execPromisedLoadArrival s := rfl
@[simp] theorem exec_memoryTimeout (s : State) : exec (.memoryTimeout) s = execMemoryTimeout s := rfl
@[simp] theorem exec_windowLanding (n : Nat) (s : State) : exec (.windowLanding n) s = execWindowLanding n s := rfl
@[simp] theorem exec_exportLanding (n : Nat) (s : State) : exec (.exportLanding n) s = execExportLanding n s := rfl
@[simp] theorem exec_engineCommandCompletion (uid : Nat) (s : State) : exec (.engineCommandCompletion uid) s = execEngineCommandCompletion uid s := rfl
@[simp] theorem exec_budgetStop (s : State) : exec (.budgetStop) s = execBudgetStop s := rfl
@[simp] theorem exec_tickCompletion (s : State) : exec (.tickCompletion) s = execTickCompletion s := rfl
@[simp] theorem exec_phaseCompletion (s : State) : exec (.phaseCompletion) s = execPhaseCompletion s := rfl
@[simp] theorem exec_preemptSave (s : State) : exec (.preemptSave) s = execPreemptSave s := rfl
@[simp] theorem exec_restore (fn : Nat) (s : State) : exec (.restore fn) s = execRestore fn s := rfl
@[simp] theorem exec_dispatch (fn : Nat) (s : State) : exec (.dispatch fn) s = execDispatch fn s := rfl
@[simp] theorem exec_taskCompletion (fn task : Nat) (s : State) : exec (.taskCompletion fn task) s = execTaskCompletion fn task s := rfl
@[simp] theorem exec_runRewalk (page : Nat) (s : State) : exec (.runRewalk page) s = execRunRewalk page s := rfl
@[simp] theorem exec_hardwareResolver (fn : Nat) (s : State) : exec (.hardwareResolver fn) s = execHardwareResolver fn s := rfl
@[simp] theorem exec_scrub (page : Nat) (s : State) : exec (.scrub page) s = execScrub page s := rfl
@[simp] theorem exec_scrubberPass (s : State) : exec (.scrubberPass) s = execScrubberPass s := rfl
@[simp] theorem exec_decision (fn : Nat) (s : State) : exec (.decision fn) s = execDecision fn s := rfl
@[simp] theorem exec_decisionOverrun (fn : Nat) (s : State) : exec (.decisionOverrun fn) s = execDecisionOverrun fn s := rfl
@[simp] theorem exec_timer (fn : Nat) (s : State) : exec (.timer fn) s = execTimer fn s := rfl
@[simp] theorem exec_tchMov (d : BitVec 4) (bi : Bool) (b : BitVec 16) (s : State) : exec (.tchMov d bi b) s = execTchMov d bi b s := rfl
@[simp] theorem exec_tchAdd (d : BitVec 4) (a : BitVec 4) (bi : Bool) (b : BitVec 16) (s : State) : exec (.tchAdd d a bi b) s = execTchAdd d a bi b s := rfl
@[simp] theorem exec_tchSub (d : BitVec 4) (a : BitVec 4) (bi : Bool) (b : BitVec 16) (s : State) : exec (.tchSub d a bi b) s = execTchSub d a bi b s := rfl
@[simp] theorem exec_tchAnd (d : BitVec 4) (a : BitVec 4) (bi : Bool) (b : BitVec 16) (s : State) : exec (.tchAnd d a bi b) s = execTchAnd d a bi b s := rfl
@[simp] theorem exec_tchOr (d : BitVec 4) (a : BitVec 4) (bi : Bool) (b : BitVec 16) (s : State) : exec (.tchOr d a bi b) s = execTchOr d a bi b s := rfl
@[simp] theorem exec_tchXor (d : BitVec 4) (a : BitVec 4) (bi : Bool) (b : BitVec 16) (s : State) : exec (.tchXor d a bi b) s = execTchXor d a bi b s := rfl
@[simp] theorem exec_tchShl (d : BitVec 4) (a : BitVec 4) (bi : Bool) (b : BitVec 16) (s : State) : exec (.tchShl d a bi b) s = execTchShl d a bi b s := rfl
@[simp] theorem exec_tchShr (d : BitVec 4) (a : BitVec 4) (bi : Bool) (b : BitVec 16) (s : State) : exec (.tchShr d a bi b) s = execTchShr d a bi b s := rfl
@[simp] theorem exec_tchMin (d : BitVec 4) (a : BitVec 4) (bi : Bool) (b : BitVec 16) (s : State) : exec (.tchMin d a bi b) s = execTchMin d a bi b s := rfl
@[simp] theorem exec_tchMax (d : BitVec 4) (a : BitVec 4) (bi : Bool) (b : BitVec 16) (s : State) : exec (.tchMax d a bi b) s = execTchMax d a bi b s := rfl
@[simp] theorem exec_tchMul (d : BitVec 4) (a : BitVec 4) (bi : Bool) (b : BitVec 16) (s : State) : exec (.tchMul d a bi b) s = execTchMul d a bi b s := rfl
@[simp] theorem exec_tchLui (d : BitVec 4) (imm : BitVec 16) (s : State) : exec (.tchLui d imm) s = execTchLui d imm s := rfl
@[simp] theorem exec_tchCeq (d : BitVec 4) (a : BitVec 4) (bi : Bool) (b : BitVec 16) (s : State) : exec (.tchCeq d a bi b) s = execTchCeq d a bi b s := rfl
@[simp] theorem exec_tchClt (d : BitVec 4) (a : BitVec 4) (bi : Bool) (b : BitVec 16) (s : State) : exec (.tchClt d a bi b) s = execTchClt d a bi b s := rfl
@[simp] theorem exec_tchClts (d : BitVec 4) (a : BitVec 4) (bi : Bool) (b : BitVec 16) (s : State) : exec (.tchClts d a bi b) s = execTchClts d a bi b s := rfl
@[simp] theorem exec_tchBz (a : BitVec 4) (off : BitVec 8) (s : State) : exec (.tchBz a off) s = execTchBz a off s := rfl
@[simp] theorem exec_tchBnz (a : BitVec 4) (off : BitVec 8) (s : State) : exec (.tchBnz a off) s = execTchBnz a off s := rfl
@[simp] theorem exec_tchJmp (off : BitVec 8) (s : State) : exec (.tchJmp off) s = execTchJmp off s := rfl
@[simp] theorem exec_tchLoopn (d : BitVec 4) (len : BitVec 8) (n : BitVec 4) (s : State) : exec (.tchLoopn d len n) s = execTchLoopn d len n s := rfl
@[simp] theorem exec_tchQrd (d : BitVec 4) (a : BitVec 4) (field : BitVec 16) (s : State) : exec (.tchQrd d a field) s = execTchQrd d a field s := rfl
@[simp] theorem exec_tchCrd (d : BitVec 4) (a : BitVec 4) (field : BitVec 16) (s : State) : exec (.tchCrd d a field) s = execTchCrd d a field s := rfl
@[simp] theorem exec_tchErd (d : BitVec 4) (field : BitVec 16) (s : State) : exec (.tchErd d field) s = execTchErd d field s := rfl
@[simp] theorem exec_tchPrd (d : BitVec 4) (field : BitVec 16) (s : State) : exec (.tchPrd d field) s = execTchPrd d field s := rfl
@[simp] theorem exec_tchFreeb (d : BitVec 4) (a : BitVec 4) (s : State) : exec (.tchFreeb d a) s = execTchFreeb d a s := rfl
@[simp] theorem exec_tchBind (a : BitVec 4) (b : BitVec 4) (s : State) : exec (.tchBind a b) s = execTchBind a b s := rfl
@[simp] theorem exec_tchPreempt (a : BitVec 4) (s : State) : exec (.tchPreempt a) s = execTchPreempt a s := rfl
@[simp] theorem exec_tchKill (a : BitVec 4) (s : State) : exec (.tchKill a) s = execTchKill a s := rfl
@[simp] theorem exec_tchRefill (a : BitVec 4) (bi : Bool) (b : BitVec 16) (s : State) : exec (.tchRefill a bi b) s = execTchRefill a bi b s := rfl
@[simp] theorem exec_tchDefer (a : BitVec 4) (s : State) : exec (.tchDefer a) s = execTchDefer a s := rfl
@[simp] theorem exec_tchPrio (a : BitVec 4) (bi : Bool) (b : BitVec 16) (s : State) : exec (.tchPrio a bi b) s = execTchPrio a bi b s := rfl
@[simp] theorem exec_tchEnd (s : State) : exec (.tchEnd) s = execTchEnd s := rfl
@[simp] theorem exec_launchStage (fn slot dword : Nat) (data : Word) (s : State) : exec (.launchStage fn slot dword data) s = execLaunchStage fn slot dword data s := rfl
@[simp] theorem exec_launchRecord (fn slot : Nat) (data : Word) (s : State) : exec (.launchRecord fn slot data) s = execLaunchRecord fn slot data s := rfl
@[simp] theorem exec_policyWindowWrite (fn index : Nat) (data : BitVec 32) (s : State) : exec (.policyWindowWrite fn index data) s = execPolicyWindowWrite fn index data s := rfl
@[simp] theorem exec_pcmdVerify (fn : Nat) (s : State) : exec (.pcmdVerify fn) s = execPcmdVerify fn s := rfl
@[simp] theorem exec_verificationDone (fn : Nat) (s : State) : exec (.verificationDone fn) s = execVerificationDone fn s := rfl
@[simp] theorem exec_pcmdSwap (fn : Nat) (s : State) : exec (.pcmdSwap fn) s = execPcmdSwap fn s := rfl
@[simp] theorem exec_stopRequest (fn : Nat) (s : State) : exec (.stopRequest fn) s = execStopRequest fn s := rfl
@[simp] theorem exec_functionStopped (fn : Nat) (s : State) : exec (.functionStopped fn) s = execFunctionStopped fn s := rfl
@[simp] theorem exec_resume (fn : Nat) (s : State) : exec (.resume fn) s = execResume fn s := rfl
@[simp] theorem exec_uestaClear (fn : Nat) (ones : Word) (s : State) : exec (.uestaClear fn ones) s = execUestaClear fn ones s := rfl
@[simp] theorem exec_cestaClear (fn : Nat) (ones : Word) (s : State) : exec (.cestaClear fn ones) s = execCestaClear fn ones s := rfl
@[simp] theorem exec_fmodeWrite (fn : Nat) (data : Word) (s : State) : exec (.fmodeWrite fn data) s = execFmodeWrite fn data s := rfl
@[simp] theorem exec_ringBaseWrite (fn ring : Nat) (data : Word) (s : State) : exec (.ringBaseWrite fn ring data) s = execRingBaseWrite fn ring data s := rfl
@[simp] theorem exec_ringSizeWrite (fn ring : Nat) (data : Word) (s : State) : exec (.ringSizeWrite fn ring data) s = execRingSizeWrite fn ring data s := rfl
@[simp] theorem exec_ringHeadWrite (fn ring : Nat) (data : BitVec 32) (s : State) : exec (.ringHeadWrite fn ring data) s = execRingHeadWrite fn ring data s := rfl
@[simp] theorem exec_invalidation (fn : Nat) (s : State) : exec (.invalidation fn) s = execInvalidation fn s := rfl
@[simp] theorem exec_invalidationComplete (fn : Nat) (s : State) : exec (.invalidationComplete fn) s = execInvalidationComplete fn s := rfl
@[simp] theorem exec_resolutionAnswer (fn : Nat) (s : State) : exec (.resolutionAnswer fn) s = execResolutionAnswer fn s := rfl
@[simp] theorem exec_decisionAnswer (fn : Nat) (s : State) : exec (.decisionAnswer fn) s = execDecisionAnswer fn s := rfl
@[simp] theorem exec_hostDecisionTimeout (fn : Nat) (s : State) : exec (.hostDecisionTimeout fn) s = execHostDecisionTimeout fn s := rfl
@[simp] theorem exec_qrelWrite (fn : Nat) (data : Word) (s : State) : exec (.qrelWrite fn data) s = execQrelWrite fn data s := rfl
@[simp] theorem exec_rfcountWrite (fn : Nat) (data : BitVec 32) (s : State) : exec (.rfcountWrite fn data) s = execRfcountWrite fn data s := rfl
@[simp] theorem exec_partitionDescriptorWrite (fn offset : Nat) (data : Word) (s : State) : exec (.partitionDescriptorWrite fn offset data) s = execPartitionDescriptorWrite fn offset data s := rfl
@[simp] theorem exec_registerWrite (fn offset : Nat) (data : RegisterData) (s : State) : exec (.registerWrite fn offset data) s = execRegisterWrite fn offset data s := rfl
@[simp] theorem exec_hostRead (place : HostPlace) (len : Nat) (s : State) : exec (.hostRead place len) s = execHostRead place len s := rfl
@[simp] theorem exec_hostWrite (pa : Nat) (data : List Byte) (s : State) : exec (.hostWrite pa data) s = execHostWrite pa data s := rfl
@[simp] theorem exec_hostAtomic (op : HostAtomic) (pa len : Nat) (a b : Nat) (s : State) : exec (.hostAtomic op pa len a b) s = execHostAtomic op pa len a b s := rfl
@[simp] theorem exec_fabricRequest (peer : Peer) (req : FabricOp) (pa len : Nat) (data : List Byte) (s : State) : exec (.fabricRequest peer req pa len data) s = execFabricRequest peer req pa len data s := rfl
@[simp] theorem exec_functionLevelReset (fn : Nat) (s : State) : exec (.functionLevelReset fn) s = execFunctionLevelReset fn s := rfl
@[simp] theorem exec_coldStart (images : List FirmwareImage) (s : State) : exec (.coldStart images) s = execColdStart images s := rfl
@[simp] theorem exec_warmStart (images : List FirmwareImage) (s : State) : exec (.warmStart images) s = execWarmStart images s := rfl
@[simp] theorem exec_clockThrottle (lower : Bool) (s : State) : exec (.clockThrottle lower) s = execClockThrottle lower s := rfl
@[simp] theorem exec_softError (core : Nat) (what : Upset) (s : State) : exec (.softError core what) s = execSoftError core what s := rfl
@[simp] theorem exec_bankHardFailure (core : Nat) (bank : BankId) (s : State) : exec (.bankHardFailure core bank) s = execBankHardFailure core bank s := rfl
@[simp] theorem exec_ringTailWrite (fn ring : Nat) (data : BitVec 32) (s : State) : exec (.ringTailWrite fn ring data) s = execRingTailWrite fn ring data s := rfl
@[simp] theorem exec_attestationReport (nonce : Nat) (s : State) : exec (.attestationReport nonce) s = execAttestationReport nonce s := rfl

/-! ### Syllables -/

@[simp] theorem syl_sAdd (h : Hdr) (o : LReg) : syl? (.sAdd h o) = some { cls := 0, opc := 0x00, h := h, body := .reg o } := rfl
@[simp] theorem syl_sSub (h : Hdr) (o : LReg) : syl? (.sSub h o) = some { cls := 0, opc := 0x01, h := h, body := .reg o } := rfl
@[simp] theorem syl_sMul (h : Hdr) (o : LReg) : syl? (.sMul h o) = some { cls := 0, opc := 0x02, h := h, body := .reg o } := rfl
@[simp] theorem syl_sMulh (h : Hdr) (o : LReg) : syl? (.sMulh h o) = some { cls := 0, opc := 0x03, h := h, body := .reg o } := rfl
@[simp] theorem syl_sDiv (h : Hdr) (o : LReg) : syl? (.sDiv h o) = some { cls := 0, opc := 0x04, h := h, body := .reg o } := rfl
@[simp] theorem syl_sRem (h : Hdr) (o : LReg) : syl? (.sRem h o) = some { cls := 0, opc := 0x05, h := h, body := .reg o } := rfl
@[simp] theorem syl_sMin (h : Hdr) (o : LReg) : syl? (.sMin h o) = some { cls := 0, opc := 0x06, h := h, body := .reg o } := rfl
@[simp] theorem syl_sMax (h : Hdr) (o : LReg) : syl? (.sMax h o) = some { cls := 0, opc := 0x07, h := h, body := .reg o } := rfl
@[simp] theorem syl_sAnd (h : Hdr) (o : LReg) : syl? (.sAnd h o) = some { cls := 0, opc := 0x08, h := h, body := .reg o } := rfl
@[simp] theorem syl_sOr (h : Hdr) (o : LReg) : syl? (.sOr h o) = some { cls := 0, opc := 0x09, h := h, body := .reg o } := rfl
@[simp] theorem syl_sXor (h : Hdr) (o : LReg) : syl? (.sXor h o) = some { cls := 0, opc := 0x0A, h := h, body := .reg o } := rfl
@[simp] theorem syl_sAndn (h : Hdr) (o : LReg) : syl? (.sAndn h o) = some { cls := 0, opc := 0x0B, h := h, body := .reg o } := rfl
@[simp] theorem syl_sShl (h : Hdr) (o : LReg) : syl? (.sShl h o) = some { cls := 0, opc := 0x0C, h := h, body := .reg o } := rfl
@[simp] theorem syl_sShr (h : Hdr) (o : LReg) : syl? (.sShr h o) = some { cls := 0, opc := 0x0D, h := h, body := .reg o } := rfl
@[simp] theorem syl_sSra (h : Hdr) (o : LReg) : syl? (.sSra h o) = some { cls := 0, opc := 0x0E, h := h, body := .reg o } := rfl
@[simp] theorem syl_sRot (h : Hdr) (o : LReg) : syl? (.sRot h o) = some { cls := 0, opc := 0x0F, h := h, body := .reg o } := rfl
@[simp] theorem syl_sClz (h : Hdr) (o : LReg) : syl? (.sClz h o) = some { cls := 0, opc := 0x10, h := h, body := .reg o } := rfl
@[simp] theorem syl_sPopc (h : Hdr) (o : LReg) : syl? (.sPopc h o) = some { cls := 0, opc := 0x11, h := h, body := .reg o } := rfl
@[simp] theorem syl_sCmp (h : Hdr) (o : LReg) : syl? (.sCmp h o) = some { cls := 0, opc := 0x12, h := h, body := .reg o } := rfl
@[simp] theorem syl_sSel (h : Hdr) (o : LReg) : syl? (.sSel h o) = some { cls := 0, opc := 0x13, h := h, body := .reg o } := rfl
@[simp] theorem syl_bfx (h : Hdr) (o : LReg) : syl? (.bfx h o) = some { cls := 0, opc := 0x14, h := h, body := .reg o } := rfl
@[simp] theorem syl_bfi (h : Hdr) (o : LReg) : syl? (.bfi h o) = some { cls := 0, opc := 0x15, h := h, body := .reg o } := rfl
@[simp] theorem syl_liw (h : Hdr) (o : LWide) : syl? (.liw h o) = some { cls := 0, opc := 0x16, h := h, body := .wide o } := rfl
@[simp] theorem syl_mfsr (h : Hdr) (o : LReg) : syl? (.mfsr h o) = some { cls := 0, opc := 0x18, h := h, body := .reg o } := rfl
@[simp] theorem syl_mtsr (h : Hdr) (o : LReg) : syl? (.mtsr h o) = some { cls := 0, opc := 0x19, h := h, body := .reg o } := rfl
@[simp] theorem syl_mtq (h : Hdr) (o : LReg) : syl? (.mtq h o) = some { cls := 0, opc := 0x1A, h := h, body := .reg o } := rfl
@[simp] theorem syl_mtqNull (h : Hdr) (o : LReg) : syl? (.mtqNull h o) = some { cls := 0, opc := 0x1A, h := h, body := .reg o } := rfl
@[simp] theorem syl_mfq (h : Hdr) (o : LReg) : syl? (.mfq h o) = some { cls := 0, opc := 0x1B, h := h, body := .reg o } := rfl
@[simp] theorem syl_mfqNull (h : Hdr) (o : LReg) : syl? (.mfqNull h o) = some { cls := 0, opc := 0x1B, h := h, body := .reg o } := rfl
@[simp] theorem syl_nop (h : Hdr) (o : LReg) : syl? (.nop h o) = some { cls := 0, opc := 0x50, h := h, body := .reg o } := rfl
@[simp] theorem syl_br (h : Hdr) (o : LReg) : syl? (.br h o) = some { cls := 0, opc := 0x40, h := h, body := .reg o } := rfl
@[simp] theorem syl_brc (h : Hdr) (o : LReg) : syl? (.brc h o) = some { cls := 0, opc := 0x41, h := h, body := .reg o } := rfl
@[simp] theorem syl_call (h : Hdr) (o : LReg) : syl? (.call h o) = some { cls := 0, opc := 0x42, h := h, body := .reg o } := rfl
@[simp] theorem syl_ret (h : Hdr) (o : LReg) : syl? (.ret h o) = some { cls := 0, opc := 0x43, h := h, body := .reg o } := rfl
@[simp] theorem syl_loop (h : Hdr) (o : LReg) : syl? (.loop h o) = some { cls := 0, opc := 0x44, h := h, body := .reg o } := rfl
@[simp] theorem syl_waitany (h : Hdr) (o : LReg) : syl? (.waitany h o) = some { cls := 0, opc := 0x45, h := h, body := .reg o } := rfl
@[simp] theorem syl_waitall (h : Hdr) (o : LReg) : syl? (.waitall h o) = some { cls := 0, opc := 0x46, h := h, body := .reg o } := rfl
@[simp] theorem syl_ffr (h : Hdr) (o : LReg) : syl? (.ffr h o) = some { cls := 0, opc := 0x47, h := h, body := .reg o } := rfl
@[simp] theorem syl_tick (h : Hdr) (o : LReg) : syl? (.tick h o) = some { cls := 0, opc := 0x48, h := h, body := .reg o } := rfl
@[simp] theorem syl_phase (h : Hdr) (o : LReg) : syl? (.phase h o) = some { cls := 0, opc := 0x49, h := h, body := .reg o } := rfl
@[simp] theorem syl_next (h : Hdr) (o : LReg) : syl? (.next h o) = some { cls := 0, opc := 0x4A, h := h, body := .reg o } := rfl
@[simp] theorem syl_grow (h : Hdr) (o : LReg) : syl? (.grow h o) = some { cls := 0, opc := 0x4B, h := h, body := .reg o } := rfl
@[simp] theorem syl_exit (h : Hdr) (o : LReg) : syl? (.exit h o) = some { cls := 0, opc := 0x4C, h := h, body := .reg o } := rfl
@[simp] theorem syl_trap (h : Hdr) (o : LReg) : syl? (.trap h o) = some { cls := 0, opc := 0x4D, h := h, body := .reg o } := rfl
@[simp] theorem syl_rte (h : Hdr) (o : LReg) : syl? (.rte h o) = some { cls := 0, opc := 0x4E, h := h, body := .reg o } := rfl
@[simp] theorem syl_iflush (h : Hdr) (o : LReg) : syl? (.iflush h o) = some { cls := 0, opc := 0x4F, h := h, body := .reg o } := rfl
@[simp] theorem syl_setfmt (h : Hdr) (o : LScl) : syl? (.setfmt h o) = some { cls := 7, opc := 0x03, h := h, body := .scl o } := rfl
@[simp] theorem syl_trd (h : Hdr) (o : LTap) : syl? (.trd h o) = some { cls := 5, opc := 0x00, h := h, body := .tap o } := rfl
@[simp] theorem syl_trdw (h : Hdr) (o : LTap) : syl? (.trdw h o) = some { cls := 5, opc := 0x01, h := h, body := .tap o } := rfl
@[simp] theorem syl_twr (h : Hdr) (o : LTap) : syl? (.twr h o) = some { cls := 5, opc := 0x02, h := h, body := .tap o } := rfl
@[simp] theorem syl_twra (h : Hdr) (o : LTap) : syl? (.twra h o) = some { cls := 5, opc := 0x03, h := h, body := .tap o } := rfl
@[simp] theorem syl_thist (h : Hdr) (o : LTap) : syl? (.thist h o) = some { cls := 5, opc := 0x04, h := h, body := .tap o } := rfl
@[simp] theorem syl_tsig (h : Hdr) (o : LTap) : syl? (.tsig h o) = some { cls := 5, opc := 0x05, h := h, body := .tap o } := rfl
@[simp] theorem syl_ld (h : Hdr) (o : LMem) : syl? (.ld h o) = some { cls := 6, opc := 0x00, h := h, body := .mem o } := rfl
@[simp] theorem syl_st (h : Hdr) (o : LMem) : syl? (.st h o) = some { cls := 6, opc := 0x01, h := h, body := .mem o } := rfl
@[simp] theorem syl_lds (h : Hdr) (o : LMem) : syl? (.lds h o) = some { cls := 6, opc := 0x02, h := h, body := .mem o } := rfl
@[simp] theorem syl_sts (h : Hdr) (o : LMem) : syl? (.sts h o) = some { cls := 6, opc := 0x03, h := h, body := .mem o } := rfl
@[simp] theorem syl_ldg (h : Hdr) (o : LMem) : syl? (.ldg h o) = some { cls := 6, opc := 0x04, h := h, body := .mem o } := rfl
@[simp] theorem syl_stg (h : Hdr) (o : LMem) : syl? (.stg h o) = some { cls := 6, opc := 0x05, h := h, body := .mem o } := rfl
@[simp] theorem syl_ldb (h : Hdr) (o : LMem) : syl? (.ldb h o) = some { cls := 6, opc := 0x06, h := h, body := .mem o } := rfl
@[simp] theorem syl_vAdd (h : Hdr) (o : LReg) : syl? (.vAdd h o) = some { cls := 1, opc := 0x00, h := h, body := .reg o } := rfl
@[simp] theorem syl_vSub (h : Hdr) (o : LReg) : syl? (.vSub h o) = some { cls := 1, opc := 0x01, h := h, body := .reg o } := rfl
@[simp] theorem syl_vMul (h : Hdr) (o : LReg) : syl? (.vMul h o) = some { cls := 1, opc := 0x02, h := h, body := .reg o } := rfl
@[simp] theorem syl_vMulh (h : Hdr) (o : LReg) : syl? (.vMulh h o) = some { cls := 1, opc := 0x03, h := h, body := .reg o } := rfl
@[simp] theorem syl_fma (h : Hdr) (o : LReg) : syl? (.fma h o) = some { cls := 1, opc := 0x04, h := h, body := .reg o } := rfl
@[simp] theorem syl_fms (h : Hdr) (o : LReg) : syl? (.fms h o) = some { cls := 1, opc := 0x05, h := h, body := .reg o } := rfl
@[simp] theorem syl_vMin (h : Hdr) (o : LReg) : syl? (.vMin h o) = some { cls := 1, opc := 0x06, h := h, body := .reg o } := rfl
@[simp] theorem syl_vMax (h : Hdr) (o : LReg) : syl? (.vMax h o) = some { cls := 1, opc := 0x07, h := h, body := .reg o } := rfl
@[simp] theorem syl_abs (h : Hdr) (o : LReg) : syl? (.abs h o) = some { cls := 1, opc := 0x08, h := h, body := .reg o } := rfl
@[simp] theorem syl_neg (h : Hdr) (o : LReg) : syl? (.neg h o) = some { cls := 1, opc := 0x09, h := h, body := .reg o } := rfl
@[simp] theorem syl_absd (h : Hdr) (o : LReg) : syl? (.absd h o) = some { cls := 1, opc := 0x21, h := h, body := .reg o } := rfl
@[simp] theorem syl_vAnd (h : Hdr) (o : LReg) : syl? (.vAnd h o) = some { cls := 1, opc := 0x0A, h := h, body := .reg o } := rfl
@[simp] theorem syl_vOr (h : Hdr) (o : LReg) : syl? (.vOr h o) = some { cls := 1, opc := 0x0B, h := h, body := .reg o } := rfl
@[simp] theorem syl_vXor (h : Hdr) (o : LReg) : syl? (.vXor h o) = some { cls := 1, opc := 0x0C, h := h, body := .reg o } := rfl
@[simp] theorem syl_vAndn (h : Hdr) (o : LReg) : syl? (.vAndn h o) = some { cls := 1, opc := 0x0D, h := h, body := .reg o } := rfl
@[simp] theorem syl_vShl (h : Hdr) (o : LReg) : syl? (.vShl h o) = some { cls := 1, opc := 0x0E, h := h, body := .reg o } := rfl
@[simp] theorem syl_vShr (h : Hdr) (o : LReg) : syl? (.vShr h o) = some { cls := 1, opc := 0x0F, h := h, body := .reg o } := rfl
@[simp] theorem syl_vSra (h : Hdr) (o : LReg) : syl? (.vSra h o) = some { cls := 1, opc := 0x10, h := h, body := .reg o } := rfl
@[simp] theorem syl_vClz (h : Hdr) (o : LReg) : syl? (.vClz h o) = some { cls := 1, opc := 0x11, h := h, body := .reg o } := rfl
@[simp] theorem syl_vPopc (h : Hdr) (o : LReg) : syl? (.vPopc h o) = some { cls := 1, opc := 0x12, h := h, body := .reg o } := rfl
@[simp] theorem syl_vCmp (h : Hdr) (o : LReg) : syl? (.vCmp h o) = some { cls := 1, opc := 0x13, h := h, body := .reg o } := rfl
@[simp] theorem syl_vSel (h : Hdr) (o : LReg) : syl? (.vSel h o) = some { cls := 1, opc := 0x14, h := h, body := .reg o } := rfl
@[simp] theorem syl_mov (h : Hdr) (o : LReg) : syl? (.mov h o) = some { cls := 1, opc := 0x15, h := h, body := .reg o } := rfl
@[simp] theorem syl_bcast (h : Hdr) (o : LReg) : syl? (.bcast h o) = some { cls := 1, opc := 0x16, h := h, body := .reg o } := rfl
@[simp] theorem syl_extr (h : Hdr) (o : LReg) : syl? (.extr h o) = some { cls := 1, opc := 0x17, h := h, body := .reg o } := rfl
@[simp] theorem syl_ins (h : Hdr) (o : LReg) : syl? (.ins h o) = some { cls := 1, opc := 0x18, h := h, body := .reg o } := rfl
@[simp] theorem syl_perm (h : Hdr) (o : LReg) : syl? (.perm h o) = some { cls := 1, opc := 0x19, h := h, body := .reg o } := rfl
@[simp] theorem syl_iota (h : Hdr) (o : LReg) : syl? (.iota h o) = some { cls := 1, opc := 0x1A, h := h, body := .reg o } := rfl
@[simp] theorem syl_kand (h : Hdr) (o : LReg) : syl? (.kand h o) = some { cls := 1, opc := 0x1B, h := h, body := .reg o } := rfl
@[simp] theorem syl_kor (h : Hdr) (o : LReg) : syl? (.kor h o) = some { cls := 1, opc := 0x1C, h := h, body := .reg o } := rfl
@[simp] theorem syl_kxor (h : Hdr) (o : LReg) : syl? (.kxor h o) = some { cls := 1, opc := 0x1D, h := h, body := .reg o } := rfl
@[simp] theorem syl_knot (h : Hdr) (o : LReg) : syl? (.knot h o) = some { cls := 1, opc := 0x1E, h := h, body := .reg o } := rfl
@[simp] theorem syl_kpopc (h : Hdr) (o : LReg) : syl? (.kpopc h o) = some { cls := 1, opc := 0x1F, h := h, body := .reg o } := rfl
@[simp] theorem syl_ktail (h : Hdr) (o : LReg) : syl? (.ktail h o) = some { cls := 1, opc := 0x20, h := h, body := .reg o } := rfl
@[simp] theorem syl_exp2 (h : Hdr) (o : LReg) : syl? (.exp2 h o) = some { cls := 2, opc := 0x00, h := h, body := .reg o } := rfl
@[simp] theorem syl_log2 (h : Hdr) (o : LReg) : syl? (.log2 h o) = some { cls := 2, opc := 0x01, h := h, body := .reg o } := rfl
@[simp] theorem syl_rcp (h : Hdr) (o : LReg) : syl? (.rcp h o) = some { cls := 2, opc := 0x02, h := h, body := .reg o } := rfl
@[simp] theorem syl_rsqrt (h : Hdr) (o : LReg) : syl? (.rsqrt h o) = some { cls := 2, opc := 0x03, h := h, body := .reg o } := rfl
@[simp] theorem syl_sqrt (h : Hdr) (o : LReg) : syl? (.sqrt h o) = some { cls := 2, opc := 0x04, h := h, body := .reg o } := rfl
@[simp] theorem syl_tanh (h : Hdr) (o : LReg) : syl? (.tanh h o) = some { cls := 2, opc := 0x05, h := h, body := .reg o } := rfl
@[simp] theorem syl_sigm (h : Hdr) (o : LReg) : syl? (.sigm h o) = some { cls := 2, opc := 0x06, h := h, body := .reg o } := rfl
@[simp] theorem syl_erf (h : Hdr) (o : LReg) : syl? (.erf h o) = some { cls := 2, opc := 0x07, h := h, body := .reg o } := rfl
@[simp] theorem syl_sin (h : Hdr) (o : LReg) : syl? (.sin h o) = some { cls := 2, opc := 0x08, h := h, body := .reg o } := rfl
@[simp] theorem syl_cos (h : Hdr) (o : LReg) : syl? (.cos h o) = some { cls := 2, opc := 0x09, h := h, body := .reg o } := rfl
@[simp] theorem syl_rsum (h : Hdr) (o : LReg) : syl? (.rsum h o) = some { cls := 3, opc := 0x00, h := h, body := .reg o } := rfl
@[simp] theorem syl_rmax (h : Hdr) (o : LReg) : syl? (.rmax h o) = some { cls := 3, opc := 0x01, h := h, body := .reg o } := rfl
@[simp] theorem syl_rmin (h : Hdr) (o : LReg) : syl? (.rmin h o) = some { cls := 3, opc := 0x02, h := h, body := .reg o } := rfl
@[simp] theorem syl_rminidx (h : Hdr) (o : LReg) : syl? (.rminidx h o) = some { cls := 3, opc := 0x03, h := h, body := .reg o } := rfl
@[simp] theorem syl_rabsmax (h : Hdr) (o : LReg) : syl? (.rabsmax h o) = some { cls := 3, opc := 0x04, h := h, body := .reg o } := rfl
@[simp] theorem syl_rdrain (h : Hdr) (o : LReg) : syl? (.rdrain h o) = some { cls := 3, opc := 0x05, h := h, body := .reg o } := rfl
@[simp] theorem syl_rclr (h : Hdr) (o : LReg) : syl? (.rclr h o) = some { cls := 3, opc := 0x06, h := h, body := .reg o } := rfl
@[simp] theorem syl_part (h : Hdr) (o : LReg) : syl? (.part h o) = some { cls := 3, opc := 0x07, h := h, body := .reg o } := rfl
@[simp] theorem syl_fcfg (h : Hdr) (o : LReg) : syl? (.fcfg h o) = some { cls := 3, opc := 0x08, h := h, body := .reg o } := rfl
@[simp] theorem syl_fins (h : Hdr) (o : LReg) : syl? (.fins h o) = some { cls := 3, opc := 0x09, h := h, body := .reg o } := rfl
@[simp] theorem syl_fmerge (h : Hdr) (o : LReg) : syl? (.fmerge h o) = some { cls := 3, opc := 0x0A, h := h, body := .reg o } := rfl
@[simp] theorem syl_fpeel (h : Hdr) (o : LReg) : syl? (.fpeel h o) = some { cls := 3, opc := 0x0B, h := h, body := .reg o } := rfl
@[simp] theorem syl_fcnt (h : Hdr) (o : LReg) : syl? (.fcnt h o) = some { cls := 3, opc := 0x0C, h := h, body := .reg o } := rfl
@[simp] theorem syl_fclr (h : Hdr) (o : LReg) : syl? (.fclr h o) = some { cls := 3, opc := 0x0D, h := h, body := .reg o } := rfl
@[simp] theorem syl_fclrAll (h : Hdr) (o : LReg) : syl? (.fclrAll h o) = some { cls := 3, opc := 0x0D, h := h, body := .reg o } := rfl
@[simp] theorem syl_fsave (h : Hdr) (o : LReg) : syl? (.fsave h o) = some { cls := 3, opc := 0x0E, h := h, body := .reg o } := rfl
@[simp] theorem syl_fload (h : Hdr) (o : LReg) : syl? (.fload h o) = some { cls := 3, opc := 0x0F, h := h, body := .reg o } := rfl
@[simp] theorem syl_mma (h : Hdr) (o : LArr) : syl? (.mma h o) = some { cls := 8, opc := 0x00, h := h, body := .arr o } := rfl
@[simp] theorem syl_mmac (h : Hdr) (o : LArr) : syl? (.mmac h o) = some { cls := 8, opc := 0x01, h := h, body := .arr o } := rfl
@[simp] theorem syl_ldw (h : Hdr) (o : LArr) : syl? (.ldw h o) = some { cls := 8, opc := 0x02, h := h, body := .arr o } := rfl
@[simp] theorem syl_accrd (h : Hdr) (o : LArr) : syl? (.accrd h o) = some { cls := 8, opc := 0x03, h := h, body := .arr o } := rfl
@[simp] theorem syl_accwr (h : Hdr) (o : LArr) : syl? (.accwr h o) = some { cls := 8, opc := 0x04, h := h, body := .arr o } := rfl
@[simp] theorem syl_accclr (h : Hdr) (o : LArr) : syl? (.accclr h o) = some { cls := 8, opc := 0x05, h := h, body := .arr o } := rfl
@[simp] theorem syl_mmodeExcl (h : Hdr) (o : LArr) : syl? (.mmodeExcl h o) = some { cls := 8, opc := 0x06, h := h, body := .arr o } := rfl
@[simp] theorem syl_mmodeAlt (h : Hdr) (o : LArr) : syl? (.mmodeAlt h o) = some { cls := 8, opc := 0x06, h := h, body := .arr o } := rfl
@[simp] theorem syl_scld (h : Hdr) (o : LScl) : syl? (.scld h o) = some { cls := 7, opc := 0x00, h := h, body := .scl o } := rfl
@[simp] theorem syl_scset (h : Hdr) (o : LScl) : syl? (.scset h o) = some { cls := 7, opc := 0x01, h := h, body := .scl o } := rfl
@[simp] theorem syl_scmov (h : Hdr) (o : LScl) : syl? (.scmov h o) = some { cls := 7, opc := 0x02, h := h, body := .scl o } := rfl
@[simp] theorem syl_cvt (h : Hdr) (o : LReg) : syl? (.cvt h o) = some { cls := 4, opc := 0x00, h := h, body := .reg o } := rfl
@[simp] theorem syl_cvtq (h : Hdr) (o : LReg) : syl? (.cvtq h o) = some { cls := 4, opc := 0x01, h := h, body := .reg o } := rfl
@[simp] theorem syl_trans (h : Hdr) (o : LReg) : syl? (.trans h o) = some { cls := 4, opc := 0x02, h := h, body := .reg o } := rfl
@[simp] theorem syl_xcl (h : Hdr) (o : LReg) : syl? (.xcl h o) = some { cls := 4, opc := 0x03, h := h, body := .reg o } := rfl
@[simp] theorem syl_regroup (h : Hdr) (o : LReg) : syl? (.regroup h o) = some { cls := 4, opc := 0x04, h := h, body := .reg o } := rfl
@[simp] theorem syl_pack (h : Hdr) (o : LReg) : syl? (.pack h o) = some { cls := 4, opc := 0x05, h := h, body := .reg o } := rfl
@[simp] theorem syl_unpack (h : Hdr) (o : LReg) : syl? (.unpack h o) = some { cls := 4, opc := 0x06, h := h, body := .reg o } := rfl
@[simp] theorem syl_xbcast (h : Hdr) (o : LReg) : syl? (.xbcast h o) = some { cls := 4, opc := 0x07, h := h, body := .reg o } := rfl
@[simp] theorem syl_ldd (h : Hdr) (o : LEmem) : syl? (.ldd h o) = some { cls := 9, opc := 0x02, h := h, body := .emem o } := rfl
@[simp] theorem syl_lddP (h : Hdr) (o : LEmem) : syl? (.lddP h o) = some { cls := 9, opc := 0x02, h := h, body := .emem o } := rfl
@[simp] theorem syl_lddAcq (h : Hdr) (o : LEmem) : syl? (.lddAcq h o) = some { cls := 9, opc := 0x03, h := h, body := .emem o } := rfl
@[simp] theorem syl_std (h : Hdr) (o : LEmem) : syl? (.std h o) = some { cls := 9, opc := 0x04, h := h, body := .emem o } := rfl
@[simp] theorem syl_stdRel (h : Hdr) (o : LEmem) : syl? (.stdRel h o) = some { cls := 9, opc := 0x05, h := h, body := .emem o } := rfl
@[simp] theorem syl_atomAdd (h : Hdr) (o : LEmem) : syl? (.atomAdd h o) = some { cls := 9, opc := 0x06, h := h, body := .emem o } := rfl
@[simp] theorem syl_atomAnd (h : Hdr) (o : LEmem) : syl? (.atomAnd h o) = some { cls := 9, opc := 0x06, h := h, body := .emem o } := rfl
@[simp] theorem syl_atomOr (h : Hdr) (o : LEmem) : syl? (.atomOr h o) = some { cls := 9, opc := 0x06, h := h, body := .emem o } := rfl
@[simp] theorem syl_atomXor (h : Hdr) (o : LEmem) : syl? (.atomXor h o) = some { cls := 9, opc := 0x06, h := h, body := .emem o } := rfl
@[simp] theorem syl_atomMin (h : Hdr) (o : LEmem) : syl? (.atomMin h o) = some { cls := 9, opc := 0x06, h := h, body := .emem o } := rfl
@[simp] theorem syl_atomMax (h : Hdr) (o : LEmem) : syl? (.atomMax h o) = some { cls := 9, opc := 0x06, h := h, body := .emem o } := rfl
@[simp] theorem syl_atomSwp (h : Hdr) (o : LEmem) : syl? (.atomSwp h o) = some { cls := 9, opc := 0x06, h := h, body := .emem o } := rfl
@[simp] theorem syl_atomCas (h : Hdr) (o : LEmem) : syl? (.atomCas h o) = some { cls := 9, opc := 0x06, h := h, body := .emem o } := rfl
@[simp] theorem syl_cas128 (h : Hdr) (o : LEmem) : syl? (.cas128 h o) = some { cls := 9, opc := 0x07, h := h, body := .emem o } := rfl
@[simp] theorem syl_cpyD2s (h : Hdr) (o : LEcmd) : syl? (.cpyD2s h o) = some { cls := 9, opc := 0x00, h := h, body := .ecmd o } := rfl
@[simp] theorem syl_cpyS2d (h : Hdr) (o : LEcmd) : syl? (.cpyS2d h o) = some { cls := 9, opc := 0x00, h := h, body := .ecmd o } := rfl
@[simp] theorem syl_cpyD2d (h : Hdr) (o : LEcmd) : syl? (.cpyD2d h o) = some { cls := 9, opc := 0x00, h := h, body := .ecmd o } := rfl
@[simp] theorem syl_cpyS2s (h : Hdr) (o : LEcmd) : syl? (.cpyS2s h o) = some { cls := 9, opc := 0x00, h := h, body := .ecmd o } := rfl
@[simp] theorem syl_cpyD2t (h : Hdr) (o : LEcmd) : syl? (.cpyD2t h o) = some { cls := 9, opc := 0x00, h := h, body := .ecmd o } := rfl
@[simp] theorem syl_cpyD2sz (h : Hdr) (o : LEcmd) : syl? (.cpyD2sz h o) = some { cls := 9, opc := 0x00, h := h, body := .ecmd o } := rfl
@[simp] theorem syl_cpyS2sz (h : Hdr) (o : LEcmd) : syl? (.cpyS2sz h o) = some { cls := 9, opc := 0x00, h := h, body := .ecmd o } := rfl
@[simp] theorem syl_cpym (h : Hdr) (o : LEcmd) : syl? (.cpym h o) = some { cls := 9, opc := 0x01, h := h, body := .ecmd o } := rfl
@[simp] theorem syl_adec (h : Hdr) (o : LEcmd) : syl? (.adec h o) = some { cls := 9, opc := 0x08, h := h, body := .ecmd o } := rfl
@[simp] theorem syl_plDec (h : Hdr) (o : LEcmd) : syl? (.plDec h o) = some { cls := 9, opc := 0x09, h := h, body := .ecmd o } := rfl
@[simp] theorem syl_plAnd (h : Hdr) (o : LEcmd) : syl? (.plAnd h o) = some { cls := 9, opc := 0x0A, h := h, body := .ecmd o } := rfl
@[simp] theorem syl_plAndDocs (h : Hdr) (o : LEcmd) : syl? (.plAndDocs h o) = some { cls := 9, opc := 0x0A, h := h, body := .ecmd o } := rfl
@[simp] theorem syl_plOr (h : Hdr) (o : LEcmd) : syl? (.plOr h o) = some { cls := 9, opc := 0x0B, h := h, body := .ecmd o } := rfl
@[simp] theorem syl_plOrDocs (h : Hdr) (o : LEcmd) : syl? (.plOrDocs h o) = some { cls := 9, opc := 0x0B, h := h, body := .ecmd o } := rfl
@[simp] theorem syl_plFuse (h : Hdr) (o : LEcmd) : syl? (.plFuse h o) = some { cls := 9, opc := 0x0C, h := h, body := .ecmd o } := rfl
@[simp] theorem syl_launchAcc (h : Hdr) (o : LEcmd) : syl? (.launchAcc h o) = some { cls := 9, opc := 0x0D, h := h, body := .ecmd o } := rfl
@[simp] theorem syl_launchDone (h : Hdr) (o : LEcmd) : syl? (.launchDone h o) = some { cls := 9, opc := 0x0D, h := h, body := .ecmd o } := rfl
@[simp] theorem syl_tagclr (h : Hdr) (o : LEcmd) : syl? (.tagclr h o) = some { cls := 9, opc := 0x0E, h := h, body := .ecmd o } := rfl

/-! ### Field checks -/

theorem wf_sAdd (h : Hdr) (o : LReg) : (Instr.sAdd h o).wf = (sOk h o 64 64 1 1 && bOk o [0, 2] 64 true && fmtIs h Fmt.isScalar [0, 1]) := Bool.and_true _
theorem wf_sSub (h : Hdr) (o : LReg) : (Instr.sSub h o).wf = (sOk h o 64 64 1 1 && bOk o [0, 2] 64 true && fmtIs h Fmt.isScalar [0, 1]) := Bool.and_true _
theorem wf_sMul (h : Hdr) (o : LReg) : (Instr.sMul h o).wf = (sOk h o 64 64 1 1 && bOk o [0, 2] 64 true && fmtIs h Fmt.isScalar [0, 1]) := Bool.and_true _
theorem wf_sMulh (h : Hdr) (o : LReg) : (Instr.sMulh h o).wf = (sOk h o 64 64 1 1 && bOk o [0, 2] 64 true && fmtIs h Fmt.isScalar [0]) := Bool.and_true _
theorem wf_sDiv (h : Hdr) (o : LReg) : (Instr.sDiv h o).wf = (sOk h o 64 64 1 1 && bOk o [0, 2] 64 true && fmtIs h Fmt.isScalar [0, 1]) := Bool.and_true _
theorem wf_sRem (h : Hdr) (o : LReg) : (Instr.sRem h o).wf = (sOk h o 64 64 1 1 && bOk o [0, 2] 64 true && fmtIs h Fmt.isScalar [0]) := Bool.and_true _
theorem wf_sMin (h : Hdr) (o : LReg) : (Instr.sMin h o).wf = (sOk h o 64 64 1 1 && bOk o [0, 2] 64 true && fmtIs h Fmt.isScalar [0]) := Bool.and_true _
theorem wf_sMax (h : Hdr) (o : LReg) : (Instr.sMax h o).wf = (sOk h o 64 64 1 1 && bOk o [0, 2] 64 true && fmtIs h Fmt.isScalar [0]) := Bool.and_true _
theorem wf_sAnd (h : Hdr) (o : LReg) : (Instr.sAnd h o).wf = (sOk h o 64 64 1 1 && bOk o [0, 2] 64 true && noFmt h) := Bool.and_true _
theorem wf_sOr (h : Hdr) (o : LReg) : (Instr.sOr h o).wf = (sOk h o 64 64 1 1 && bOk o [0, 2] 64 true && noFmt h) := Bool.and_true _
theorem wf_sXor (h : Hdr) (o : LReg) : (Instr.sXor h o).wf = (sOk h o 64 64 1 1 && bOk o [0, 2] 64 true && noFmt h) := Bool.and_true _
theorem wf_sAndn (h : Hdr) (o : LReg) : (Instr.sAndn h o).wf = (sOk h o 64 64 1 1 && bOk o [0, 2] 64 true && noFmt h) := Bool.and_true _
theorem wf_sShl (h : Hdr) (o : LReg) : (Instr.sShl h o).wf = (sOk h o 64 64 1 1 && bOk o [0, 2] 64 true && fmtIs h Fmt.isScalar [0]) := Bool.and_true _
theorem wf_sShr (h : Hdr) (o : LReg) : (Instr.sShr h o).wf = (sOk h o 64 64 1 1 && bOk o [0, 2] 64 true && fmtIs h Fmt.isScalar [0]) := Bool.and_true _
theorem wf_sSra (h : Hdr) (o : LReg) : (Instr.sSra h o).wf = (sOk h o 64 64 1 1 && bOk o [0, 2] 64 true && fmtIs h Fmt.isScalar [0]) := Bool.and_true _
theorem wf_sRot (h : Hdr) (o : LReg) : (Instr.sRot h o).wf = (sOk h o 64 64 1 1 && bOk o [0, 2] 64 true && fmtIs h Fmt.isScalar [0]) := Bool.and_true _
theorem wf_sClz (h : Hdr) (o : LReg) : (Instr.sClz h o).wf = (sOk h o 64 64 1 1 && noB o && fmtIs h Fmt.isScalar [0]) := Bool.and_true _
theorem wf_sPopc (h : Hdr) (o : LReg) : (Instr.sPopc h o).wf = (sOk h o 64 64 1 1 && noB o && fmtIs h Fmt.isScalar [0]) := Bool.and_true _
theorem wf_sCmp (h : Hdr) (o : LReg) : (Instr.sCmp h o).wf = (sOk h o 64 64 1 6 && bOk o [0, 2] 64 true && fmtIs h Fmt.isScalar [0]) := Bool.and_true _
theorem wf_sSel (h : Hdr) (o : LReg) : (Instr.sSel h o).wf = (sOk h o 64 64 64 1 && bOk o [0, 2] 64 true && noFmt h) := Bool.and_true _
theorem wf_bfx (h : Hdr) (o : LReg) : (Instr.bfx h o).wf = (sOk h o 64 64 1 1 && bOk o [0, 2] 64 true && fmtIs h (fun f => f == .int 64 true || f == .int 64 false) [0]) := Bool.and_true _
theorem wf_bfi (h : Hdr) (o : LReg) : (Instr.bfi h o).wf = (sOk h o 64 64 64 1 && bOk o [0, 2] 64 true && noFmt h) := Bool.and_true _
theorem wf_liw (h : Hdr) (o : LWide) : (Instr.liw h o).wf = (hdrOk h false && noFmt h && lt o.rsv 1) := Bool.and_true _
theorem wf_mfsr (h : Hdr) (o : LReg) : (Instr.mfsr h o).wf = (sOk h o 64 21 1 1 && noB o && noFmt h) := Bool.and_true _
theorem wf_mtsr (h : Hdr) (o : LReg) : (Instr.mtsr h o).wf = (sOk h o 19 64 1 1 && noB o && noFmt h && [3, 4, 5, 6, 7, 8, 9, 10, 11, 12, 14, 18].contains o.d.toNat) := Bool.and_true _
theorem wf_mtq (h : Hdr) (o : LReg) : (Instr.mtq h o).wf = (sOk h o 16 64 1 1 && noB o && noFmt h) := Bool.and_true _
theorem wf_mtqNull (h : Hdr) (o : LReg) : (Instr.mtqNull h o).wf = (sOk h o 16 1 1 2 && decide (o.sub.toNat = 1) && noB o && noFmt h) := Bool.and_true _
theorem wf_mfq (h : Hdr) (o : LReg) : (Instr.mfq h o).wf = (sOk h o 64 16 1 1 && noB o && noFmt h) := Bool.and_true _
theorem wf_mfqNull (h : Hdr) (o : LReg) : (Instr.mfqNull h o).wf = (sOk h o 64 16 1 2 && decide (o.sub.toNat = 1) && noB o && noFmt h) := Bool.and_true _
theorem wf_nop (h : Hdr) (o : LReg) : (Instr.nop h o).wf = (sOk h o 1 1 1 1 && noB o && noFmt h) := Bool.and_true _
theorem wf_br (h : Hdr) (o : LReg) : (Instr.br h o).wf = (sOk h o 1 (if o.bsel.toNat = 2 then 1 else 64) 1 1 && bOk o [0, 2] 1 true && noFmt h) := Bool.and_true _
theorem wf_brc (h : Hdr) (o : LReg) : (Instr.brc h o).wf = (sOk h o 1 64 1 6 && decide (o.bsel.toNat = 0) && fmtIs h Fmt.isScalar [0]) := Bool.and_true _
theorem wf_call (h : Hdr) (o : LReg) : (Instr.call h o).wf = (sOk h o 64 (if o.bsel.toNat = 2 then 1 else 64) 1 1 && bOk o [0, 2] 1 true && noFmt h) := Bool.and_true _
theorem wf_ret (h : Hdr) (o : LReg) : (Instr.ret h o).wf = (sOk h o 1 64 1 1 && noB o && noFmt h) := Bool.and_true _
theorem wf_loop (h : Hdr) (o : LReg) : (Instr.loop h o).wf = (sOk h o 1 1 1 1 && bOk o [2] 1 (lt (o.imm.extractLsb' 14 26) 1) && noFmt h) := Bool.and_true _
theorem wf_waitany (h : Hdr) (o : LReg) : (Instr.waitany h o).wf = (sOk h o 64 64 1 1 && noB o && noFmt h) := Bool.and_true _
theorem wf_waitall (h : Hdr) (o : LReg) : (Instr.waitall h o).wf = (sOk h o 64 64 1 1 && noB o && noFmt h) := Bool.and_true _
theorem wf_ffr (h : Hdr) (o : LReg) : (Instr.ffr h o).wf = (sOk h o 64 64 1 1 && noB o && noFmt h) := Bool.and_true _
theorem wf_tick (h : Hdr) (o : LReg) : (Instr.tick h o).wf = (sOk h o 1 1 1 1 && noB o && noFmt h) := Bool.and_true _
theorem wf_phase (h : Hdr) (o : LReg) : (Instr.phase h o).wf = (sOk h o 1 1 1 1 && noB o && noFmt h) := Bool.and_true _
theorem wf_next (h : Hdr) (o : LReg) : (Instr.next h o).wf = (sOk h o 16 1 1 1 && noB o && noFmt h) := Bool.and_true _
theorem wf_grow (h : Hdr) (o : LReg) : (Instr.grow h o).wf = (sOk h o 64 1 64 1 && bOk o [0, 2] 64 true && noFmt h) := Bool.and_true _
theorem wf_exit (h : Hdr) (o : LReg) : (Instr.exit h o).wf = (sOk h o 1 1 1 1 && noB o && noFmt h) := Bool.and_true _
theorem wf_trap (h : Hdr) (o : LReg) : (Instr.trap h o).wf = (sOk h o 1 1 1 1 && bOk o [2] 1 (lt (o.imm.extractLsb' 16 24) 1) && noFmt h) := Bool.and_true _
theorem wf_rte (h : Hdr) (o : LReg) : (Instr.rte h o).wf = (sOk h o 1 1 1 1 && noB o && noFmt h) := Bool.and_true _
theorem wf_iflush (h : Hdr) (o : LReg) : (Instr.iflush h o).wf = (sOk h o 1 1 1 1 && noB o && noFmt h) := Bool.and_true _
theorem wf_setfmt (h : Hdr) (o : LScl) : (Instr.setfmt h o).wf = (hdrOk h false && noFmt h && lt o.sc 1 && lt o.rcd 1 && lt o.o 1 && lt o.imm23 1 && lt o.rsv 1) := Bool.and_true _
theorem wf_trd (h : Hdr) (o : LTap) : (Instr.trd h o).wf = (hdrOk h true && fmtIs h anyFmt [0] && lagOk o) := Bool.and_true _
theorem wf_trdw (h : Hdr) (o : LTap) : (Instr.trdw h o).wf = (hdrOk h true && fmtIs h anyFmt [0] && windowOk o) := Bool.and_true _
theorem wf_twr (h : Hdr) (o : LTap) : (Instr.twr h o).wf = (hdrOk h true && fmtIs h anyFmt [0] && lagOk o) := Bool.and_true _
theorem wf_twra (h : Hdr) (o : LTap) : (Instr.twra h o).wf = (hdrOk h true && fmtIs h isFltIntQ [0, 1, 2, 3] && lagOk o) := Bool.and_true _
theorem wf_thist (h : Hdr) (o : LTap) : (Instr.thist h o).wf = (hdrOk h false && noFmt h && lt o.vec 1 && !o.lr && lt o.lreg 1 && lt o.lag 1 && lt o.lagb 1 && lt o.rsv 1) := Bool.and_true _
theorem wf_tsig (h : Hdr) (o : LTap) : (Instr.tsig h o).wf = (hdrOk h false && noFmt h && lt o.vec 1 && !o.lr && lt o.lreg 1 && lt o.lag 1 && lt o.lagb 1 && lt o.rsv 1) := Bool.and_true _
theorem wf_ld (h : Hdr) (o : LMem) : (Instr.ld h o).wf = (hdrOk h true && fmtIs h anyFmt [0] && offOk o) := Bool.and_true _
theorem wf_st (h : Hdr) (o : LMem) : (Instr.st h o).wf = (hdrOk h true && fmtIs h anyFmt [0] && offOk o) := Bool.and_true _
theorem wf_lds (h : Hdr) (o : LMem) : (Instr.lds h o).wf = (hdrOk h false && fmtIs h isIntAny [0] && offOk o && lt o.km 1) := Bool.and_true _
theorem wf_sts (h : Hdr) (o : LMem) : (Instr.sts h o).wf = (hdrOk h false && fmtIs h isIntAny [0] && offOk o && lt o.km 1) := Bool.and_true _
theorem wf_ldg (h : Hdr) (o : LMem) : (Instr.ldg h o).wf = (hdrOk h true && fmtIs h anyFmt [0] && decide (o.offm.toNat = 3) && lt o.nest 1 && lt o.rsv 1) := Bool.and_true _
theorem wf_stg (h : Hdr) (o : LMem) : (Instr.stg h o).wf = (hdrOk h true && fmtIs h anyFmt [0] && decide (o.offm.toNat = 3) && lt o.nest 1 && lt o.rsv 1) := Bool.and_true _
theorem wf_ldb (h : Hdr) (o : LMem) : (Instr.ldb h o).wf = (hdrOk h false && noFmt h && lt o.offm 1 && lt o.o 1 && lt o.nest 1 && lt o.km 1 && lt o.imm23 4 && lt o.rsv 1) := Bool.and_true _
theorem wf_vAdd (h : Hdr) (o : LReg) : (Instr.vAdd h o).wf = (vOk h o 64 64 1 1 && bOk o [0, 1, 2] 64 (imm32 o) && fmtIs h isFltIntQ [0, 1, 2, 3]) := Bool.and_true _
theorem wf_vSub (h : Hdr) (o : LReg) : (Instr.vSub h o).wf = (vOk h o 64 64 1 1 && bOk o [0, 1, 2] 64 (imm32 o) && fmtIs h isFltIntQ [0, 1, 2, 3]) := Bool.and_true _
theorem wf_vMul (h : Hdr) (o : LReg) : (Instr.vMul h o).wf = (vOk h o 64 64 1 1 && bOk o [0, 1, 2] 64 (imm32 o) && fmtIs h isFltIntQ [0, 1, 2, 3]) := Bool.and_true _
theorem wf_vMulh (h : Hdr) (o : LReg) : (Instr.vMulh h o).wf = (vOk h o 64 64 1 1 && bOk o [0, 1, 2] 64 (imm32 o) && fmtIs h Fmt.isInt [0]) := Bool.and_true _
theorem wf_fma (h : Hdr) (o : LReg) : (Instr.fma h o).wf = (vOk h o 64 64 64 1 && bOk o [0, 1, 2] 64 (imm32 o) && fmtIs h isFltInt [0, 1, 2, 3]) := Bool.and_true _
theorem wf_fms (h : Hdr) (o : LReg) : (Instr.fms h o).wf = (vOk h o 64 64 64 1 && bOk o [0, 1, 2] 64 (imm32 o) && fmtIs h isFltInt [0, 1, 2, 3]) := Bool.and_true _
theorem wf_vMin (h : Hdr) (o : LReg) : (Instr.vMin h o).wf = (vOk h o 64 64 1 1 && bOk o [0, 1, 2] 64 (imm32 o) && fmtIs h isFltIntQ [0]) := Bool.and_true _
theorem wf_vMax (h : Hdr) (o : LReg) : (Instr.vMax h o).wf = (vOk h o 64 64 1 1 && bOk o [0, 1, 2] 64 (imm32 o) && fmtIs h isFltIntQ [0]) := Bool.and_true _
theorem wf_abs (h : Hdr) (o : LReg) : (Instr.abs h o).wf = (vOk h o 64 64 1 1 && noB o && (fmtIs h Fmt.isFlt [0] || fmtIs h Fmt.isInt [0, 1, 2, 3])) := Bool.and_true _
theorem wf_neg (h : Hdr) (o : LReg) : (Instr.neg h o).wf = (vOk h o 64 64 1 1 && noB o && (fmtIs h Fmt.isFlt [0] || fmtIs h Fmt.isInt [0, 1, 2, 3])) := Bool.and_true _
theorem wf_absd (h : Hdr) (o : LReg) : (Instr.absd h o).wf = (vOk h o 64 64 1 1 && bOk o [0, 1, 2] 64 (imm32 o) && fmtIs h isFltIntQ [0, 1, 2, 3]) := Bool.and_true _
theorem wf_vAnd (h : Hdr) (o : LReg) : (Instr.vAnd h o).wf = (vOk h o 64 64 1 1 && bOk o [0, 1, 2] 64 (imm32 o) && noFmt h) := Bool.and_true _
theorem wf_vOr (h : Hdr) (o : LReg) : (Instr.vOr h o).wf = (vOk h o 64 64 1 1 && bOk o [0, 1, 2] 64 (imm32 o) && noFmt h) := Bool.and_true _
theorem wf_vXor (h : Hdr) (o : LReg) : (Instr.vXor h o).wf = (vOk h o 64 64 1 1 && bOk o [0, 1, 2] 64 (imm32 o) && noFmt h) := Bool.and_true _
theorem wf_vAndn (h : Hdr) (o : LReg) : (Instr.vAndn h o).wf = (vOk h o 64 64 1 1 && bOk o [0, 1, 2] 64 (imm32 o) && noFmt h) := Bool.and_true _
theorem wf_vShl (h : Hdr) (o : LReg) : (Instr.vShl h o).wf = (vOk h o 64 64 1 1 && bOk o [0, 1, 2] 64 (imm32 o) && fmtIs h Fmt.isInt [0]) := Bool.and_true _
theorem wf_vShr (h : Hdr) (o : LReg) : (Instr.vShr h o).wf = (vOk h o 64 64 1 1 && bOk o [0, 1, 2] 64 (imm32 o) && fmtIs h Fmt.isInt [0]) := Bool.and_true _
theorem wf_vSra (h : Hdr) (o : LReg) : (Instr.vSra h o).wf = (vOk h o 64 64 1 1 && bOk o [0, 1, 2] 64 (imm32 o) && fmtIs h Fmt.isInt [0]) := Bool.and_true _
theorem wf_vClz (h : Hdr) (o : LReg) : (Instr.vClz h o).wf = (vOk h o 64 64 1 1 && noB o && fmtIs h Fmt.isInt [0]) := Bool.and_true _
theorem wf_vPopc (h : Hdr) (o : LReg) : (Instr.vPopc h o).wf = (vOk h o 64 64 1 1 && noB o && fmtIs h Fmt.isInt [0]) := Bool.and_true _
theorem wf_vCmp (h : Hdr) (o : LReg) : (Instr.vCmp h o).wf = (vOk h o 8 64 1 16 && !(lt o.d 1) && decide (o.sub.toNat % 8 ≠ 7) && bOk o [0, 1, 2] 64 (imm32 o) && fmtIs h isFltIntQ [0]) := Bool.and_true _
theorem wf_vSel (h : Hdr) (o : LReg) : (Instr.vSel h o).wf = (vOk h o 64 64 8 1 && bOk o [0, 1, 2] 64 (imm32 o) && noFmt h) := Bool.and_true _
theorem wf_mov (h : Hdr) (o : LReg) : (Instr.mov h o).wf = (vOk h o 64 (if o.bsel.toNat = 0 then 64 else 1) 1 1 && bOk o [0, 1, 2] 1 (imm32 o) && noFmt h) := Bool.and_true _
theorem wf_bcast (h : Hdr) (o : LReg) : (Instr.bcast h o).wf = (vOk h o 64 64 1 1 && indexOk h o && fmtIs h isElem [0]) := Bool.and_true _
theorem wf_extr (h : Hdr) (o : LReg) : (Instr.extr h o).wf = (vOk h o 64 64 1 1 && indexOk h o && lt o.km 1 && oneCluster h && fmtIs h isElem [0]) := Bool.and_true _
theorem wf_ins (h : Hdr) (o : LReg) : (Instr.ins h o).wf = (vOk h o 64 64 1 1 && indexOk h o && lt o.km 1 && fmtIs h isElem [0]) := Bool.and_true _
theorem wf_perm (h : Hdr) (o : LReg) : (Instr.perm h o).wf = (vOk h o 64 64 1 4 && (if o.sub.toNat = 0 then bOk o [0] 64 false else bOk o [1, 2] 1 (imm32 o)) && noFmt h) := Bool.and_true _
theorem wf_iota (h : Hdr) (o : LReg) : (Instr.iota h o).wf = (vOk h o 64 1 1 1 && bOk o [1, 2] 1 (imm32 o) && fmtIs h Fmt.isInt [0, 1, 2, 3]) := Bool.and_true _
theorem wf_kand (h : Hdr) (o : LReg) : (Instr.kand h o).wf = (vOk h o 8 8 1 1 && !(lt o.d 1) && bOk o [0] 8 false && lt o.km 1 && noFmt h) := Bool.and_true _
theorem wf_kor (h : Hdr) (o : LReg) : (Instr.kor h o).wf = (vOk h o 8 8 1 1 && !(lt o.d 1) && bOk o [0] 8 false && lt o.km 1 && noFmt h) := Bool.and_true _
theorem wf_kxor (h : Hdr) (o : LReg) : (Instr.kxor h o).wf = (vOk h o 8 8 1 1 && !(lt o.d 1) && bOk o [0] 8 false && lt o.km 1 && noFmt h) := Bool.and_true _
theorem wf_knot (h : Hdr) (o : LReg) : (Instr.knot h o).wf = (vOk h o 8 8 1 1 && !(lt o.d 1) && noB o && lt o.km 1 && noFmt h) := Bool.and_true _
theorem wf_kpopc (h : Hdr) (o : LReg) : (Instr.kpopc h o).wf = (vOk h o 64 8 1 1 && noB o && lt o.km 1 && noFmt h) := Bool.and_true _
theorem wf_ktail (h : Hdr) (o : LReg) : (Instr.ktail h o).wf = (vOk h o 8 1 1 2 && !(lt o.d 1) && bOk o [1, 2] 1 (imm32 o) && lt o.km 1 && noFmt h) := Bool.and_true _
theorem wf_exp2 (h : Hdr) (o : LReg) : (Instr.exp2 h o).wf = (vOk h o 64 64 1 1 && noB o && fmtIs h Fmt.isFlt [0, 1]) := Bool.and_true _
theorem wf_log2 (h : Hdr) (o : LReg) : (Instr.log2 h o).wf = (vOk h o 64 64 1 1 && noB o && fmtIs h Fmt.isFlt [0, 1]) := Bool.and_true _
theorem wf_rcp (h : Hdr) (o : LReg) : (Instr.rcp h o).wf = (vOk h o 64 64 1 1 && noB o && fmtIs h Fmt.isFlt [0, 1]) := Bool.and_true _
theorem wf_rsqrt (h : Hdr) (o : LReg) : (Instr.rsqrt h o).wf = (vOk h o 64 64 1 1 && noB o && fmtIs h Fmt.isFlt [0, 1]) := Bool.and_true _
theorem wf_sqrt (h : Hdr) (o : LReg) : (Instr.sqrt h o).wf = (vOk h o 64 64 1 1 && noB o && fmtIs h Fmt.isFlt [0, 1]) := Bool.and_true _
theorem wf_tanh (h : Hdr) (o : LReg) : (Instr.tanh h o).wf = (vOk h o 64 64 1 1 && noB o && fmtIs h Fmt.isFlt [0, 1]) := Bool.and_true _
theorem wf_sigm (h : Hdr) (o : LReg) : (Instr.sigm h o).wf = (vOk h o 64 64 1 1 && noB o && fmtIs h Fmt.isFlt [0, 1]) := Bool.and_true _
theorem wf_erf (h : Hdr) (o : LReg) : (Instr.erf h o).wf = (vOk h o 64 64 1 1 && noB o && fmtIs h Fmt.isFlt [0, 1]) := Bool.and_true _
theorem wf_sin (h : Hdr) (o : LReg) : (Instr.sin h o).wf = (vOk h o 64 64 1 1 && noB o && fmtIs h Fmt.isFlt [0, 1]) := Bool.and_true _
theorem wf_cos (h : Hdr) (o : LReg) : (Instr.cos h o).wf = (vOk h o 64 64 1 1 && noB o && fmtIs h Fmt.isFlt [0, 1]) := Bool.and_true _
theorem wf_rsum (h : Hdr) (o : LReg) : (Instr.rsum h o).wf = (vOk h o 4 64 1 1 && noB o && fmtIs h isFltInt [0, 1]) := Bool.and_true _
theorem wf_rmax (h : Hdr) (o : LReg) : (Instr.rmax h o).wf = (vOk h o 4 64 1 1 && noB o && fmtIs h isFltInt [0]) := Bool.and_true _
theorem wf_rmin (h : Hdr) (o : LReg) : (Instr.rmin h o).wf = (vOk h o 4 64 1 1 && noB o && fmtIs h isFltInt [0]) := Bool.and_true _
theorem wf_rminidx (h : Hdr) (o : LReg) : (Instr.rminidx h o).wf = (vOk h o 3 64 1 1 && decide (o.d.toNat ≠ 1) && bOk o [1, 2] 1 (imm32 o) && fmtIs h isFltInt [0]) := Bool.and_true _
theorem wf_rabsmax (h : Hdr) (o : LReg) : (Instr.rabsmax h o).wf = (vOk h o 1 64 1 1 && noB o && fmtIs h Fmt.isFlt [0]) := Bool.and_true _
theorem wf_rdrain (h : Hdr) (o : LReg) : (Instr.rdrain h o).wf = (vOk h o 64 4 1 6 && noB o && (match o.sub.toNat with
      | 0 => noFmt h
      | 1 => fmtIs h Fmt.isWord32 [0, 1]
      | n => fmtIs h Fmt.isWord32 [0] && (decide (n < 4) || decide (o.a.toNat % 2 = 0)))) := Bool.and_true _
theorem wf_rclr (h : Hdr) (o : LReg) : (Instr.rclr h o).wf = (hdrOk h false && regOk o 4 1 1 4 && noB o && lt o.km 1 && (match o.sub.toNat with
      | 0 => noFmt h
      | n => fmtIs h Fmt.isWord32 [0] && (decide (n ≠ 3) || decide (o.d.toNat % 2 = 0)))) := Bool.and_true _
theorem wf_part (h : Hdr) (o : LReg) : (Instr.part h o).wf = (vOk h o 64 64 64 8 && !(lt o.sub 1) && decide (o.d.toNat + o.sub.toNat ≤ 63) && bOk o [1, 2] 1 (imm32 o) && noFmt h) := Bool.and_true _
theorem wf_fcfg (h : Hdr) (o : LReg) : (Instr.fcfg h o).wf = (hdrOk h false && regOk o 8 1 1 1 && bOk o [1, 2] 1 (frontCfgOk o.imm) && lt o.km 1 && noFmt h) := Bool.and_true _
theorem wf_fins (h : Hdr) (o : LReg) : (Instr.fins h o).wf = (vOk h o 8 62 1 1 && noB o && oneCluster h && noFmt h) := Bool.and_true _
theorem wf_fmerge (h : Hdr) (o : LReg) : (Instr.fmerge h o).wf = (hdrOk h false && regOk o 8 8 1 1 && bOk o [0] 8 false && lt o.km 1 && noFmt h) := Bool.and_true _
theorem wf_fpeel (h : Hdr) (o : LReg) : (Instr.fpeel h o).wf = (vOk h o 62 8 1 1 && bOk o [1, 2] 1 (imm32 o) && oneCluster h && noFmt h) := Bool.and_true _
theorem wf_fcnt (h : Hdr) (o : LReg) : (Instr.fcnt h o).wf = (hdrOk h false && regOk o 64 8 1 1 && noB o && lt o.km 1 && noFmt h) := Bool.and_true _
theorem wf_fclr (h : Hdr) (o : LReg) : (Instr.fclr h o).wf = (hdrOk h false && regOk o 8 1 1 1 && noB o && lt o.km 1 && noFmt h) := Bool.and_true _
theorem wf_fclrAll (h : Hdr) (o : LReg) : (Instr.fclrAll h o).wf = (hdrOk h false && regOk o 8 1 1 2 && decide (o.sub.toNat = 1) && noB o && lt o.km 1 && noFmt h) := Bool.and_true _
theorem wf_fsave (h : Hdr) (o : LReg) : (Instr.fsave h o).wf = (hdrOk h false && regOk o 1 64 1 1 && lt o.b 8 && lt o.bsel 1 && lt (o.imm.extractLsb' 31 9) 1 && lt o.km 1 && noFmt h) := Bool.and_true _
theorem wf_fload (h : Hdr) (o : LReg) : (Instr.fload h o).wf = (hdrOk h false && regOk o 8 64 1 1 && lt o.b 1 && lt o.bsel 1 && lt (o.imm.extractLsb' 31 9) 1 && lt o.km 1 && noFmt h) := Bool.and_true _
theorem wf_mma (h : Hdr) (o : LArr) : (Instr.mma h o).wf = (hdrOk h false && fmtIs h Fmt.isMatrix [0, 1] && lt o.kst 8 && lt o.ms 1 && lt o.rsv 1 && arrFmtOk h o &&
      (match o.srck.toNat with
      | 0 => true
      | 1 => lt o.o 1 && lt (o.imm23.extractLsb' 16 7) 1
      | _ => false)) := Bool.and_true _
theorem wf_mmac (h : Hdr) (o : LArr) : (Instr.mmac h o).wf = (hdrOk h false && fmtIs h Fmt.isMatrix [0, 1] && lt o.kst 8 && lt o.rsv 1 && arrFmtOk h o && decide (o.srck.toNat = 2) &&
      lt o.rcd 1 && lt o.o 1 && lt o.imm23 1 && decide (o.ms ≠ o.mt)) := Bool.and_true _
theorem wf_ldw (h : Hdr) (o : LArr) : (Instr.ldw h o).wf = (hdrOk h false && fmtIs h Fmt.isMatrix [0] && lt o.kst 8 && lt o.rsv 1 && lt o.mt 1 && lt o.srck 1 && lt o.bfmt 1 && lt o.ms 1 &&
      (match fmtOf (fcodeOf h.fmt) with
      | some f => scalesOk o f
      | none => false)) := Bool.and_true _
theorem wf_accrd (h : Hdr) (o : LArr) : (Instr.accrd h o).wf = (hdrOk h true && noFmt h && lt o.rcd 64 && lt o.srck 1 && lt o.kst 1 && lt o.bfmt 1 && lt o.sc 1 && lt o.ms 1 && lt o.rsv 1) := Bool.and_true _
theorem wf_accwr (h : Hdr) (o : LArr) : (Instr.accwr h o).wf = (hdrOk h true && noFmt h && lt o.rcd 64 && lt o.srck 1 && lt o.kst 1 && lt o.bfmt 1 && lt o.sc 1 && lt o.ms 1 && lt o.rsv 1) := Bool.and_true _
theorem wf_accclr (h : Hdr) (o : LArr) : (Instr.accclr h o).wf = (hdrOk h false && noFmt h && lt o.rcd 1 && lt o.o 1 && lt o.imm23 1 && lt o.srck 1 && lt o.kst 1 && lt o.bfmt 1 && lt o.sc 1 && lt o.ms 1 && lt o.rsv 1) := Bool.and_true _
theorem wf_mmodeExcl (h : Hdr) (o : LArr) : (Instr.mmodeExcl h o).wf = (hdrOk h false && noFmt h && decide (o.imm23.toNat = 1) && lt o.mt 1 && lt o.rcd 1 && lt o.o 1 && lt o.srck 1 && lt o.kst 1 && lt o.bfmt 1 && lt o.sc 1 && lt o.ms 1 && lt o.rsv 1) := Bool.and_true _
theorem wf_mmodeAlt (h : Hdr) (o : LArr) : (Instr.mmodeAlt h o).wf = (hdrOk h false && noFmt h && decide (o.imm23.toNat = 0) && lt o.mt 1 && lt o.rcd 1 && lt o.o 1 && lt o.srck 1 && lt o.kst 1 && lt o.bfmt 1 && lt o.sc 1 && lt o.ms 1 && lt o.rsv 1) := Bool.and_true _
theorem wf_scld (h : Hdr) (o : LScl) : (Instr.scld h o).wf = (hdrOk h false && noFmt h && lt o.a 1 && lt o.rsv 1) := Bool.and_true _
theorem wf_scset (h : Hdr) (o : LScl) : (Instr.scset h o).wf = (hdrOk h false && noFmt h && lt o.rcd 1 && lt o.rsv 1) := Bool.and_true _
theorem wf_scmov (h : Hdr) (o : LScl) : (Instr.scmov h o).wf = (hdrOk h false && noFmt h && lt o.a 1 && lt o.rcd 1 && lt o.o 1 && lt o.imm23 16 && lt o.rsv 1) := Bool.and_true _
theorem wf_cvt (h : Hdr) (o : LReg) : (Instr.cvt h o).wf = (vOk h o 64 64 1 16 && lt o.bsel 1 && lt o.imm 1 && fmtIs h isCvt [0, 1, 2, 3] && cvtOk h o) := Bool.and_true _
theorem wf_cvtq (h : Hdr) (o : LReg) : (Instr.cvtq h o).wf = (vOk h o 64 64 64 16 && lt o.bsel 1 && lt o.imm 1 && fmtIs h Fmt.isMx [0, 1, 2, 3] && cvtOk h o && (match fmtOf o.b with
      | some f => f.isFlt
      | none => false)) := Bool.and_true _
theorem wf_trans (h : Hdr) (o : LReg) : (Instr.trans h o).wf = (vOk h o (65 - transRegs h) (65 - transRegs h) 1 1 && noB o && fmtIs h isElem [0]) := Bool.and_true _
theorem wf_xcl (h : Hdr) (o : LReg) : (Instr.xcl h o).wf = (vOk h o 64 64 1 3 && bOk o (if o.sub.toNat = 2 then [1] else [1, 2]) 1 (imm32 o) && noFmt h) := Bool.and_true _
theorem wf_regroup (h : Hdr) (o : LReg) : (Instr.regroup h o).wf = (vOk h o 64 64 1 16 && lt (o.imm.extractLsb' 4 36) 1 && (if o.sub.toNat % 4 = 1 then decide (o.bsel.toNat = 1) else lt o.bsel 1 && lt o.b 1) &&
      fmtIs h isElem [0] && decide (perWord h % 2 ^ (o.sub.toNat / 4) = 0)) := Bool.and_true _
theorem wf_pack (h : Hdr) (o : LReg) : (Instr.pack h o).wf = (vOk h o 64 64 1 1 && noB o && noFmt h) := Bool.and_true _
theorem wf_unpack (h : Hdr) (o : LReg) : (Instr.unpack h o).wf = (vOk h o 64 64 1 1 && noB o && noFmt h) := Bool.and_true _
theorem wf_xbcast (h : Hdr) (o : LReg) : (Instr.xbcast h o).wf = (vOk h o 64 16 1 1 && noB o && noFmt h) := Bool.and_true _
theorem wf_ldd (h : Hdr) (o : LEmem) : (Instr.ldd h o).wf = (ememOk h o 64 1 1 1 1 0 false && fmtIs h isIntAny [0] && szOk h o) := Bool.and_true _
theorem wf_lddP (h : Hdr) (o : LEmem) : (Instr.lddP h o).wf = (ememOk h o 64 1 1 1 1 0 true && fmtIs h isIntAny [0] && szOk h o) := Bool.and_true _
theorem wf_lddAcq (h : Hdr) (o : LEmem) : (Instr.lddAcq h o).wf = (ememOk h o 64 1 1 5 1 0 false && fmtIs h isIntAny [0] && szOk h o) := Bool.and_true _
theorem wf_std (h : Hdr) (o : LEmem) : (Instr.std h o).wf = (ememOk h o 1 64 1 1 1 0 false && fmtIs h isIntAny [0] && szOk h o) := Bool.and_true _
theorem wf_stdRel (h : Hdr) (o : LEmem) : (Instr.stdRel h o).wf = (ememOk h o 1 64 1 5 1 0 false && fmtIs h isIntAny [0] && szOk h o) := Bool.and_true _
theorem wf_atomAdd (h : Hdr) (o : LEmem) : (Instr.atomAdd h o).wf = (atomOk h o 1 0) := Bool.and_true _
theorem wf_atomAnd (h : Hdr) (o : LEmem) : (Instr.atomAnd h o).wf = (atomOk h o 1 1) := Bool.and_true _
theorem wf_atomOr (h : Hdr) (o : LEmem) : (Instr.atomOr h o).wf = (atomOk h o 1 2) := Bool.and_true _
theorem wf_atomXor (h : Hdr) (o : LEmem) : (Instr.atomXor h o).wf = (atomOk h o 1 3) := Bool.and_true _
theorem wf_atomMin (h : Hdr) (o : LEmem) : (Instr.atomMin h o).wf = (atomOk h o 1 4) := Bool.and_true _
theorem wf_atomMax (h : Hdr) (o : LEmem) : (Instr.atomMax h o).wf = (atomOk h o 1 5) := Bool.and_true _
theorem wf_atomSwp (h : Hdr) (o : LEmem) : (Instr.atomSwp h o).wf = (atomOk h o 1 6) := Bool.and_true _
theorem wf_atomCas (h : Hdr) (o : LEmem) : (Instr.atomCas h o).wf = (atomOk h o 64 7) := Bool.and_true _
theorem wf_cas128 (h : Hdr) (o : LEmem) : (Instr.cas128 h o).wf = (ememOk h o 63 64 64 5 4 0 false && decide (o.d.toNat % 2 = 0) && noFmt h && decide (o.sz.toNat = 4)) := Bool.and_true _
theorem wf_cpyD2s (h : Hdr) (o : LEcmd) : (Instr.cpyD2s h o).wf = (cpyOk h o 0) := Bool.and_true _
theorem wf_cpyS2d (h : Hdr) (o : LEcmd) : (Instr.cpyS2d h o).wf = (cpyOk h o 1) := Bool.and_true _
theorem wf_cpyD2d (h : Hdr) (o : LEcmd) : (Instr.cpyD2d h o).wf = (cpyOk h o 2) := Bool.and_true _
theorem wf_cpyS2s (h : Hdr) (o : LEcmd) : (Instr.cpyS2s h o).wf = (cpyOk h o 3) := Bool.and_true _
theorem wf_cpyD2t (h : Hdr) (o : LEcmd) : (Instr.cpyD2t h o).wf = (cpyOk h o 4) := Bool.and_true _
theorem wf_cpyD2sz (h : Hdr) (o : LEcmd) : (Instr.cpyD2sz h o).wf = (cpyOk h o 5) := Bool.and_true _
theorem wf_cpyS2sz (h : Hdr) (o : LEcmd) : (Instr.cpyS2sz h o).wf = (cpyOk h o 6) := Bool.and_true _
theorem wf_cpym (h : Hdr) (o : LEcmd) : (Instr.cpym h o).wf = (cpymOk h o) := Bool.and_true _
theorem wf_adec (h : Hdr) (o : LEcmd) : (Instr.adec h o).wf = (cmdOk h o && lt o.c 1 && lt o.x 1 && lt o.sub 1) := Bool.and_true _
theorem wf_plDec (h : Hdr) (o : LEcmd) : (Instr.plDec h o).wf = (cmdOk h o && lt o.x 1 && lt o.sub 1) := Bool.and_true _
theorem wf_plAnd (h : Hdr) (o : LEcmd) : (Instr.plAnd h o).wf = (cmdOk h o && lt o.c 1 && lt o.x 1 && decide (o.sub.toNat = 0)) := Bool.and_true _
theorem wf_plAndDocs (h : Hdr) (o : LEcmd) : (Instr.plAndDocs h o).wf = (cmdOk h o && lt o.c 1 && lt o.x 1 && decide (o.sub.toNat = 1)) := Bool.and_true _
theorem wf_plOr (h : Hdr) (o : LEcmd) : (Instr.plOr h o).wf = (cmdOk h o && lt o.c 1 && lt o.x 1 && decide (o.sub.toNat = 0)) := Bool.and_true _
theorem wf_plOrDocs (h : Hdr) (o : LEcmd) : (Instr.plOrDocs h o).wf = (cmdOk h o && lt o.c 1 && lt o.x 1 && decide (o.sub.toNat = 1)) := Bool.and_true _
theorem wf_plFuse (h : Hdr) (o : LEcmd) : (Instr.plFuse h o).wf = (cmdOk h o && lt o.c 1 && lt o.x 1 && lt o.sub 1) := Bool.and_true _
theorem wf_launchAcc (h : Hdr) (o : LEcmd) : (Instr.launchAcc h o).wf = (cmdOk h o && lt o.c 1 && lt o.rec2 1 && lt o.x 1 && decide (o.sub.toNat = 0)) := Bool.and_true _
theorem wf_launchDone (h : Hdr) (o : LEcmd) : (Instr.launchDone h o).wf = (cmdOk h o && lt o.c 1 && lt o.rec2 1 && lt o.x 1 && decide (o.sub.toNat = 1)) := Bool.and_true _
theorem wf_tagclr (h : Hdr) (o : LEcmd) : (Instr.tagclr h o).wf = (cmdOk h o && lt o.c 1 && lt o.rec1 1 && lt o.rec2 1 && lt o.x 1 && lt o.tp 1 && lt o.tcv 1 && lt o.sub 1) := Bool.and_true _

/-! ### Bytecodes -/

@[simp] theorem tchFields_tchMov (d : BitVec 4) (bi : Bool) (b : BitVec 16) : tchFields? (.tchMov d bi b) = some { op := 0x00, d := d, a := 0, bi := bi, b := b } := rfl
@[simp] theorem tchFields_tchAdd (d : BitVec 4) (a : BitVec 4) (bi : Bool) (b : BitVec 16) : tchFields? (.tchAdd d a bi b) = some { op := 0x01, d := d, a := a, bi := bi, b := b } := rfl
@[simp] theorem tchFields_tchSub (d : BitVec 4) (a : BitVec 4) (bi : Bool) (b : BitVec 16) : tchFields? (.tchSub d a bi b) = some { op := 0x02, d := d, a := a, bi := bi, b := b } := rfl
@[simp] theorem tchFields_tchAnd (d : BitVec 4) (a : BitVec 4) (bi : Bool) (b : BitVec 16) : tchFields? (.tchAnd d a bi b) = some { op := 0x03, d := d, a := a, bi := bi, b := b } := rfl
@[simp] theorem tchFields_tchOr (d : BitVec 4) (a : BitVec 4) (bi : Bool) (b : BitVec 16) : tchFields? (.tchOr d a bi b) = some { op := 0x04, d := d, a := a, bi := bi, b := b } := rfl
@[simp] theorem tchFields_tchXor (d : BitVec 4) (a : BitVec 4) (bi : Bool) (b : BitVec 16) : tchFields? (.tchXor d a bi b) = some { op := 0x05, d := d, a := a, bi := bi, b := b } := rfl
@[simp] theorem tchFields_tchShl (d : BitVec 4) (a : BitVec 4) (bi : Bool) (b : BitVec 16) : tchFields? (.tchShl d a bi b) = some { op := 0x06, d := d, a := a, bi := bi, b := b } := rfl
@[simp] theorem tchFields_tchShr (d : BitVec 4) (a : BitVec 4) (bi : Bool) (b : BitVec 16) : tchFields? (.tchShr d a bi b) = some { op := 0x07, d := d, a := a, bi := bi, b := b } := rfl
@[simp] theorem tchFields_tchMin (d : BitVec 4) (a : BitVec 4) (bi : Bool) (b : BitVec 16) : tchFields? (.tchMin d a bi b) = some { op := 0x08, d := d, a := a, bi := bi, b := b } := rfl
@[simp] theorem tchFields_tchMax (d : BitVec 4) (a : BitVec 4) (bi : Bool) (b : BitVec 16) : tchFields? (.tchMax d a bi b) = some { op := 0x09, d := d, a := a, bi := bi, b := b } := rfl
@[simp] theorem tchFields_tchMul (d : BitVec 4) (a : BitVec 4) (bi : Bool) (b : BitVec 16) : tchFields? (.tchMul d a bi b) = some { op := 0x0A, d := d, a := a, bi := bi, b := b } := rfl
@[simp] theorem tchFields_tchLui (d : BitVec 4) (imm : BitVec 16) : tchFields? (.tchLui d imm) = some { op := 0x0B, d := d, a := 0, bi := true, b := imm } := rfl
@[simp] theorem tchFields_tchCeq (d : BitVec 4) (a : BitVec 4) (bi : Bool) (b : BitVec 16) : tchFields? (.tchCeq d a bi b) = some { op := 0x10, d := d, a := a, bi := bi, b := b } := rfl
@[simp] theorem tchFields_tchClt (d : BitVec 4) (a : BitVec 4) (bi : Bool) (b : BitVec 16) : tchFields? (.tchClt d a bi b) = some { op := 0x11, d := d, a := a, bi := bi, b := b } := rfl
@[simp] theorem tchFields_tchClts (d : BitVec 4) (a : BitVec 4) (bi : Bool) (b : BitVec 16) : tchFields? (.tchClts d a bi b) = some { op := 0x12, d := d, a := a, bi := bi, b := b } := rfl
@[simp] theorem tchFields_tchBz (a : BitVec 4) (off : BitVec 8) : tchFields? (.tchBz a off) = some { op := 0x18, d := 0, a := a, bi := true, b := 0#8 ++ off } := rfl
@[simp] theorem tchFields_tchBnz (a : BitVec 4) (off : BitVec 8) : tchFields? (.tchBnz a off) = some { op := 0x19, d := 0, a := a, bi := true, b := 0#8 ++ off } := rfl
@[simp] theorem tchFields_tchJmp (off : BitVec 8) : tchFields? (.tchJmp off) = some { op := 0x1A, d := 0, a := 0, bi := true, b := 0#8 ++ off } := rfl
@[simp] theorem tchFields_tchLoopn (d : BitVec 4) (len : BitVec 8) (n : BitVec 4) : tchFields? (.tchLoopn d len n) = some { op := 0x1B, d := d, a := 0, bi := true, b := 0#4 ++ len ++ n } := rfl
@[simp] theorem tchFields_tchQrd (d : BitVec 4) (a : BitVec 4) (field : BitVec 16) : tchFields? (.tchQrd d a field) = some { op := 0x20, d := d, a := a, bi := true, b := field } := rfl
@[simp] theorem tchFields_tchCrd (d : BitVec 4) (a : BitVec 4) (field : BitVec 16) : tchFields? (.tchCrd d a field) = some { op := 0x21, d := d, a := a, bi := true, b := field } := rfl
@[simp] theorem tchFields_tchErd (d : BitVec 4) (field : BitVec 16) : tchFields? (.tchErd d field) = some { op := 0x22, d := d, a := 0, bi := true, b := field } := rfl
@[simp] theorem tchFields_tchPrd (d : BitVec 4) (field : BitVec 16) : tchFields? (.tchPrd d field) = some { op := 0x23, d := d, a := 0, bi := true, b := field } := rfl
@[simp] theorem tchFields_tchFreeb (d : BitVec 4) (a : BitVec 4) : tchFields? (.tchFreeb d a) = some { op := 0x24, d := d, a := a, bi := false, b := 0 } := rfl
@[simp] theorem tchFields_tchBind (a : BitVec 4) (b : BitVec 4) : tchFields? (.tchBind a b) = some { op := 0x30, d := 0, a := a, bi := false, b := 0#12 ++ b } := rfl
@[simp] theorem tchFields_tchPreempt (a : BitVec 4) : tchFields? (.tchPreempt a) = some { op := 0x31, d := 0, a := a, bi := false, b := 0 } := rfl
@[simp] theorem tchFields_tchKill (a : BitVec 4) : tchFields? (.tchKill a) = some { op := 0x32, d := 0, a := a, bi := false, b := 0 } := rfl
@[simp] theorem tchFields_tchRefill (a : BitVec 4) (bi : Bool) (b : BitVec 16) : tchFields? (.tchRefill a bi b) = some { op := 0x33, d := 0, a := a, bi := bi, b := b } := rfl
@[simp] theorem tchFields_tchDefer (a : BitVec 4) : tchFields? (.tchDefer a) = some { op := 0x34, d := 0, a := a, bi := false, b := 0 } := rfl
@[simp] theorem tchFields_tchPrio (a : BitVec 4) (bi : Bool) (b : BitVec 16) : tchFields? (.tchPrio a bi b) = some { op := 0x35, d := 0, a := a, bi := bi, b := b } := rfl
@[simp] theorem tchFields_tchEnd  : tchFields? (.tchEnd ) = some { op := 0x3F, d := 0, a := 0, bi := false, b := 0 } := rfl
theorem wf_tchMov (d : BitVec 4) (bi : Bool) (b : BitVec 16) : (Instr.tchMov d bi b).wf = (tchB bi b) := rfl
theorem wf_tchAdd (d : BitVec 4) (a : BitVec 4) (bi : Bool) (b : BitVec 16) : (Instr.tchAdd d a bi b).wf = (tchB bi b) := rfl
theorem wf_tchSub (d : BitVec 4) (a : BitVec 4) (bi : Bool) (b : BitVec 16) : (Instr.tchSub d a bi b).wf = (tchB bi b) := rfl
theorem wf_tchAnd (d : BitVec 4) (a : BitVec 4) (bi : Bool) (b : BitVec 16) : (Instr.tchAnd d a bi b).wf = (tchB bi b) := rfl
theorem wf_tchOr (d : BitVec 4) (a : BitVec 4) (bi : Bool) (b : BitVec 16) : (Instr.tchOr d a bi b).wf = (tchB bi b) := rfl
theorem wf_tchXor (d : BitVec 4) (a : BitVec 4) (bi : Bool) (b : BitVec 16) : (Instr.tchXor d a bi b).wf = (tchB bi b) := rfl
theorem wf_tchShl (d : BitVec 4) (a : BitVec 4) (bi : Bool) (b : BitVec 16) : (Instr.tchShl d a bi b).wf = (tchB bi b) := rfl
theorem wf_tchShr (d : BitVec 4) (a : BitVec 4) (bi : Bool) (b : BitVec 16) : (Instr.tchShr d a bi b).wf = (tchB bi b) := rfl
theorem wf_tchMin (d : BitVec 4) (a : BitVec 4) (bi : Bool) (b : BitVec 16) : (Instr.tchMin d a bi b).wf = (tchB bi b) := rfl
theorem wf_tchMax (d : BitVec 4) (a : BitVec 4) (bi : Bool) (b : BitVec 16) : (Instr.tchMax d a bi b).wf = (tchB bi b) := rfl
theorem wf_tchMul (d : BitVec 4) (a : BitVec 4) (bi : Bool) (b : BitVec 16) : (Instr.tchMul d a bi b).wf = (tchB bi b) := rfl
theorem wf_tchLui (d : BitVec 4) (imm : BitVec 16) : (Instr.tchLui d imm).wf = (true) := rfl
theorem wf_tchCeq (d : BitVec 4) (a : BitVec 4) (bi : Bool) (b : BitVec 16) : (Instr.tchCeq d a bi b).wf = (tchB bi b) := rfl
theorem wf_tchClt (d : BitVec 4) (a : BitVec 4) (bi : Bool) (b : BitVec 16) : (Instr.tchClt d a bi b).wf = (tchB bi b) := rfl
theorem wf_tchClts (d : BitVec 4) (a : BitVec 4) (bi : Bool) (b : BitVec 16) : (Instr.tchClts d a bi b).wf = (tchB bi b) := rfl
theorem wf_tchBz (a : BitVec 4) (off : BitVec 8) : (Instr.tchBz a off).wf = (true) := rfl
theorem wf_tchBnz (a : BitVec 4) (off : BitVec 8) : (Instr.tchBnz a off).wf = (true) := rfl
theorem wf_tchJmp (off : BitVec 8) : (Instr.tchJmp off).wf = (true) := rfl
theorem wf_tchLoopn (d : BitVec 4) (len : BitVec 8) (n : BitVec 4) : (Instr.tchLoopn d len n).wf = (decide (len ≠ 0)) := rfl
theorem wf_tchQrd (d : BitVec 4) (a : BitVec 4) (field : BitVec 16) : (Instr.tchQrd d a field).wf = (decide (field.toNat < 9)) := rfl
theorem wf_tchCrd (d : BitVec 4) (a : BitVec 4) (field : BitVec 16) : (Instr.tchCrd d a field).wf = (decide (field.toNat < 5)) := rfl
theorem wf_tchErd (d : BitVec 4) (field : BitVec 16) : (Instr.tchErd d field).wf = (decide (field.toNat < 5)) := rfl
theorem wf_tchPrd (d : BitVec 4) (field : BitVec 16) : (Instr.tchPrd d field).wf = (decide (field.toNat < 4)) := rfl
theorem wf_tchFreeb (d : BitVec 4) (a : BitVec 4) : (Instr.tchFreeb d a).wf = (true) := rfl
theorem wf_tchBind (a : BitVec 4) (b : BitVec 4) : (Instr.tchBind a b).wf = (true) := rfl
theorem wf_tchPreempt (a : BitVec 4) : (Instr.tchPreempt a).wf = (true) := rfl
theorem wf_tchKill (a : BitVec 4) : (Instr.tchKill a).wf = (true) := rfl
theorem wf_tchRefill (a : BitVec 4) (bi : Bool) (b : BitVec 16) : (Instr.tchRefill a bi b).wf = (tchB bi b) := rfl
theorem wf_tchDefer (a : BitVec 4) : (Instr.tchDefer a).wf = (true) := rfl
theorem wf_tchPrio (a : BitVec 4) (bi : Bool) (b : BitVec 16) : (Instr.tchPrio a bi b).wf = (tchB bi b) := rfl
theorem wf_tchEnd  : (Instr.tchEnd ).wf = (true) := rfl

end Sys2Proof.Machine
end

