-- ==== Sys2Proof/Laws/Issue.lean ====
section
/-! SUPPORT. What the shared operations of issue answer: a syllable that is admitted commits, traps or holds as its own effect says. -/
namespace Sys2Proof.Machine

theorem issued_eq (i : Instr) (s : State) (eff : State → Res) : issued i s eff = .next (issue i s eff) := rfl

/-- A syllable alone in its group, or in a group that has passed its checks, runs its own effect. -/
theorem issue_go {i : Instr} {s : State} {y : Syl} {eff : State → Res} (hy : syl? i = some y)
    (ha : s.core.pipe.glen = 1 → precheck s [slotOf i] = .go) : issue i s eff = runSyllable y i s eff := by
  unfold issue
  rw [hy]
  by_cases hg : s.core.pipe.glen = 1
  · simp [hg, ha hg]
  · simp [hg]

/-- An effect that goes on commits. -/
theorem issue_commits {i : Instr} {s s1 : State} {y : Syl} {eff : State → Res} {land : Option Nat} (hy : syl? i = some y)
    (ha : s.core.pipe.glen = 1 → precheck s [slotOf i] = .go) (he : eff s = .ok s1 land) : issue i s eff = commitSyllable y i s1 land := by
  rw [issue_go hy ha, runSyllable, he]

/-- An effect that traps takes the trap, and commits nothing. -/
theorem issue_traps {i : Instr} {s : State} {y : Syl} {eff : State → Res} {t : Trap} (hy : syl? i = some y)
    (ha : s.core.pipe.glen = 1 → precheck s [slotOf i] = .go) (he : eff s = .trap t) : issue i s eff = takeTrap t s := by
  rw [issue_go hy ha, runSyllable, he]

/-- A group of one syllable that a check holds stays at issue. -/
theorem issue_held {i : Instr} {s : State} {y : Syl} {eff : State → Res} {k : Hold} (hy : syl? i = some y)
    (hg : s.core.pipe.glen = 1) (hp : precheck s [slotOf i] = .hold k) : issue i s eff = s.onPipe fun p => { p with mark := .held k } := by
  unfold issue
  rw [hy]
  simp [hg, hp]

/-- A group of one syllable that a check traps takes that trap. -/
theorem issue_trapped {i : Instr} {s s' : State} {y : Syl} {eff : State → Res} {t : Trap} (hy : syl? i = some y)
    (hg : s.core.pipe.glen = 1) (hp : precheck s [slotOf i] = .trap t s') : issue i s eff = takeTrap t s' := by
  unfold issue
  rw [hy]
  simp [hg, hp]

/-! ### Traps (R372, R390) -/

/-- A trap below level 2 with a handler is taken. -/
theorem takeTrap_enters {t : Trap} {s : State} (h1 : s.core.sys.tl ≠ 2) (h2 : s.core.sys.tvec ≠ 0) (h3 : t.code ≠ 0x23) (h4 : t.code ≠ 0x1C) :
    takeTrap t s = s.onCore fun c => c.enterTrap t (c.sys.tl + 1) := by
  simp only [takeTrap, reportLost, h3, h4, if_false]
  rw [if_neg]
  simpa [h1] using h2

end Sys2Proof.Machine
end

