-- ==== Sys2Proof/Laws/Store.lean ====
section
/-! SUPPORT. What the operations on sparse stores do to a read, and that each keeps the canonical form. -/
namespace Sys2Proof.Machine

@[simp] theorem Store.get_nil {w : Nat} (i : Nat) : Store.get ([] : Store w) i = 0 := rfl

theorem Store.get_del {w : Nat} (st : Store w) (i j : Nat) : (st.del i).get j = if i = j then 0 else st.get j := by
  induction st with
  | nil => simp [Store.del]
  | cons e st ih =>
    obtain ⟨k, v⟩ := e
    by_cases h : k = i
    · subst h
      simp only [Store.del, if_true, ih, Store.get]
      by_cases hj : k = j <;> simp [hj]
    · simp only [Store.del, h, if_false, Store.get, ih]
      by_cases hk : k = j
      · subst hk; simp [Ne.symm h]
      · simp [hk]

theorem Store.get_add {w : Nat} (st : Store w) (i j : Nat) (x : BitVec w) (hne : ∀ e ∈ st, e.1 ≠ i) :
    (st.add i x).get j = if i = j then x else st.get j := by
  induction st with
  | nil => simp [Store.add, Store.get]
  | cons e st ih =>
    obtain ⟨k, v⟩ := e
    have hk : k ≠ i := hne (k, v) (by simp)
    have ih := ih fun e he => hne e (by simp [he])
    simp only [Store.add]
    split
    · simp [Store.get]
    · simp only [Store.get, ih]
      by_cases h : k = j
      · subst h; simp [Ne.symm hk]
      · simp [h]

/-- A removed number is listed no more. -/
theorem Store.not_mem_del {w : Nat} (st : Store w) (i : Nat) : ∀ e ∈ st.del i, e.1 ≠ i := by
  induction st with
  | nil => simp [Store.del]
  | cons e st ih =>
    obtain ⟨k, v⟩ := e
    by_cases h : k = i
    · simpa [Store.del, h] using ih
    · simp only [Store.del, h, if_false, List.mem_cons, forall_eq_or_imp]
      exact ⟨h, ih⟩

/-- Read after write. -/
theorem Store.get_set {w : Nat} (st : Store w) (i j : Nat) (x : BitVec w) : (st.set i x).get j = if i = j then x else st.get j := by
  unfold Store.set
  split
  · rename_i h
    rw [Store.get_del]; split <;> simp_all
  · rw [Store.get_add _ _ _ _ (Store.not_mem_del st i), Store.get_del]
    split <;> simp_all

@[simp] theorem Store.get_set_self {w : Nat} (st : Store w) (i : Nat) (x : BitVec w) : (st.set i x).get i = x := by simp [Store.get_set]

theorem Store.get_set_ne {w : Nat} (st : Store w) {i j : Nat} (x : BitVec w) (h : i ≠ j) : (st.set i x).get j = st.get j := by simp [Store.get_set, h]

/-- Several writes leave every number they do not name. -/
theorem Store.get_setAll_ne {w : Nat} (ws : List (Nat × BitVec w)) (st : Store w) (j : Nat) (h : ∀ e ∈ ws, e.1 ≠ j) :
    (Store.setAll ws st).get j = st.get j := by
  induction ws generalizing st with
  | nil => rfl
  | cons e ws ih =>
    obtain ⟨i, x⟩ := e
    rw [Store.setAll, ih _ fun e he => h e (by simp [he]), Store.get_set_ne _ _ (h (i, x) (by simp))]

/-! ### The canonical form -/

/-- The form, in terms of the head. -/
theorem Store.wf_cons {w : Nat} (i : Nat) (v : BitVec w) (st : Store w) :
    Store.wf ((i, v) :: st) = true ↔ v ≠ 0 ∧ (∀ e ∈ st, i < e.1) ∧ st.wf = true := by
  induction st generalizing i v with
  | nil => simp [Store.wf]
  | cons e st ih =>
    obtain ⟨j, u⟩ := e
    simp only [Store.wf, Bool.and_eq_true, bne_iff_ne, ne_eq, decide_eq_true_eq, List.mem_cons, forall_eq_or_imp]
    constructor
    · rintro ⟨⟨hv, hij⟩, hw⟩
      exact ⟨hv, ⟨hij, fun e he => Nat.lt_trans hij (((ih j u).1 hw).2.1 e he)⟩, hw⟩
    · rintro ⟨hv, ⟨hij, _⟩, hw⟩
      exact ⟨⟨hv, hij⟩, hw⟩

theorem Store.mem_del {w : Nat} {st : Store w} {i : Nat} {e : Nat × BitVec w} (h : e ∈ st.del i) : e ∈ st := by
  induction st with
  | nil => simp [Store.del] at h
  | cons d st ih =>
    obtain ⟨k, v⟩ := d
    by_cases hk : k = i
    · simp only [Store.del, hk, if_true] at h
      exact List.mem_cons_of_mem _ (ih h)
    · simp only [Store.del, hk, if_false, List.mem_cons] at h
      rcases h with h | h
      · simp [h]
      · exact List.mem_cons_of_mem _ (ih h)

theorem Store.wf_del {w : Nat} (st : Store w) (i : Nat) (h : st.wf = true) : (st.del i).wf = true := by
  induction st with
  | nil => rfl
  | cons e st ih =>
    obtain ⟨k, v⟩ := e
    obtain ⟨hv, hl, hw⟩ := (Store.wf_cons k v st).1 h
    by_cases hk : k = i
    · simpa [Store.del, hk] using ih hw
    · simp only [Store.del, hk, if_false]
      exact (Store.wf_cons _ _ _).2 ⟨hv, fun e he => hl e (Store.mem_del he), ih hw⟩

theorem Store.mem_add {w : Nat} {st : Store w} {i : Nat} {x : BitVec w} {e : Nat × BitVec w} (h : e ∈ st.add i x) : e = (i, x) ∨ e ∈ st := by
  induction st with
  | nil => simpa [Store.add] using h
  | cons d st ih =>
    obtain ⟨k, v⟩ := d
    simp only [Store.add] at h
    split at h
    · simpa using h
    · rcases List.mem_cons.1 h with h | h
      · simp [h]
      · rcases ih h with h | h <;> simp [h]

theorem Store.wf_add {w : Nat} (st : Store w) (i : Nat) (x : BitVec w) (hx : x ≠ 0) (hne : ∀ e ∈ st, e.1 ≠ i) (h : st.wf = true) :
    (st.add i x).wf = true := by
  induction st with
  | nil => simpa [Store.add, Store.wf] using hx
  | cons e st ih =>
    obtain ⟨k, v⟩ := e
    obtain ⟨hv, hl, hw⟩ := (Store.wf_cons k v st).1 h
    simp only [Store.add]
    split
    · rename_i hik
      refine (Store.wf_cons _ _ _).2 ⟨hx, ?_, h⟩
      intro e he
      rcases List.mem_cons.1 he with rfl | he
      · exact hik
      · exact Nat.lt_trans hik (hl e he)
    · rename_i hik
      refine (Store.wf_cons _ _ _).2 ⟨hv, ?_, ih (fun e he => hne e (by simp [he])) hw⟩
      intro e he
      rcases Store.mem_add he with rfl | he
      · have := hne (k, v) (by simp)
        simp only at this ⊢
        omega
      · exact hl e he

/-- A write keeps the canonical form. -/
theorem Store.wf_set {w : Nat} (st : Store w) (i : Nat) (x : BitVec w) (h : st.wf = true) : (st.set i x).wf = true := by
  unfold Store.set
  split
  · exact Store.wf_del st i h
  · rename_i hx
    exact Store.wf_add _ _ _ hx (Store.not_mem_del st i) (Store.wf_del st i h)

theorem Store.wf_setAll {w : Nat} (ws : List (Nat × BitVec w)) (st : Store w) (h : st.wf = true) : (Store.setAll ws st).wf = true := by
  induction ws generalizing st with
  | nil => exact h
  | cons e ws ih => exact ih _ (Store.wf_set st e.1 e.2 h)

theorem Store.wf_keep {w : Nat} (st : Store w) (p : Nat → Bool) (h : st.wf = true) : (st.keep p).wf = true := by
  induction st with
  | nil => rfl
  | cons e st ih =>
    obtain ⟨k, v⟩ := e
    obtain ⟨hv, hl, hw⟩ := (Store.wf_cons k v st).1 h
    unfold Store.keep at ih ⊢
    rw [List.filter_cons]
    split
    · exact (Store.wf_cons _ _ _).2 ⟨hv, fun e he => hl e (List.mem_filter.1 he).1, ih hw⟩
    · exact ih hw

end Sys2Proof.Machine
end

