-- ==== Sys2Proof/Laws/Memory.lean ====
section
/-! SUPPORT. Device memory: what a write does to each byte, and that every operation keeps the canonical form. -/
namespace Sys2Proof.Machine

theorem reset_memWf : memWf State.reset.mem = true := rfl

/-! ### The canonical form -/

theorem pokes_memWf (m : List Host.Cell) (ws : List (Nat × Byte)) (h : memWf m = true) : memWf (pokes m ws) = true := Store.wf_setAll ws m h

theorem writeSys_memWf (s : State) (ws : List (Nat × Byte)) (h : memWf s.mem = true) : memWf (writeSys s ws).mem = true := pokes_memWf _ _ h

theorem writeSysAt_memWf (s : State) (pa : Nat) (bs : List Byte) (h : memWf s.mem = true) : memWf (writeSysAt s pa bs).mem = true := writeSys_memWf _ _ h

theorem writeScoped_memWf (s : State) (cid seq scope : Nat) (ws : List (Nat × Byte)) (h : memWf s.mem = true) : memWf (writeScoped s cid seq scope ws).mem = true := by
  unfold writeScoped
  split
  · exact writeSys_memWf s ws h
  · exact h

theorem settle_memWf (which : LimitedWrite → Bool) (ls : List LimitedWrite) (m : List Host.Cell) (h : memWf m = true) : memWf (settle which ls m).2 = true := by
  induction ls generalizing m with
  | nil => exact h
  | cons l ls ih =>
    simp only [settle]
    split
    · exact ih _ (pokes_memWf _ _ h)
    · split <;> exact ih _ h

theorem settleWhere_memWf (s : State) (which : LimitedWrite → Bool) (h : memWf s.mem = true) : memWf (settleWhere s which).mem = true := settle_memWf _ _ _ h

theorem settleAll_memWf (s : State) (cid : Nat) (h : memWf s.mem = true) : memWf (settleAll s cid).mem = true := settleWhere_memWf _ _ h

theorem settleSeen_memWf (s : State) (cid : Nat) (h : memWf s.mem = true) : memWf (settleSeen s cid).mem = true := by
  unfold settleSeen
  split
  · exact settleWhere_memWf _ _ h
  · exact h

/-! ### What settling leaves -/

/-- Settling takes writes out of the narrower ones, and adds and changes none. -/
theorem settle_sub (which : LimitedWrite → Bool) (ls : List LimitedWrite) (m : List Host.Cell) : ∀ l ∈ (settle which ls m).1, l ∈ ls ∧ which l = false := by
  induction ls generalizing m with
  | nil => simp [settle]
  | cons k ks ih =>
    intro l hl
    simp only [settle] at hl
    split at hl
    · exact ⟨List.mem_cons_of_mem _ (ih _ l hl).1, (ih _ l hl).2⟩
    · rename_i hk
      split at hl
      · exact ⟨List.mem_cons_of_mem _ (ih _ l hl).1, (ih _ l hl).2⟩
      · obtain rfl | hl := List.mem_cons.1 hl
        · exact ⟨List.mem_cons_self, by simpa using hk⟩
        · exact ⟨List.mem_cons_of_mem _ (ih _ l hl).1, (ih _ l hl).2⟩

/-- No write that a core has read of is left at a narrower scope. -/
theorem settleSeen_limited (s : State) (cid : Nat) : ∀ l ∈ (settleSeen s cid).limited, l ∈ s.limited ∧ l.seen.contains cid = false := by
  intro l hl
  unfold settleSeen at hl
  split at hl
  · exact settle_sub _ _ _ l hl
  · rename_i h
    exact ⟨hl, by simpa using fun hc => h (List.any_eq_true.2 ⟨l, hl, by simpa using hc⟩)⟩

/-- An acquire below system scope writes nothing. -/
theorem takeView_mem (s : State) (cid scope : Nat) (h : scope < 4) : (takeView s cid scope).2.mem = s.mem := by
  simp [takeView, Nat.not_le.2 h]

theorem takeView_memWf (s : State) (cid scope : Nat) (h : memWf s.mem = true) : memWf (takeView s cid scope).2.mem = true := by
  unfold takeView
  split
  · exact settleSeen_memWf _ _ h
  · exact h

/-- An acquire takes current memory at its scope as its own reads leave it. -/
theorem takeView_image (s : State) (cid scope : Nat) : (takeView s cid scope).1 = scopeImage (takeView s cid scope).2 (scopeOf cid scope) := rfl

/-! ### The images readers see -/

theorem devImage_memWf (s : State) (h : memWf s.mem = true) : memWf (devImage s) = true := pokes_memWf _ _ h
theorem homeImage_memWf (s : State) (h : memWf s.mem = true) : memWf (homeImage s) = true := pokes_memWf _ _ h
theorem engineView_memWf (s : State) (cid seq : Nat) (h : memWf s.mem = true) : memWf (engineView s cid seq) = true := pokes_memWf _ _ h
theorem scopeImage_memWf (s : State) (at_ : Nat × Nat) (h : memWf s.mem = true) : memWf (scopeImage s at_) = true := pokes_memWf _ _ h

/-- With no narrower write, every reader sees current memory. -/
theorem devImage_plain (s : State) (h : s.limited = []) : devImage s = s.mem := by simp [devImage, h, pokes, Store.setAll]
theorem homeImage_plain (s : State) (h : s.limited = []) : homeImage s = s.mem := by simp [homeImage, h, pokes, Store.setAll]

theorem keep_memWf (m : List Host.Cell) (p : Nat → Bool) (h : memWf m = true) : memWf (Store.keep (w := 8) m p) = true := Store.wf_keep m p h

/-! ### Bytes -/

@[simp] theorem peek_nil (pa : Nat) : peek [] pa = 0 := rfl

/-- A write leaves every byte that it does not name. -/
theorem peek_pokes_ne (m : List Host.Cell) (ws : List (Nat × Byte)) (a : Nat) (h : ∀ w ∈ ws, w.1 ≠ a) : peek (pokes m ws) a = peek m a :=
  Store.get_setAll_ne ws m a h

theorem keys_withKeys (i : Nat) (bs : List Byte) : ∀ w ∈ withKeys i bs, i ≤ w.1 ∧ w.1 < i + bs.length := by
  induction bs generalizing i with
  | nil => simp [withKeys]
  | cons b bs ih =>
    simp only [withKeys, List.mem_cons, forall_eq_or_imp, List.length_cons]
    refine ⟨by omega, fun w hw => ?_⟩
    have := ih (i + 1) w hw
    omega

/-- A write of consecutive bytes leaves every byte outside them. -/
theorem peek_writeSysAt_ne (s : State) (pa : Nat) (bs : List Byte) (a : Nat) (h : a < pa ∨ pa + bs.length ≤ a) :
    peek (writeSysAt s pa bs).mem a = peek s.mem a :=
  peek_pokes_ne _ _ _ fun w hw => by have := keys_withKeys pa bs w hw; omega

/-- The bytes written at consecutive addresses read as written. -/
theorem peek_pokes_withKeys (m : List Host.Cell) (pa : Nat) (bs : List Byte) (i : Nat) (hi : i < bs.length) :
    peek (pokes m (withKeys pa bs)) (pa + i) = bs[i] := by
  induction bs generalizing m pa i with
  | nil => simp at hi
  | cons b bs ih =>
    cases i with
    | zero =>
      show Store.get (Store.setAll (withKeys (pa + 1) bs) (Store.set m pa b)) pa = b
      rw [Store.get_setAll_ne _ _ _ fun w hw => by have := keys_withKeys (pa + 1) bs w hw; omega]
      simp
    | succ i =>
      have := ih (Store.set m pa b) (pa + 1) i (by simpa using hi)
      simpa [pokes, withKeys, Store.setAll, Nat.add_assoc, Nat.add_comm 1 i] using this

/-- What the host or a peer writes reads back. -/
theorem peek_writeSysAt (s : State) (pa : Nat) (bs : List Byte) (i : Nat) (hi : i < bs.length) : peek (writeSysAt s pa bs).mem (pa + i) = bs[i] :=
  peek_pokes_withKeys _ _ _ _ hi

end Sys2Proof.Machine
end

