-- ==== Sys2Proof/Laws/Scratch.lean ====
section
/-! SUPPORT. Window stores of a TICK group that has not completed: what is kept of them, and what taking them back or letting them stand leaves (R108, R374; log 15). -/
namespace Sys2Proof.Machine

/-- Of a list whose sender has been taken out nothing is that sender's. -/
theorem takeOut_sender {w : Nat} (me : Nat) (l : List (Replaced w)) : ∀ r ∈ (takeOut me l).1, r.sender ≠ me := by
  induction l with
  | nil => simp [takeOut]
  | cons x xs ih =>
    intro r hr
    simp only [takeOut] at hr
    split at hr
    · exact ih r hr
    · exact ih r hr
    · rename_i h
      rcases List.mem_cons.mp hr with rfl | hr
      · simpa using h
      · exact ih r hr
    · rename_i h
      rcases List.mem_cons.mp hr with rfl | hr
      · simpa using h
      · exact ih r hr

/-- Of a list whose sender's writes stand nothing is that sender's, nor at a place it has written since. -/
theorem letStand_sender {w : Nat} (me : Nat) (l : List (Replaced w)) : ∀ ks, ∀ r ∈ letStand me ks l, r.sender ≠ me ∧ r.key ∉ ks := by
  induction l with
  | nil => simp [letStand]
  | cons x xs ih =>
    intro ks r hr
    simp only [letStand] at hr
    split at hr
    · exact ⟨(ih _ r hr).1, fun h => (ih _ r hr).2 (List.mem_cons_of_mem _ h)⟩
    · split at hr
      · exact ih ks r hr
      · rename_i hx hk
        rcases List.mem_cons.mp hr with rfl | hr
        · exact ⟨hx, by simpa using hk⟩
        · exact ih ks r hr

/-- A write that stands leaves nothing to take back at its places, and what is kept elsewhere. -/
theorem mem_over_bytes (t : Tentative) (ws : List (Nat × Byte)) (r : Replaced 8) : r ∈ (t.over ws).bytes ↔ r ∈ t.bytes ∧ ∀ b, (r.key, b) ∉ ws := by
  simp only [Tentative.over, List.mem_filter, Bool.not_eq_true', List.any_eq_false, beq_iff_eq, Prod.forall, and_congr_right_iff]
  exact fun _ => ⟨fun h b hb => h r.key b hb rfl, fun h a b hab e => h b (e ▸ hab)⟩

@[simp] theorem over_empty (ws : List (Nat × Byte)) : Tentative.empty.over ws = Tentative.empty := rfl
@[simp] theorem writeOf_none (sp : Scratch) (ws : List (Nat × Byte)) : sp.writeOf none ws = sp.write ws := rfl

end Sys2Proof.Machine
end

