-- ==== Sys2Proof/Laws/State.lean ====
section
/-! SUPPORT. What each update of the state leaves as it was: one lemma for each field and update. -/
namespace Sys2Proof.Machine

/-! ### The core at turn changes -/

@[simp] theorem State.onCore_core (s : State) (f : StreamCore → StreamCore) : (s.onCore f).core = f s.core := rfl
@[simp] theorem State.onCore_cores (s : State) (f : StreamCore → StreamCore) : (s.onCore f).cores = s.cores := rfl
@[simp] theorem State.onCore_fns (s : State) (f : StreamCore → StreamCore) : (s.onCore f).fns = s.fns := rfl
@[simp] theorem State.onCore_fnTurn (s : State) (f : StreamCore → StreamCore) : (s.onCore f).fnTurn = s.fnTurn := rfl
@[simp] theorem State.onCore_mem (s : State) (f : StreamCore → StreamCore) : (s.onCore f).mem = s.mem := rfl
@[simp] theorem State.onCore_limited (s : State) (f : StreamCore → StreamCore) : (s.onCore f).limited = s.limited := rfl
@[simp] theorem State.onCore_scrub (s : State) (f : StreamCore → StreamCore) : (s.onCore f).scrub = s.scrub := rfl
@[simp] theorem State.onCore_scrubPages (s : State) (f : StreamCore → StreamCore) : (s.onCore f).scrubPages = s.scrubPages := rfl
@[simp] theorem State.onCore_dirbase (s : State) (f : StreamCore → StreamCore) : (s.onCore f).dirbase = s.dirbase := rfl
@[simp] theorem State.onCore_dirlen (s : State) (f : StreamCore → StreamCore) : (s.onCore f).dirlen = s.dirlen := rfl
@[simp] theorem State.onCore_expbase (s : State) (f : StreamCore → StreamCore) : (s.onCore f).expbase = s.expbase := rfl
@[simp] theorem State.onCore_explen (s : State) (f : StreamCore → StreamCore) : (s.onCore f).explen = s.explen := rfl
@[simp] theorem State.onCore_fabricRegs (s : State) (f : StreamCore → StreamCore) : (s.onCore f).fabricRegs = s.fabricRegs := rfl
@[simp] theorem State.onCore_dirCache (s : State) (f : StreamCore → StreamCore) : (s.onCore f).dirCache = s.dirCache := rfl
@[simp] theorem State.onCore_hostAtomics (s : State) (f : StreamCore → StreamCore) : (s.onCore f).hostAtomics = s.hostAtomics := rfl
@[simp] theorem State.onCore_poolAtomics (s : State) (f : StreamCore → StreamCore) : (s.onCore f).poolAtomics = s.poolAtomics := rfl
@[simp] theorem State.onCore_windows (s : State) (f : StreamCore → StreamCore) : (s.onCore f).windows = s.windows := rfl
@[simp] theorem State.onCore_exports (s : State) (f : StreamCore → StreamCore) : (s.onCore f).exports = s.exports := rfl
@[simp] theorem State.onCore_meas (s : State) (f : StreamCore → StreamCore) : (s.onCore f).meas = s.meas := rfl
@[simp] theorem State.onCore_firmware (s : State) (f : StreamCore → StreamCore) : (s.onCore f).firmware = s.firmware := rfl
@[simp] theorem State.onCore_clockStep (s : State) (f : StreamCore → StreamCore) : (s.onCore f).clockStep = s.clockStep := rfl
@[simp] theorem State.onCore_wall (s : State) (f : StreamCore → StreamCore) : (s.onCore f).wall = s.wall := rfl
@[simp] theorem State.onCore_turn (s : State) (f : StreamCore → StreamCore) : (s.onCore f).turn = s.turn := rfl
@[simp] theorem State.onCore_scrubNext (s : State) (f : StreamCore → StreamCore) : (s.onCore f).scrubNext = s.scrubNext := rfl
@[simp] theorem State.onCore_stamp (s : State) (f : StreamCore → StreamCore) : (s.onCore f).stamp = s.stamp := rfl
@[simp] theorem State.onCore_uid (s : State) (f : StreamCore → StreamCore) : (s.onCore f).uid = s.uid := rfl
@[simp] theorem State.onCore_inputs (s : State) (f : StreamCore → StreamCore) : (s.onCore f).inputs = s.inputs := rfl
@[simp] theorem State.onCore_outbox (s : State) (f : StreamCore → StreamCore) : (s.onCore f).outbox = s.outbox := rfl
@[simp] theorem State.onCore_draws (s : State) (f : StreamCore → StreamCore) : (s.onCore f).draws = s.draws := rfl

/-! ### Its sequencer changes -/

@[simp] theorem State.onPipe_pipe (s : State) (f : Pipe → Pipe) : (s.onPipe f).core.pipe = f s.core.pipe := rfl
@[simp] theorem State.onPipe_core_seat (s : State) (f : Pipe → Pipe) : (s.onPipe f).core.seat = s.core.seat := rfl
@[simp] theorem State.onPipe_core_regs (s : State) (f : Pipe → Pipe) : (s.onPipe f).core.regs = s.core.regs := rfl
@[simp] theorem State.onPipe_core_sys (s : State) (f : Pipe → Pipe) : (s.onPipe f).core.sys = s.core.sys := rfl
@[simp] theorem State.onPipe_core_wbuf (s : State) (f : Pipe → Pipe) : (s.onPipe f).core.wbuf = s.core.wbuf := rfl
@[simp] theorem State.onPipe_core_jobs (s : State) (f : Pipe → Pipe) : (s.onPipe f).core.jobs = s.core.jobs := rfl
@[simp] theorem State.onPipe_core_taps (s : State) (f : Pipe → Pipe) : (s.onPipe f).core.taps = s.core.taps := rfl
@[simp] theorem State.onPipe_core_tapBanks (s : State) (f : Pipe → Pipe) : (s.onPipe f).core.tapBanks = s.core.tapBanks := rfl
@[simp] theorem State.onPipe_core_sp (s : State) (f : Pipe → Pipe) : (s.onPipe f).core.sp = s.core.sp := rfl
@[simp] theorem State.onPipe_core_pool (s : State) (f : Pipe → Pipe) : (s.onPipe f).core.pool = s.core.pool := rfl
@[simp] theorem State.onPipe_core_dev (s : State) (f : Pipe → Pipe) : (s.onPipe f).core.dev = s.core.dev := rfl
@[simp] theorem State.onPipe_cores (s : State) (f : Pipe → Pipe) : (s.onPipe f).cores = s.cores := rfl
@[simp] theorem State.onPipe_fns (s : State) (f : Pipe → Pipe) : (s.onPipe f).fns = s.fns := rfl
@[simp] theorem State.onPipe_fnTurn (s : State) (f : Pipe → Pipe) : (s.onPipe f).fnTurn = s.fnTurn := rfl
@[simp] theorem State.onPipe_mem (s : State) (f : Pipe → Pipe) : (s.onPipe f).mem = s.mem := rfl
@[simp] theorem State.onPipe_limited (s : State) (f : Pipe → Pipe) : (s.onPipe f).limited = s.limited := rfl
@[simp] theorem State.onPipe_scrub (s : State) (f : Pipe → Pipe) : (s.onPipe f).scrub = s.scrub := rfl
@[simp] theorem State.onPipe_scrubPages (s : State) (f : Pipe → Pipe) : (s.onPipe f).scrubPages = s.scrubPages := rfl
@[simp] theorem State.onPipe_dirbase (s : State) (f : Pipe → Pipe) : (s.onPipe f).dirbase = s.dirbase := rfl
@[simp] theorem State.onPipe_dirlen (s : State) (f : Pipe → Pipe) : (s.onPipe f).dirlen = s.dirlen := rfl
@[simp] theorem State.onPipe_expbase (s : State) (f : Pipe → Pipe) : (s.onPipe f).expbase = s.expbase := rfl
@[simp] theorem State.onPipe_explen (s : State) (f : Pipe → Pipe) : (s.onPipe f).explen = s.explen := rfl
@[simp] theorem State.onPipe_fabricRegs (s : State) (f : Pipe → Pipe) : (s.onPipe f).fabricRegs = s.fabricRegs := rfl
@[simp] theorem State.onPipe_dirCache (s : State) (f : Pipe → Pipe) : (s.onPipe f).dirCache = s.dirCache := rfl
@[simp] theorem State.onPipe_hostAtomics (s : State) (f : Pipe → Pipe) : (s.onPipe f).hostAtomics = s.hostAtomics := rfl
@[simp] theorem State.onPipe_poolAtomics (s : State) (f : Pipe → Pipe) : (s.onPipe f).poolAtomics = s.poolAtomics := rfl
@[simp] theorem State.onPipe_windows (s : State) (f : Pipe → Pipe) : (s.onPipe f).windows = s.windows := rfl
@[simp] theorem State.onPipe_exports (s : State) (f : Pipe → Pipe) : (s.onPipe f).exports = s.exports := rfl
@[simp] theorem State.onPipe_meas (s : State) (f : Pipe → Pipe) : (s.onPipe f).meas = s.meas := rfl
@[simp] theorem State.onPipe_firmware (s : State) (f : Pipe → Pipe) : (s.onPipe f).firmware = s.firmware := rfl
@[simp] theorem State.onPipe_clockStep (s : State) (f : Pipe → Pipe) : (s.onPipe f).clockStep = s.clockStep := rfl
@[simp] theorem State.onPipe_wall (s : State) (f : Pipe → Pipe) : (s.onPipe f).wall = s.wall := rfl
@[simp] theorem State.onPipe_turn (s : State) (f : Pipe → Pipe) : (s.onPipe f).turn = s.turn := rfl
@[simp] theorem State.onPipe_scrubNext (s : State) (f : Pipe → Pipe) : (s.onPipe f).scrubNext = s.scrubNext := rfl
@[simp] theorem State.onPipe_stamp (s : State) (f : Pipe → Pipe) : (s.onPipe f).stamp = s.stamp := rfl
@[simp] theorem State.onPipe_uid (s : State) (f : Pipe → Pipe) : (s.onPipe f).uid = s.uid := rfl
@[simp] theorem State.onPipe_inputs (s : State) (f : Pipe → Pipe) : (s.onPipe f).inputs = s.inputs := rfl
@[simp] theorem State.onPipe_outbox (s : State) (f : Pipe → Pipe) : (s.onPipe f).outbox = s.outbox := rfl
@[simp] theorem State.onPipe_draws (s : State) (f : Pipe → Pipe) : (s.onPipe f).draws = s.draws := rfl

/-! ### A result goes in flight -/

@[simp] theorem State.fly_flights (s : State) (n : Nat) (e : Eff) :
    (s.fly n e).core.pipe.flights = s.core.pipe.flights ++ [{ due := s.core.pipe.cyc + n, seq := s.core.pipe.seq, eff := e, late := none }] := rfl
@[simp] theorem State.fly_pipe_pc (s : State) (n : Nat) (e : Eff) : (s.fly n e).core.pipe.pc = s.core.pipe.pc := rfl
@[simp] theorem State.fly_pipe_cyc (s : State) (n : Nat) (e : Eff) : (s.fly n e).core.pipe.cyc = s.core.pipe.cyc := rfl
@[simp] theorem State.fly_pipe_nextIssue (s : State) (n : Nat) (e : Eff) : (s.fly n e).core.pipe.nextIssue = s.core.pipe.nextIssue := rfl
@[simp] theorem State.fly_pipe_barrier (s : State) (n : Nat) (e : Eff) : (s.fly n e).core.pipe.barrier = s.core.pipe.barrier := rfl
@[simp] theorem State.fly_pipe_loadBarrier (s : State) (n : Nat) (e : Eff) : (s.fly n e).core.pipe.loadBarrier = s.core.pipe.loadBarrier := rfl
@[simp] theorem State.fly_pipe_partnerHeld (s : State) (n : Nat) (e : Eff) : (s.fly n e).core.pipe.partnerHeld = s.core.pipe.partnerHeld := rfl
@[simp] theorem State.fly_pipe_gpos (s : State) (n : Nat) (e : Eff) : (s.fly n e).core.pipe.gpos = s.core.pipe.gpos := rfl
@[simp] theorem State.fly_pipe_glen (s : State) (n : Nat) (e : Eff) : (s.fly n e).core.pipe.glen = s.core.pipe.glen := rfl
@[simp] theorem State.fly_pipe_mark (s : State) (n : Nat) (e : Eff) : (s.fly n e).core.pipe.mark = s.core.pipe.mark := rfl
@[simp] theorem State.fly_pipe_target (s : State) (n : Nat) (e : Eff) : (s.fly n e).core.pipe.target = s.core.pipe.target := rfl
@[simp] theorem State.fly_pipe_seq (s : State) (n : Nat) (e : Eff) : (s.fly n e).core.pipe.seq = s.core.pipe.seq := rfl
@[simp] theorem State.fly_pipe_held1 (s : State) (n : Nat) (e : Eff) : (s.fly n e).core.pipe.held1 = s.core.pipe.held1 := rfl
@[simp] theorem State.fly_pipe_held2 (s : State) (n : Nat) (e : Eff) : (s.fly n e).core.pipe.held2 = s.core.pipe.held2 := rfl
@[simp] theorem State.fly_pipe_fmtrPend (s : State) (n : Nat) (e : Eff) : (s.fly n e).core.pipe.fmtrPend = s.core.pipe.fmtrPend := rfl
@[simp] theorem State.fly_pipe_fmtrHeld1 (s : State) (n : Nat) (e : Eff) : (s.fly n e).core.pipe.fmtrHeld1 = s.core.pipe.fmtrHeld1 := rfl
@[simp] theorem State.fly_pipe_fmtrHeld2 (s : State) (n : Nat) (e : Eff) : (s.fly n e).core.pipe.fmtrHeld2 = s.core.pipe.fmtrHeld2 := rfl
@[simp] theorem State.fly_pipe_cache (s : State) (n : Nat) (e : Eff) : (s.fly n e).core.pipe.cache = s.core.pipe.cache := rfl
@[simp] theorem State.fly_pipe_reads (s : State) (n : Nat) (e : Eff) : (s.fly n e).core.pipe.reads = s.core.pipe.reads := rfl
@[simp] theorem State.fly_pipe_claimPaid (s : State) (n : Nat) (e : Eff) : (s.fly n e).core.pipe.claimPaid = s.core.pipe.claimPaid := rfl
@[simp] theorem State.fly_pipe_rebuilt (s : State) (n : Nat) (e : Eff) : (s.fly n e).core.pipe.rebuilt = s.core.pipe.rebuilt := rfl
@[simp] theorem State.fly_pipe_arrayFree (s : State) (n : Nat) (e : Eff) : (s.fly n e).core.pipe.arrayFree = s.core.pipe.arrayFree := rfl
@[simp] theorem State.fly_pipe_overflow (s : State) (n : Nat) (e : Eff) : (s.fly n e).core.pipe.overflow = s.core.pipe.overflow := rfl
@[simp] theorem State.fly_pipe_loop (s : State) (n : Nat) (e : Eff) : (s.fly n e).core.pipe.loop = s.core.pipe.loop := rfl
@[simp] theorem State.fly_pipe_frozenAt (s : State) (n : Nat) (e : Eff) : (s.fly n e).core.pipe.frozenAt = s.core.pipe.frozenAt := rfl
@[simp] theorem State.fly_pipe_timeout (s : State) (n : Nat) (e : Eff) : (s.fly n e).core.pipe.timeout = s.core.pipe.timeout := rfl
@[simp] theorem State.fly_pipe_fetchFail (s : State) (n : Nat) (e : Eff) : (s.fly n e).core.pipe.fetchFail = s.core.pipe.fetchFail := rfl
@[simp] theorem State.fly_pipe_after (s : State) (n : Nat) (e : Eff) : (s.fly n e).core.pipe.after = s.core.pipe.after := rfl
@[simp] theorem State.fly_pipe_ticks (s : State) (n : Nat) (e : Eff) : (s.fly n e).core.pipe.ticks = s.core.pipe.ticks := rfl
@[simp] theorem State.fly_pipe_back (s : State) (n : Nat) (e : Eff) : (s.fly n e).core.pipe.back = s.core.pipe.back := rfl
@[simp] theorem State.fly_pipe_tilesBefore (s : State) (n : Nat) (e : Eff) : (s.fly n e).core.pipe.tilesBefore = s.core.pipe.tilesBefore := rfl
@[simp] theorem State.fly_core_seat (s : State) (n : Nat) (e : Eff) : (s.fly n e).core.seat = s.core.seat := rfl
@[simp] theorem State.fly_core_regs (s : State) (n : Nat) (e : Eff) : (s.fly n e).core.regs = s.core.regs := rfl
@[simp] theorem State.fly_core_sys (s : State) (n : Nat) (e : Eff) : (s.fly n e).core.sys = s.core.sys := rfl
@[simp] theorem State.fly_core_wbuf (s : State) (n : Nat) (e : Eff) : (s.fly n e).core.wbuf = s.core.wbuf := rfl
@[simp] theorem State.fly_core_jobs (s : State) (n : Nat) (e : Eff) : (s.fly n e).core.jobs = s.core.jobs := rfl
@[simp] theorem State.fly_core_taps (s : State) (n : Nat) (e : Eff) : (s.fly n e).core.taps = s.core.taps := rfl
@[simp] theorem State.fly_core_tapBanks (s : State) (n : Nat) (e : Eff) : (s.fly n e).core.tapBanks = s.core.tapBanks := rfl
@[simp] theorem State.fly_core_sp (s : State) (n : Nat) (e : Eff) : (s.fly n e).core.sp = s.core.sp := rfl
@[simp] theorem State.fly_core_pool (s : State) (n : Nat) (e : Eff) : (s.fly n e).core.pool = s.core.pool := rfl
@[simp] theorem State.fly_core_dev (s : State) (n : Nat) (e : Eff) : (s.fly n e).core.dev = s.core.dev := rfl
@[simp] theorem State.fly_cores (s : State) (n : Nat) (e : Eff) : (s.fly n e).cores = s.cores := rfl
@[simp] theorem State.fly_fns (s : State) (n : Nat) (e : Eff) : (s.fly n e).fns = s.fns := rfl
@[simp] theorem State.fly_fnTurn (s : State) (n : Nat) (e : Eff) : (s.fly n e).fnTurn = s.fnTurn := rfl
@[simp] theorem State.fly_mem (s : State) (n : Nat) (e : Eff) : (s.fly n e).mem = s.mem := rfl
@[simp] theorem State.fly_limited (s : State) (n : Nat) (e : Eff) : (s.fly n e).limited = s.limited := rfl
@[simp] theorem State.fly_scrub (s : State) (n : Nat) (e : Eff) : (s.fly n e).scrub = s.scrub := rfl
@[simp] theorem State.fly_scrubPages (s : State) (n : Nat) (e : Eff) : (s.fly n e).scrubPages = s.scrubPages := rfl
@[simp] theorem State.fly_dirbase (s : State) (n : Nat) (e : Eff) : (s.fly n e).dirbase = s.dirbase := rfl
@[simp] theorem State.fly_dirlen (s : State) (n : Nat) (e : Eff) : (s.fly n e).dirlen = s.dirlen := rfl
@[simp] theorem State.fly_expbase (s : State) (n : Nat) (e : Eff) : (s.fly n e).expbase = s.expbase := rfl
@[simp] theorem State.fly_explen (s : State) (n : Nat) (e : Eff) : (s.fly n e).explen = s.explen := rfl
@[simp] theorem State.fly_fabricRegs (s : State) (n : Nat) (e : Eff) : (s.fly n e).fabricRegs = s.fabricRegs := rfl
@[simp] theorem State.fly_dirCache (s : State) (n : Nat) (e : Eff) : (s.fly n e).dirCache = s.dirCache := rfl
@[simp] theorem State.fly_hostAtomics (s : State) (n : Nat) (e : Eff) : (s.fly n e).hostAtomics = s.hostAtomics := rfl
@[simp] theorem State.fly_poolAtomics (s : State) (n : Nat) (e : Eff) : (s.fly n e).poolAtomics = s.poolAtomics := rfl
@[simp] theorem State.fly_windows (s : State) (n : Nat) (e : Eff) : (s.fly n e).windows = s.windows := rfl
@[simp] theorem State.fly_exports (s : State) (n : Nat) (e : Eff) : (s.fly n e).exports = s.exports := rfl
@[simp] theorem State.fly_meas (s : State) (n : Nat) (e : Eff) : (s.fly n e).meas = s.meas := rfl
@[simp] theorem State.fly_firmware (s : State) (n : Nat) (e : Eff) : (s.fly n e).firmware = s.firmware := rfl
@[simp] theorem State.fly_clockStep (s : State) (n : Nat) (e : Eff) : (s.fly n e).clockStep = s.clockStep := rfl
@[simp] theorem State.fly_wall (s : State) (n : Nat) (e : Eff) : (s.fly n e).wall = s.wall := rfl
@[simp] theorem State.fly_turn (s : State) (n : Nat) (e : Eff) : (s.fly n e).turn = s.turn := rfl
@[simp] theorem State.fly_scrubNext (s : State) (n : Nat) (e : Eff) : (s.fly n e).scrubNext = s.scrubNext := rfl
@[simp] theorem State.fly_stamp (s : State) (n : Nat) (e : Eff) : (s.fly n e).stamp = s.stamp := rfl
@[simp] theorem State.fly_uid (s : State) (n : Nat) (e : Eff) : (s.fly n e).uid = s.uid := rfl
@[simp] theorem State.fly_inputs (s : State) (n : Nat) (e : Eff) : (s.fly n e).inputs = s.inputs := rfl
@[simp] theorem State.fly_outbox (s : State) (n : Nat) (e : Eff) : (s.fly n e).outbox = s.outbox := rfl
@[simp] theorem State.fly_draws (s : State) (n : Nat) (e : Eff) : (s.fly n e).draws = s.draws := rfl

/-! ### A core named by its number changes -/

@[simp] theorem onCore_fns (s : State) (cid : Nat) (f : StreamCore → StreamCore) : (onCore s cid f).fns = s.fns := by unfold onCore; split <;> rfl
@[simp] theorem onCore_fnTurn (s : State) (cid : Nat) (f : StreamCore → StreamCore) : (onCore s cid f).fnTurn = s.fnTurn := by unfold onCore; split <;> rfl
@[simp] theorem onCore_mem (s : State) (cid : Nat) (f : StreamCore → StreamCore) : (onCore s cid f).mem = s.mem := by unfold onCore; split <;> rfl
@[simp] theorem onCore_limited (s : State) (cid : Nat) (f : StreamCore → StreamCore) : (onCore s cid f).limited = s.limited := by unfold onCore; split <;> rfl
@[simp] theorem onCore_scrub (s : State) (cid : Nat) (f : StreamCore → StreamCore) : (onCore s cid f).scrub = s.scrub := by unfold onCore; split <;> rfl
@[simp] theorem onCore_scrubPages (s : State) (cid : Nat) (f : StreamCore → StreamCore) : (onCore s cid f).scrubPages = s.scrubPages := by unfold onCore; split <;> rfl
@[simp] theorem onCore_dirbase (s : State) (cid : Nat) (f : StreamCore → StreamCore) : (onCore s cid f).dirbase = s.dirbase := by unfold onCore; split <;> rfl
@[simp] theorem onCore_dirlen (s : State) (cid : Nat) (f : StreamCore → StreamCore) : (onCore s cid f).dirlen = s.dirlen := by unfold onCore; split <;> rfl
@[simp] theorem onCore_expbase (s : State) (cid : Nat) (f : StreamCore → StreamCore) : (onCore s cid f).expbase = s.expbase := by unfold onCore; split <;> rfl
@[simp] theorem onCore_explen (s : State) (cid : Nat) (f : StreamCore → StreamCore) : (onCore s cid f).explen = s.explen := by unfold onCore; split <;> rfl
@[simp] theorem onCore_fabricRegs (s : State) (cid : Nat) (f : StreamCore → StreamCore) : (onCore s cid f).fabricRegs = s.fabricRegs := by unfold onCore; split <;> rfl
@[simp] theorem onCore_dirCache (s : State) (cid : Nat) (f : StreamCore → StreamCore) : (onCore s cid f).dirCache = s.dirCache := by unfold onCore; split <;> rfl
@[simp] theorem onCore_hostAtomics (s : State) (cid : Nat) (f : StreamCore → StreamCore) : (onCore s cid f).hostAtomics = s.hostAtomics := by unfold onCore; split <;> rfl
@[simp] theorem onCore_poolAtomics (s : State) (cid : Nat) (f : StreamCore → StreamCore) : (onCore s cid f).poolAtomics = s.poolAtomics := by unfold onCore; split <;> rfl
@[simp] theorem onCore_windows (s : State) (cid : Nat) (f : StreamCore → StreamCore) : (onCore s cid f).windows = s.windows := by unfold onCore; split <;> rfl
@[simp] theorem onCore_exports (s : State) (cid : Nat) (f : StreamCore → StreamCore) : (onCore s cid f).exports = s.exports := by unfold onCore; split <;> rfl
@[simp] theorem onCore_meas (s : State) (cid : Nat) (f : StreamCore → StreamCore) : (onCore s cid f).meas = s.meas := by unfold onCore; split <;> rfl
@[simp] theorem onCore_firmware (s : State) (cid : Nat) (f : StreamCore → StreamCore) : (onCore s cid f).firmware = s.firmware := by unfold onCore; split <;> rfl
@[simp] theorem onCore_clockStep (s : State) (cid : Nat) (f : StreamCore → StreamCore) : (onCore s cid f).clockStep = s.clockStep := by unfold onCore; split <;> rfl
@[simp] theorem onCore_wall (s : State) (cid : Nat) (f : StreamCore → StreamCore) : (onCore s cid f).wall = s.wall := by unfold onCore; split <;> rfl
@[simp] theorem onCore_turn (s : State) (cid : Nat) (f : StreamCore → StreamCore) : (onCore s cid f).turn = s.turn := by unfold onCore; split <;> rfl
@[simp] theorem onCore_scrubNext (s : State) (cid : Nat) (f : StreamCore → StreamCore) : (onCore s cid f).scrubNext = s.scrubNext := by unfold onCore; split <;> rfl
@[simp] theorem onCore_stamp (s : State) (cid : Nat) (f : StreamCore → StreamCore) : (onCore s cid f).stamp = s.stamp := by unfold onCore; split <;> rfl
@[simp] theorem onCore_uid (s : State) (cid : Nat) (f : StreamCore → StreamCore) : (onCore s cid f).uid = s.uid := by unfold onCore; split <;> rfl
@[simp] theorem onCore_inputs (s : State) (cid : Nat) (f : StreamCore → StreamCore) : (onCore s cid f).inputs = s.inputs := by unfold onCore; split <;> rfl
@[simp] theorem onCore_outbox (s : State) (cid : Nat) (f : StreamCore → StreamCore) : (onCore s cid f).outbox = s.outbox := by unfold onCore; split <;> rfl
@[simp] theorem onCore_draws (s : State) (cid : Nat) (f : StreamCore → StreamCore) : (onCore s cid f).draws = s.draws := by unfold onCore; split <;> rfl

/-! ### Every core changes -/

@[simp] theorem onCores_fns (s : State) (f : StreamCore → StreamCore) : (onCores s f).fns = s.fns := rfl
@[simp] theorem onCores_fnTurn (s : State) (f : StreamCore → StreamCore) : (onCores s f).fnTurn = s.fnTurn := rfl
@[simp] theorem onCores_mem (s : State) (f : StreamCore → StreamCore) : (onCores s f).mem = s.mem := rfl
@[simp] theorem onCores_limited (s : State) (f : StreamCore → StreamCore) : (onCores s f).limited = s.limited := rfl
@[simp] theorem onCores_scrub (s : State) (f : StreamCore → StreamCore) : (onCores s f).scrub = s.scrub := rfl
@[simp] theorem onCores_scrubPages (s : State) (f : StreamCore → StreamCore) : (onCores s f).scrubPages = s.scrubPages := rfl
@[simp] theorem onCores_dirbase (s : State) (f : StreamCore → StreamCore) : (onCores s f).dirbase = s.dirbase := rfl
@[simp] theorem onCores_dirlen (s : State) (f : StreamCore → StreamCore) : (onCores s f).dirlen = s.dirlen := rfl
@[simp] theorem onCores_expbase (s : State) (f : StreamCore → StreamCore) : (onCores s f).expbase = s.expbase := rfl
@[simp] theorem onCores_explen (s : State) (f : StreamCore → StreamCore) : (onCores s f).explen = s.explen := rfl
@[simp] theorem onCores_fabricRegs (s : State) (f : StreamCore → StreamCore) : (onCores s f).fabricRegs = s.fabricRegs := rfl
@[simp] theorem onCores_dirCache (s : State) (f : StreamCore → StreamCore) : (onCores s f).dirCache = s.dirCache := rfl
@[simp] theorem onCores_hostAtomics (s : State) (f : StreamCore → StreamCore) : (onCores s f).hostAtomics = s.hostAtomics := rfl
@[simp] theorem onCores_poolAtomics (s : State) (f : StreamCore → StreamCore) : (onCores s f).poolAtomics = s.poolAtomics := rfl
@[simp] theorem onCores_windows (s : State) (f : StreamCore → StreamCore) : (onCores s f).windows = s.windows := rfl
@[simp] theorem onCores_exports (s : State) (f : StreamCore → StreamCore) : (onCores s f).exports = s.exports := rfl
@[simp] theorem onCores_meas (s : State) (f : StreamCore → StreamCore) : (onCores s f).meas = s.meas := rfl
@[simp] theorem onCores_firmware (s : State) (f : StreamCore → StreamCore) : (onCores s f).firmware = s.firmware := rfl
@[simp] theorem onCores_clockStep (s : State) (f : StreamCore → StreamCore) : (onCores s f).clockStep = s.clockStep := rfl
@[simp] theorem onCores_wall (s : State) (f : StreamCore → StreamCore) : (onCores s f).wall = s.wall := rfl
@[simp] theorem onCores_turn (s : State) (f : StreamCore → StreamCore) : (onCores s f).turn = s.turn := rfl
@[simp] theorem onCores_scrubNext (s : State) (f : StreamCore → StreamCore) : (onCores s f).scrubNext = s.scrubNext := rfl
@[simp] theorem onCores_stamp (s : State) (f : StreamCore → StreamCore) : (onCores s f).stamp = s.stamp := rfl
@[simp] theorem onCores_uid (s : State) (f : StreamCore → StreamCore) : (onCores s f).uid = s.uid := rfl
@[simp] theorem onCores_inputs (s : State) (f : StreamCore → StreamCore) : (onCores s f).inputs = s.inputs := rfl
@[simp] theorem onCores_outbox (s : State) (f : StreamCore → StreamCore) : (onCores s f).outbox = s.outbox := rfl
@[simp] theorem onCores_draws (s : State) (f : StreamCore → StreamCore) : (onCores s f).draws = s.draws := rfl

/-! ### A function or a task changes -/

@[simp] theorem onFn_core (s : State) (n : Nat) (f : Func → Func) : (onFn s n f).core = s.core := rfl
@[simp] theorem onTask_core (s : State) (n t : Nat) (f : Task → Task) : (onTask s n t f).core = s.core := rfl
@[simp] theorem onFn_cores (s : State) (n : Nat) (f : Func → Func) : (onFn s n f).cores = s.cores := rfl
@[simp] theorem onTask_cores (s : State) (n t : Nat) (f : Task → Task) : (onTask s n t f).cores = s.cores := rfl
@[simp] theorem onFn_fnTurn (s : State) (n : Nat) (f : Func → Func) : (onFn s n f).fnTurn = s.fnTurn := rfl
@[simp] theorem onTask_fnTurn (s : State) (n t : Nat) (f : Task → Task) : (onTask s n t f).fnTurn = s.fnTurn := rfl
@[simp] theorem onFn_mem (s : State) (n : Nat) (f : Func → Func) : (onFn s n f).mem = s.mem := rfl
@[simp] theorem onTask_mem (s : State) (n t : Nat) (f : Task → Task) : (onTask s n t f).mem = s.mem := rfl
@[simp] theorem onFn_limited (s : State) (n : Nat) (f : Func → Func) : (onFn s n f).limited = s.limited := rfl
@[simp] theorem onTask_limited (s : State) (n t : Nat) (f : Task → Task) : (onTask s n t f).limited = s.limited := rfl
@[simp] theorem onFn_scrub (s : State) (n : Nat) (f : Func → Func) : (onFn s n f).scrub = s.scrub := rfl
@[simp] theorem onTask_scrub (s : State) (n t : Nat) (f : Task → Task) : (onTask s n t f).scrub = s.scrub := rfl
@[simp] theorem onFn_scrubPages (s : State) (n : Nat) (f : Func → Func) : (onFn s n f).scrubPages = s.scrubPages := rfl
@[simp] theorem onTask_scrubPages (s : State) (n t : Nat) (f : Task → Task) : (onTask s n t f).scrubPages = s.scrubPages := rfl
@[simp] theorem onFn_dirbase (s : State) (n : Nat) (f : Func → Func) : (onFn s n f).dirbase = s.dirbase := rfl
@[simp] theorem onTask_dirbase (s : State) (n t : Nat) (f : Task → Task) : (onTask s n t f).dirbase = s.dirbase := rfl
@[simp] theorem onFn_dirlen (s : State) (n : Nat) (f : Func → Func) : (onFn s n f).dirlen = s.dirlen := rfl
@[simp] theorem onTask_dirlen (s : State) (n t : Nat) (f : Task → Task) : (onTask s n t f).dirlen = s.dirlen := rfl
@[simp] theorem onFn_expbase (s : State) (n : Nat) (f : Func → Func) : (onFn s n f).expbase = s.expbase := rfl
@[simp] theorem onTask_expbase (s : State) (n t : Nat) (f : Task → Task) : (onTask s n t f).expbase = s.expbase := rfl
@[simp] theorem onFn_explen (s : State) (n : Nat) (f : Func → Func) : (onFn s n f).explen = s.explen := rfl
@[simp] theorem onTask_explen (s : State) (n t : Nat) (f : Task → Task) : (onTask s n t f).explen = s.explen := rfl
@[simp] theorem onFn_fabricRegs (s : State) (n : Nat) (f : Func → Func) : (onFn s n f).fabricRegs = s.fabricRegs := rfl
@[simp] theorem onTask_fabricRegs (s : State) (n t : Nat) (f : Task → Task) : (onTask s n t f).fabricRegs = s.fabricRegs := rfl
@[simp] theorem onFn_dirCache (s : State) (n : Nat) (f : Func → Func) : (onFn s n f).dirCache = s.dirCache := rfl
@[simp] theorem onTask_dirCache (s : State) (n t : Nat) (f : Task → Task) : (onTask s n t f).dirCache = s.dirCache := rfl
@[simp] theorem onFn_hostAtomics (s : State) (n : Nat) (f : Func → Func) : (onFn s n f).hostAtomics = s.hostAtomics := rfl
@[simp] theorem onTask_hostAtomics (s : State) (n t : Nat) (f : Task → Task) : (onTask s n t f).hostAtomics = s.hostAtomics := rfl
@[simp] theorem onFn_poolAtomics (s : State) (n : Nat) (f : Func → Func) : (onFn s n f).poolAtomics = s.poolAtomics := rfl
@[simp] theorem onTask_poolAtomics (s : State) (n t : Nat) (f : Task → Task) : (onTask s n t f).poolAtomics = s.poolAtomics := rfl
@[simp] theorem onFn_windows (s : State) (n : Nat) (f : Func → Func) : (onFn s n f).windows = s.windows := rfl
@[simp] theorem onTask_windows (s : State) (n t : Nat) (f : Task → Task) : (onTask s n t f).windows = s.windows := rfl
@[simp] theorem onFn_exports (s : State) (n : Nat) (f : Func → Func) : (onFn s n f).exports = s.exports := rfl
@[simp] theorem onTask_exports (s : State) (n t : Nat) (f : Task → Task) : (onTask s n t f).exports = s.exports := rfl
@[simp] theorem onFn_meas (s : State) (n : Nat) (f : Func → Func) : (onFn s n f).meas = s.meas := rfl
@[simp] theorem onTask_meas (s : State) (n t : Nat) (f : Task → Task) : (onTask s n t f).meas = s.meas := rfl
@[simp] theorem onFn_firmware (s : State) (n : Nat) (f : Func → Func) : (onFn s n f).firmware = s.firmware := rfl
@[simp] theorem onTask_firmware (s : State) (n t : Nat) (f : Task → Task) : (onTask s n t f).firmware = s.firmware := rfl
@[simp] theorem onFn_clockStep (s : State) (n : Nat) (f : Func → Func) : (onFn s n f).clockStep = s.clockStep := rfl
@[simp] theorem onTask_clockStep (s : State) (n t : Nat) (f : Task → Task) : (onTask s n t f).clockStep = s.clockStep := rfl
@[simp] theorem onFn_wall (s : State) (n : Nat) (f : Func → Func) : (onFn s n f).wall = s.wall := rfl
@[simp] theorem onTask_wall (s : State) (n t : Nat) (f : Task → Task) : (onTask s n t f).wall = s.wall := rfl
@[simp] theorem onFn_turn (s : State) (n : Nat) (f : Func → Func) : (onFn s n f).turn = s.turn := rfl
@[simp] theorem onTask_turn (s : State) (n t : Nat) (f : Task → Task) : (onTask s n t f).turn = s.turn := rfl
@[simp] theorem onFn_scrubNext (s : State) (n : Nat) (f : Func → Func) : (onFn s n f).scrubNext = s.scrubNext := rfl
@[simp] theorem onTask_scrubNext (s : State) (n t : Nat) (f : Task → Task) : (onTask s n t f).scrubNext = s.scrubNext := rfl
@[simp] theorem onFn_stamp (s : State) (n : Nat) (f : Func → Func) : (onFn s n f).stamp = s.stamp := rfl
@[simp] theorem onTask_stamp (s : State) (n t : Nat) (f : Task → Task) : (onTask s n t f).stamp = s.stamp := rfl
@[simp] theorem onFn_uid (s : State) (n : Nat) (f : Func → Func) : (onFn s n f).uid = s.uid := rfl
@[simp] theorem onTask_uid (s : State) (n t : Nat) (f : Task → Task) : (onTask s n t f).uid = s.uid := rfl
@[simp] theorem onFn_inputs (s : State) (n : Nat) (f : Func → Func) : (onFn s n f).inputs = s.inputs := rfl
@[simp] theorem onTask_inputs (s : State) (n t : Nat) (f : Task → Task) : (onTask s n t f).inputs = s.inputs := rfl
@[simp] theorem onFn_outbox (s : State) (n : Nat) (f : Func → Func) : (onFn s n f).outbox = s.outbox := rfl
@[simp] theorem onTask_outbox (s : State) (n t : Nat) (f : Task → Task) : (onTask s n t f).outbox = s.outbox := rfl
@[simp] theorem onFn_draws (s : State) (n : Nat) (f : Func → Func) : (onFn s n f).draws = s.draws := rfl
@[simp] theorem onTask_draws (s : State) (n t : Nat) (f : Task → Task) : (onTask s n t f).draws = s.draws := rfl

end Sys2Proof.Machine
end

