-- ==== Sys2Proof/Laws/Translate.lean ====
section
/-! SUPPORT. What a translation depends on: where no cached walk holds anything older than memory and no directory is set up, on no free choice; and what a walk made again and an invalidation of KIND 3 leave as it was (R71, R76). -/
namespace Sys2Proof.Machine

/-- With a directory of no entry no pooled segment has an owner, whatever a base die caches. -/
theorem dirEntry_empty (s : State) (pick pa : Nat) (h : nth s.fabricRegs 1 0 = 0) : dirEntry s pick pa = 0 := by simp [dirEntry, h]

theorem unowned_empty (s : State) (pick pa : Nat) (h : nth s.fabricRegs 1 0 = 0) : unowned s pick pa = unowned s 0 pa := by simp [unowned, dirEntry_empty, h]

theorem routed_empty (s : State) (pick : Nat) (h : nth s.fabricRegs 1 0 = 0) : routed s pick = routed s 0 := by
  funext pa; simp [routed, dirEntry_empty, h]

theorem translate_current (s : State) (f : Func) (pick va : Nat) (h : nth s.fabricRegs 1 0 = 0) (hw : f.walkOld = devImage s) :
    translate s f pick va = translate s f 0 va := by
  simp only [translate, routed_empty s pick h, hw, ite_self]

theorem readVirtByte_current (f : Func) (task : Nat) (lazy_ : Option Resolution) (pick va : Nat) (s : State) (h : nth s.fabricRegs 1 0 = 0) (hw : f.walkOld = devImage s) :
    readVirtByte f task lazy_ pick va s = readVirtByte f task lazy_ 0 va s := by
  simp only [readVirtByte, translate_current s f pick va h hw, routed_empty s pick h, unowned_empty s pick _ h]

/-- A read of bytes each of which changes nothing gives those bytes. -/
theorem readVirt_of_bytes (f : Func) (task : Nat) (lazy_ : Option Resolution) (pick : Nat) (s : State) (b : Nat → Byte) (n va : Nat)
    (h : ∀ i, i < n → readVirtByte f task lazy_ pick (va + i) s = (.ok [b (va + i)], s)) :
    readVirt f task lazy_ pick va n s = (.ok ((List.range n).map fun i => b (va + i)), s) := by
  induction n generalizing va with
  | zero => rfl
  | succ n ih =>
    have h0 := h 0 (by omega)
    simp only [Nat.add_zero] at h0
    have := ih (va + 1) fun i hi => by have := h (i + 1) (by omega); simpa [Nat.add_assoc, Nat.add_comm 1 i] using this
    rw [readVirt, h0]
    simp only [this, List.range_succ_eq_map, List.map_cons, List.map_map, Nat.add_zero, List.singleton_append]
    simp [Function.comp_def, Nat.add_assoc, Nat.add_comm 1]

/-- What beginning to walk a run again changes: one free value is used up, and the core has that walk under way; memory stays as it is (R71). -/
@[simp] theorem startWalk_mem (s : State) (cid : Nat) (r : Run) : (startWalk s cid r).mem = s.mem := by
  unfold startWalk onCore draw
  dsimp only
  split <;> rfl
@[simp] theorem startWalk_fns (s : State) (cid : Nat) (r : Run) : (startWalk s cid r).fns = s.fns := by
  unfold startWalk onCore draw
  dsimp only
  split <;> rfl
@[simp] theorem startWalk_draws (s : State) (cid : Nat) (r : Run) : (startWalk s cid r).draws = s.draws + 1 := by
  unfold startWalk onCore draw
  dsimp only
  split <;> rfl

/-- An invalidation of KIND 3 refreshes what is cached of the directory and the export table, and writes nothing (R76). -/
@[simp] theorem refreshFabric_mem (s : State) (regs : List Nat) (v : Inval) : (refreshFabric s regs v).mem = s.mem := rfl
@[simp] theorem refreshFabric_fns (s : State) (regs : List Nat) (v : Inval) : (refreshFabric s regs v).fns = s.fns := rfl

end Sys2Proof.Machine
end

