-- ==== Sys2Proof/Tests/Slice0.lean ====
section
/-! SUPPORT. Tests: words written out from the encodings of R167, R183 and R364, ill-formed terms, worked examples of the manual, and witnesses of the statements' hypotheses. -/
set_option Elab.async false
namespace Sys2Proof.Tests
open Sys2Proof Sys2Proof.Machine

/-! ### Operands, in the order of R183 -/

/-- The header of the last syllable of a group: STALL, SBV, SBI, CMASK, FMT. -/
def hd (stall sbv sbi cmask fmt : Nat) : Hdr :=
  { stop := true, stall := BitVec.ofNat 4 stall, sbv := sbv == 1, sbi := BitVec.ofNat 3 sbi, sbwait := 0, reuse := 0, cmask := BitVec.ofNat 8 cmask, fmt := BitVec.ofNat 8 fmt }
def rg (d a b c sub bsel km imm : Nat) : LReg :=
  { d := BitVec.ofNat 6 d, a := BitVec.ofNat 6 a, b := BitVec.ofNat 6 b, c := BitVec.ofNat 6 c, sub := BitVec.ofNat 4 sub, bsel := BitVec.ofNat 2 bsel, km := BitVec.ofNat 3 km, rsv := 0, imm := BitVec.ofNat 40 imm }
def wd (d imm : Nat) : LWide := { d := BitVec.ofNat 6 d, rsv := 0, imm64 := BitVec.ofNat 64 imm }
def tp (d sig vec lr lreg lag lagb : Nat) : LTap :=
  { d := BitVec.ofNat 6 d, sig := BitVec.ofNat 8 sig, vec := BitVec.ofNat 3 vec, lr := lr == 1, lreg := BitVec.ofNat 6 lreg, lag := BitVec.ofNat 16 lag, lagb := BitVec.ofNat 16 lagb, rsv := 0 }
def mm (d rcd offm o km nest imm : Nat) : LMem :=
  { d := BitVec.ofNat 6 d, rcd := BitVec.ofNat 8 rcd, offm := BitVec.ofNat 2 offm, o := BitVec.ofNat 6 o, km := BitVec.ofNat 3 km, nest := BitVec.ofNat 8 nest, imm23 := BitVec.ofNat 23 imm, rsv := 0 }
def sl (sc a rcd o imm : Nat) : LScl :=
  { sc := BitVec.ofNat 4 sc, a := BitVec.ofNat 6 a, rcd := BitVec.ofNat 8 rcd, o := BitVec.ofNat 6 o, imm23 := BitVec.ofNat 23 imm, rsv := 0 }
def ar (mt srck rcd o imm kst bfmt sc ms : Nat) : LArr :=
  { mt := BitVec.ofNat 2 mt, srck := BitVec.ofNat 2 srck, rcd := BitVec.ofNat 8 rcd, o := BitVec.ofNat 6 o, imm23 := BitVec.ofNat 23 imm, kst := BitVec.ofNat 8 kst, bfmt := BitVec.ofNat 6 bfmt, sc := BitVec.ofNat 4 sc, ms := BitVec.ofNat 2 ms, rsv := 0 }
def em (d a b o x scope ord sz pr sub imm : Nat) : LEmem :=
  { d := BitVec.ofNat 6 d, a := BitVec.ofNat 6 a, b := BitVec.ofNat 6 b, o := BitVec.ofNat 6 o, x := BitVec.ofNat 4 x, scope := BitVec.ofNat 3 scope, ord := BitVec.ofNat 2 ord, sz := BitVec.ofNat 3 sz, pr := pr == 1, sub := BitVec.ofNat 4 sub, rsv := 0, imm24 := BitVec.ofNat 24 imm }
def ec (a b c rec1 rec2 x tp tc0 tc1 tc2 tcv sub : Nat) : LEcmd :=
  { a := BitVec.ofNat 6 a, b := BitVec.ofNat 6 b, c := BitVec.ofNat 6 c, rec1 := BitVec.ofNat 8 rec1, rec2 := BitVec.ofNat 8 rec2, x := BitVec.ofNat 4 x, tp := BitVec.ofNat 6 tp, tc0 := BitVec.ofNat 6 tc0, tc1 := BitVec.ofNat 6 tc1, tc2 := BitVec.ofNat 6 tc2, tcv := BitVec.ofNat 3 tcv, sub := BitVec.ofNat 4 sub, rsv := 0 }

/-! ### Words written out from R167, R183 and R186, a class at a time -/

/-- Does the word decode to the instruction? -/
def decodesTo (p : Syllable × Instr) : Bool :=
  match decodeSyllable p.1 with
  | .ok i => decide (i = p.2)
  | .error _ => false

def wordsSa : List (Syllable × Instr) :=
  [(0x8000000000190C414000000000000000, .sAdd (hd 0 0 0 0 25) (rg 3 4 5 0 0 0 0 0)),
   (0x8008000000190C414000000000000000, .sSub (hd 0 0 0 0 25) (rg 3 4 5 0 0 0 0 0)),
   (0x8010000000190C414000000000000000, .sMul (hd 0 0 0 0 25) (rg 3 4 5 0 0 0 0 0)),
   (0x80180000002C84400008008000000123, .sMulh (hd 0 0 0 0 44) (rg 33 4 0 0 0 2 0 0x8000000123)),
   (0x8020000000190C414000000000000000, .sDiv (hd 0 0 0 0 25) (rg 3 4 5 0 0 0 0 0)),
   (0x80280000002C84400008008000000123, .sRem (hd 0 0 0 0 44) (rg 33 4 0 0 0 2 0 0x8000000123)),
   (0x80300000002C84400008008000000123, .sMin (hd 0 0 0 0 44) (rg 33 4 0 0 0 2 0 0x8000000123)),
   (0x80380000002C84400008008000000123, .sMax (hd 0 0 0 0 44) (rg 33 4 0 0 0 2 0 0x8000000123)),
   (0x8040000000000FF00008008000000123, .sAnd (hd 0 0 0 0 0) (rg 3 63 0 0 0 2 0 0x8000000123)),
   (0x8048000000000FF00008008000000123, .sOr (hd 0 0 0 0 0) (rg 3 63 0 0 0 2 0 0x8000000123)),
   (0x8050000000000FF00008008000000123, .sXor (hd 0 0 0 0 0) (rg 3 63 0 0 0 2 0 0x8000000123)),
   (0x8058000000000FF00008008000000123, .sAndn (hd 0 0 0 0 0) (rg 3 63 0 0 0 2 0 0x8000000123)),
   (0x80600000002C84400008008000000123, .sShl (hd 0 0 0 0 44) (rg 33 4 0 0 0 2 0 0x8000000123)),
   (0x80680000002C84400008008000000123, .sShr (hd 0 0 0 0 44) (rg 33 4 0 0 0 2 0 0x8000000123)),
   (0x80700000002C84400008008000000123, .sSra (hd 0 0 0 0 44) (rg 33 4 0 0 0 2 0 0x8000000123)),
   (0x80780000002C84400008008000000123, .sRot (hd 0 0 0 0 44) (rg 33 4 0 0 0 2 0 0x8000000123))]
theorem test_decode_wordsSa : wordsSa.all decodesTo = true := by decide +kernel

def wordsSb : List (Syllable × Instr) :=
  [(0x8080000000280C400000000000000000, .sClz (hd 0 0 0 0 40) (rg 3 4 0 0 0 0 0 0)),
   (0x8088000000280C400000000000000000, .sPopc (hd 0 0 0 0 40) (rg 3 4 0 0 0 0 0 0)),
   (0x80900000001C0C414050000000000000, .sCmp (hd 0 0 0 0 28) (rg 3 4 5 0 5 0 0 0)),
   (0x8098000000000C414600000000000000, .sSel (hd 0 0 0 0 0) (rg 3 4 5 6 0 0 0 0)),
   (0x80A00000001C0C414000000000000000, .bfx (hd 0 0 0 0 28) (rg 3 4 5 0 0 0 0 0)),
   (0x80A8000000000C414600000000000000, .bfi (hd 0 0 0 0 0) (rg 3 4 5 6 0 0 0 0)),
   (0x80B0000000001C000123456789ABCDEF, .liw (hd 0 0 0 0 0) (wd 7 0x123456789ABCDEF)),
   (0x80C0000000000D200000000000000000, .mfsr (hd 0 0 0 0 0) (rg 3 18 0 0 0 0 0 0)),
   (0x80C80000000048400000000000000000, .mtsr (hd 0 0 0 0 0) (rg 18 4 0 0 0 0 0 0)),
   (0x80D0000000003C400000000000000000, .mtq (hd 0 0 0 0 0) (rg 15 4 0 0 0 0 0 0)),
   (0x80D0000000003C000010000000000000, .mtqNull (hd 0 0 0 0 0) (rg 15 0 0 0 1 0 0 0)),
   (0x80D8000000000C900000000000000000, .mfq (hd 0 0 0 0 0) (rg 3 9 0 0 0 0 0 0)),
   (0x80D8000000000C900010000000000000, .mfqNull (hd 0 0 0 0 0) (rg 3 9 0 0 1 0 0 0)),
   (0x82800000000000000000000000000000, .nop (hd 0 0 0 0 0) (rg 0 0 0 0 0 0 0 0)),
   (0x8201800000000000000800FFFFFFFFFE, .br (hd 3 0 0 0 0) (rg 0 0 0 0 0 2 0 0xFFFFFFFFFE)),
   (0x82080000001C0041402000FFFFFFFFFD, .brc (hd 0 0 0 0 28) (rg 0 4 5 0 2 0 0 0xFFFFFFFFFD))]
theorem test_decode_wordsSb : wordsSb.all decodesTo = true := by decide +kernel

def wordsSc : List (Syllable × Instr) :=
  [(0x8210000000007C000008000000000010, .call (hd 0 0 0 0 0) (rg 31 0 0 0 0 2 0 16)),
   (0x82180000000001F00000000000000000, .ret (hd 0 0 0 0 0) (rg 0 31 0 0 0 0 0 0)),
   (0x822000000000000000080000000000C2, .loop (hd 0 0 0 0 0) (rg 0 0 0 0 0 2 0 194)),
   (0x8228000000000C400000000000000000, .waitany (hd 0 0 0 0 0) (rg 3 4 0 0 0 0 0 0)),
   (0x8230000000000C400000000000000000, .waitall (hd 0 0 0 0 0) (rg 3 4 0 0 0 0 0 0)),
   (0x8238000000000C400000000000000000, .ffr (hd 0 0 0 0 0) (rg 3 4 0 0 0 0 0 0)),
   (0x82400000000000000000000000000000, .tick (hd 0 0 0 0 0) (rg 0 0 0 0 0 0 0 0)),
   (0x82480000000000000000000000000000, .phase (hd 0 0 0 0 0) (rg 0 0 0 0 0 0 0 0)),
   (0x82500000000008000000000000000000, .next (hd 0 0 0 0 0) (rg 2 0 0 0 0 0 0 0)),
   (0x8258000000000C000508000000000004, .grow (hd 0 0 0 0 0) (rg 3 0 0 5 0 2 0 4)),
   (0x82600000000000000000000000000000, .exit (hd 0 0 0 0 0) (rg 0 0 0 0 0 0 0 0)),
   (0x8268000000000000000800000000BEEF, .trap (hd 0 0 0 0 0) (rg 0 0 0 0 0 2 0 0xBEEF)),
   (0x82700000000000000000000000000000, .rte (hd 0 0 0 0 0) (rg 0 0 0 0 0 0 0 0)),
   (0x82780000000000000000000000000000, .iflush (hd 0 0 0 0 0) (rg 0 0 0 0 0 0 0 0))]
theorem test_decode_wordsSc : wordsSc.all decodesTo = true := by decide +kernel

def wordsVa : List (Syllable × Instr) :=
  [(0x88000000810728B30001000000000000, .vAdd (hd 0 0 0 129 7) (rg 10 11 12 0 0 0 2 0)),
   (0x88080000810728B30001000000000000, .vSub (hd 0 0 0 129 7) (rg 10 11 12 0 0 0 2 0)),
   (0x88100000810728B30001000000000000, .vMul (hd 0 0 0 129 7) (rg 10 11 12 0 0 0 2 0)),
   (0x88180000811428B30001000000000000, .vMulh (hd 0 0 0 129 20) (rg 10 11 12 0 0 0 2 0)),
   (0x88200000810828B30D00000000000000, .fma (hd 0 0 0 129 8) (rg 10 11 12 13 0 0 0 0)),
   (0x88280000810828B30D00000000000000, .fms (hd 0 0 0 129 8) (rg 10 11 12 13 0 0 0 0)),
   (0x88300000810028B30004000000000000, .vMin (hd 0 0 0 129 0) (rg 10 11 12 0 0 1 0 0)),
   (0x88380000810028B30004000000000000, .vMax (hd 0 0 0 129 0) (rg 10 11 12 0 0 1 0 0)),
   (0x88400000811528B00000000000000000, .abs (hd 0 0 0 129 21) (rg 10 11 0 0 0 0 0 0)),
   (0x88480000811528B00000000000000000, .neg (hd 0 0 0 129 21) (rg 10 11 0 0 0 0 0 0)),
   (0x89080000810728B30001000000000000, .absd (hd 0 0 0 129 7) (rg 10 11 12 0 0 0 2 0)),
   (0x88500000810028B00008000000FF00FF, .vAnd (hd 0 0 0 129 0) (rg 10 11 0 0 0 2 0 0xFF00FF)),
   (0x88580000810028B00008000000FF00FF, .vOr (hd 0 0 0 129 0) (rg 10 11 0 0 0 2 0 0xFF00FF)),
   (0x88600000810028B00008000000FF00FF, .vXor (hd 0 0 0 129 0) (rg 10 11 0 0 0 2 0 0xFF00FF)),
   (0x88680000810028B00008000000FF00FF, .vAndn (hd 0 0 0 129 0) (rg 10 11 0 0 0 2 0 0xFF00FF)),
   (0x88700000811028B30000000000000000, .vShl (hd 0 0 0 129 16) (rg 10 11 12 0 0 0 0 0))]
theorem test_decode_wordsVa : wordsVa.all decodesTo = true := by decide +kernel

def wordsVb : List (Syllable × Instr) :=
  [(0x88780000811028B30000000000000000, .vShr (hd 0 0 0 129 16) (rg 10 11 12 0 0 0 0 0)),
   (0x88800000811028B30000000000000000, .vSra (hd 0 0 0 129 16) (rg 10 11 12 0 0 0 0 0)),
   (0x88880000811828B00000000000000000, .vClz (hd 0 0 0 129 24) (rg 10 11 0 0 0 0 0 0)),
   (0x88900000811828B00000000000000000, .vPopc (hd 0 0 0 129 24) (rg 10 11 0 0 0 0 0 0)),
   (0x8898000081040CB300A0000000000000, .vCmp (hd 0 0 0 129 4) (rg 3 11 12 0 10 0 0 0)),
   (0x88A00000810028B30300000000000000, .vSel (hd 0 0 0 129 0) (rg 10 11 12 3 0 0 0 0)),
   (0x88A80000810028030004000000000000, .mov (hd 0 0 0 129 0) (rg 10 0 12 0 0 1 0 0)),
   (0x88B00000810428B0000800000000001F, .bcast (hd 0 0 0 129 4) (rg 10 11 0 0 0 2 0 31)),
   (0x88B80000040428B0000800000000001F, .extr (hd 0 0 0 4 4) (rg 10 11 0 0 0 2 0 31)),
   (0x88C00000810428B30004000000000000, .ins (hd 0 0 0 129 4) (rg 10 11 12 0 0 1 0 0)),
   (0x88C80000810028B00038000000000002, .perm (hd 0 0 0 129 0) (rg 10 11 0 0 3 2 0 2)),
   (0x88D00000811828000008000000000064, .iota (hd 0 0 0 129 24) (rg 10 0 0 0 0 2 0 100)),
   (0x88D8000081000C108000000000000000, .kand (hd 0 0 0 129 0) (rg 3 1 2 0 0 0 0 0)),
   (0x88E0000081000C108000000000000000, .kor (hd 0 0 0 129 0) (rg 3 1 2 0 0 0 0 0)),
   (0x88E8000081000C108000000000000000, .kxor (hd 0 0 0 129 0) (rg 3 1 2 0 0 0 0 0)),
   (0x88F0000081000C100000000000000000, .knot (hd 0 0 0 129 0) (rg 3 1 0 0 0 0 0 0))]
theorem test_decode_wordsVb : wordsVb.all decodesTo = true := by decide +kernel

def wordsVc : List (Syllable × Instr) :=
  [(0x88F80000810028100000000000000000, .kpopc (hd 0 0 0 129 0) (rg 10 1 0 0 0 0 0 0)),
   (0x8900000081000C000018000000000005, .ktail (hd 0 0 0 129 0) (rg 3 0 0 0 1 2 0 5))]
theorem test_decode_wordsVc : wordsVc.all decodesTo = true := by decide +kernel

def wordsF : List (Syllable × Instr) :=
  [(0x90000000810528B00001000000000000, .exp2 (hd 0 0 0 129 5) (rg 10 11 0 0 0 0 2 0)),
   (0x90080000810528B00001000000000000, .log2 (hd 0 0 0 129 5) (rg 10 11 0 0 0 0 2 0)),
   (0x90100000810528B00001000000000000, .rcp (hd 0 0 0 129 5) (rg 10 11 0 0 0 0 2 0)),
   (0x90180000810528B00001000000000000, .rsqrt (hd 0 0 0 129 5) (rg 10 11 0 0 0 0 2 0)),
   (0x90200000810528B00001000000000000, .sqrt (hd 0 0 0 129 5) (rg 10 11 0 0 0 0 2 0)),
   (0x90280000810528B00001000000000000, .tanh (hd 0 0 0 129 5) (rg 10 11 0 0 0 0 2 0)),
   (0x90300000810528B00001000000000000, .sigm (hd 0 0 0 129 5) (rg 10 11 0 0 0 0 2 0)),
   (0x90380000810528B00001000000000000, .erf (hd 0 0 0 129 5) (rg 10 11 0 0 0 0 2 0)),
   (0x90400000810528B00001000000000000, .sin (hd 0 0 0 129 5) (rg 10 11 0 0 0 0 2 0)),
   (0x90480000810528B00001000000000000, .cos (hd 0 0 0 129 5) (rg 10 11 0 0 0 0 2 0))]
theorem test_decode_wordsF : wordsF.all decodesTo = true := by decide +kernel

def wordsDa : List (Syllable × Instr) :=
  [(0x98000000810508B00000000000000000, .rsum (hd 0 0 0 129 5) (rg 2 11 0 0 0 0 0 0)),
   (0x98080000810408B00000000000000000, .rmax (hd 0 0 0 129 4) (rg 2 11 0 0 0 0 0 0)),
   (0x98100000810408B00000000000000000, .rmin (hd 0 0 0 129 4) (rg 2 11 0 0 0 0 0 0)),
   (0x98180000810408B00008000000000064, .rminidx (hd 0 0 0 129 4) (rg 2 11 0 0 0 2 0 100)),
   (0x98200000810800B00000000000000000, .rabsmax (hd 0 0 0 129 8) (rg 0 11 0 0 0 0 0 0)),
   (0x98280000810028200020000000000000, .rdrain (hd 0 0 0 129 0) (rg 10 2 0 0 2 0 0 0)),
   (0x98300000000008000030000000000000, .rclr (hd 0 0 0 0 0) (rg 2 0 0 0 3 0 0 0)),
   (0x98380000810028E005380000000003E8, .part (hd 0 0 0 129 0) (rg 10 14 0 5 3 2 0 0x3E8)),
   (0x98400000000004000008000000A00825, .fcfg (hd 0 0 0 0 0) (rg 1 0 0 0 0 2 0 0xA00825)),
   (0x98480000020005400000000000000000, .fins (hd 0 0 0 2 0) (rg 1 20 0 0 0 0 0 0)),
   (0x9850000000000C108000000000000000, .fmerge (hd 0 0 0 0 0) (rg 3 1 2 0 0 0 0 0)),
   (0x98580000020050100008000000000004, .fpeel (hd 0 0 0 2 0) (rg 20 1 0 0 0 2 0 4)),
   (0x98600000000028100000000000000000, .fcnt (hd 0 0 0 0 0) (rg 10 1 0 0 0 0 0 0)),
   (0x98680000000004000000000000000000, .fclr (hd 0 0 0 0 0) (rg 1 0 0 0 0 0 0 0)),
   (0x98680000000004000010000000000000, .fclrAll (hd 0 0 0 0 0) (rg 1 0 0 0 1 0 0 0)),
   (0x98700000000000904000000000004001, .fsave (hd 0 0 0 0 0) (rg 0 9 1 0 0 0 0 0x4001))]
theorem test_decode_wordsDa : wordsDa.all decodesTo = true := by decide +kernel

def wordsDb : List (Syllable × Instr) :=
  [(0x98780000000004900000000000004001, .fload (hd 0 0 0 0 0) (rg 1 9 0 0 0 0 0 0x4001))]
theorem test_decode_wordsDb : wordsDb.all decodesTo = true := by decide +kernel

def wordsT : List (Syllable × Instr) :=
  [(0xA0000000814128B04011000000000000, .cvt (hd 0 0 0 129 65) (rg 10 11 1 0 1 0 2 0)),
   (0xA0080000814028B00730000000000000, .cvtq (hd 0 0 0 129 64) (rg 10 11 0 7 3 0 0 0)),
   (0xA0100000810451E00000000000000000, .trans (hd 0 0 0 129 4) (rg 20 30 0 0 0 0 0 0)),
   (0xA0180000810028B00018000000000004, .xcl (hd 0 0 0 129 0) (rg 10 11 0 0 1 2 0 4)),
   (0xA0200000811028B00060000000000003, .regroup (hd 0 0 0 129 16) (rg 10 11 0 0 6 0 0 3)),
   (0xA0280000810028B00000000000000000, .pack (hd 0 0 0 129 0) (rg 10 11 0 0 0 0 0 0)),
   (0xA0300000810028B00000000000000000, .unpack (hd 0 0 0 129 0) (rg 10 11 0 0 0 0 0 0)),
   (0xA0380000810028B00000000000000000, .xbcast (hd 0 0 0 129 0) (rg 10 11 0 0 0 0 0 0))]
theorem test_decode_wordsT : wordsT.all decodesTo = true := by decide +kernel

def wordsM0 : List (Syllable × Instr) :=
  [(0xA8000000FF04100C0000020000000000, .trd (hd 0 0 0 255 4) (tp 4 3 0 0 0 2 0)),
   (0xA80800000F04100C0000010003000000, .trdw (hd 0 0 0 15 4) (tp 4 3 0 0 0 1 3)),
   (0xA8100000FF04100C0000000000000000, .twr (hd 0 0 0 255 4) (tp 4 3 0 0 0 0 0)),
   (0xA8180000FF0B100C0000000000000000, .twra (hd 0 0 0 255 11) (tp 4 3 0 0 0 0 0)),
   (0xA82000000000100C0000000000000000, .thist (hd 0 0 0 0 0) (tp 4 3 0 0 0 0 0)),
   (0xA82800000000100C0000000000000000, .tsig (hd 0 0 0 0 0) (tp 4 3 0 0 0 0 0))]
theorem test_decode_wordsM0 : wordsM0.all decodesTo = true := by decide +kernel

def wordsM1 : List (Syllable × Instr) :=
  [(0xB0000000810010060081800040000000, .ld (hd 0 0 0 129 0) (mm 4 1 2 0 1 3 64)),
   (0xB0080000810010060081800040000000, .st (hd 0 0 0 129 0) (mm 4 1 2 0 1 3 64)),
   (0xB0100000001410052400000040000000, .lds (hd 0 0 0 0 20) (mm 4 1 1 9 0 0 64)),
   (0xB0180000001410052400000040000000, .sts (hd 0 0 0 0 20) (mm 4 1 1 9 0 0 64)),
   (0xB0200000010010071900000040000000, .ldg (hd 0 0 0 1 0) (mm 4 1 3 6 2 0 64)),
   (0xB0280000010010071900000040000000, .stg (hd 0 0 0 1 0) (mm 4 1 3 6 2 0 64)),
   (0xB0300000000010040000000003000000, .ldb (hd 0 0 0 0 0) (mm 4 1 0 0 0 0 3))]
theorem test_decode_wordsM1 : wordsM1.all decodesTo = true := by decide +kernel

def wordsC : List (Syllable × Instr) :=
  [(0xB8180000000001400000000000000000, .setfmt (hd 0 0 0 0 0) (sl 0 5 0 0 0)),
   (0xB8000000000030004900008000000000, .scld (hd 0 0 0 0 0) (sl 3 0 1 9 64)),
   (0xB8080000000031400900000800000000, .scset (hd 0 0 0 0 0) (sl 3 5 0 9 4)),
   (0xB8100000000030000000001E00000000, .scmov (hd 0 0 0 0 0) (sl 3 0 0 0 15))]
theorem test_decode_wordsC : wordsC.all decodesTo = true := by decide +kernel

def wordsA : List (Syllable × Instr) :=
  [(0xC0000000000440124000200002000000, .mma (hd 0 0 0 0 4) (ar 1 0 1 9 64 0 1 0 0)),
   (0xC0080000000960000000000002100000, .mmac (hd 0 0 0 0 9) (ar 1 2 0 0 0 0 1 0 2)),
   (0xC0100000004000124000200080600000, .ldw (hd 0 0 0 0 64) (ar 0 0 1 9 64 1 0 3 0)),
   (0xC01800003C0042824000960000000000, .accrd (hd 0 0 0 60 0) (ar 1 0 40 9 300 0 0 0 0)),
   (0xC02000003C0042824000960000000000, .accwr (hd 0 0 0 60 0) (ar 1 0 40 9 300 0 0 0 0)),
   (0xC0280000000080000000000000000000, .accclr (hd 0 0 0 0 0) (ar 2 0 0 0 0 0 0 0 0)),
   (0xC0300000000000000000008000000000, .mmodeExcl (hd 0 0 0 0 0) (ar 0 0 0 0 1 0 0 0 0)),
   (0xC0300000000000000000000000000000, .mmodeAlt (hd 0 0 0 0 0) (ar 0 0 0 0 0 0 0 0 0))]
theorem test_decode_wordsA : wordsA.all decodesTo = true := by decide +kernel

def wordsEa : List (Syllable × Instr) :=
  [(0xC8105000001C14000910300000000008, .ldd (hd 0 1 2 0 28) (em 5 0 0 9 1 0 0 3 0 0 8)),
   (0xC8100000002814000910280000000008, .lddP (hd 0 0 0 0 40) (em 5 0 0 9 1 0 0 2 1 0 8)),
   (0xC8185000001414000918100000000008, .lddAcq (hd 0 1 2 0 20) (em 5 0 0 9 1 4 0 1 0 0 8)),
   (0xC8200000001000500910000000000008, .std (hd 0 0 0 0 16) (em 0 5 0 9 1 0 0 0 0 0 8)),
   (0xC8287800002C00500916300000000008, .stdRel (hd 0 1 7 0 44) (em 0 5 0 9 1 3 0 3 0 0 8)),
   (0xC8305000002C14600915B00000000008, .atomAdd (hd 0 1 2 0 44) (em 5 6 0 9 1 2 3 3 0 0 8)),
   (0xC8305000002C14600915B08000000008, .atomAnd (hd 0 1 2 0 44) (em 5 6 0 9 1 2 3 3 0 1 8)),
   (0xC8305000002C14600915B10000000008, .atomOr (hd 0 1 2 0 44) (em 5 6 0 9 1 2 3 3 0 2 8)),
   (0xC8305000002C14600915B18000000008, .atomXor (hd 0 1 2 0 44) (em 5 6 0 9 1 2 3 3 0 3 8)),
   (0xC8305000002C14600915B20000000008, .atomMin (hd 0 1 2 0 44) (em 5 6 0 9 1 2 3 3 0 4 8)),
   (0xC8305000002C14600915B28000000008, .atomMax (hd 0 1 2 0 44) (em 5 6 0 9 1 2 3 3 0 5 8)),
   (0xC8305000002C14600915B30000000008, .atomSwp (hd 0 1 2 0 44) (em 5 6 0 9 1 2 3 3 0 6 8)),
   (0xC8305000002C1461C915B38000000008, .atomCas (hd 0 1 2 0 44) (em 5 6 7 9 1 2 3 3 0 7 8)),
   (0xC8385000000018A30915C00000000010, .cas128 (hd 0 1 2 0 0) (em 6 10 12 9 1 2 3 4 0 0 16)),
   (0xC800000000001051800044C840008000, .cpyD2s (hd 0 0 0 0 0) (ec 4 5 6 0 1 1 12 33 0 0 1 0)),
   (0xC800000000001051804004C840008800, .cpyS2d (hd 0 0 0 0 0) (ec 4 5 6 1 0 1 12 33 0 0 1 1))]
theorem test_decode_wordsEa : wordsEa.all decodesTo = true := by decide +kernel

def wordsEb : List (Syllable × Instr) :=
  [(0xC800000000001051800084C840009000, .cpyD2d (hd 0 0 0 0 0) (ec 4 5 6 0 2 1 12 33 0 0 1 2)),
   (0xC800000000001051804140C840009800, .cpyS2s (hd 0 0 0 0 0) (ec 4 5 6 1 5 0 12 33 0 0 1 3)),
   (0xC800000000001001C00104C84000A000, .cpyD2t (hd 0 0 0 0 0) (ec 4 0 7 0 4 1 12 33 0 0 1 4)),
   (0xC800000000001051800184C84000A800, .cpyD2sz (hd 0 0 0 0 0) (ec 4 5 6 0 6 1 12 33 0 0 1 5)),
   (0xC800000000001051804180C84000B000, .cpyS2sz (hd 0 0 0 0 0) (ec 4 5 6 1 6 0 12 33 0 0 1 6)),
   (0xC808000000001052000044C840008000, .cpym (hd 0 0 0 0 0) (ec 4 5 8 0 1 1 12 33 0 0 1 0)),
   (0xC840000000001050004140C840008000, .adec (hd 0 0 0 0 0) (ec 4 5 0 1 5 0 12 33 0 0 1 0)),
   (0xC848000000001051804140C840008000, .plDec (hd 0 0 0 0 0) (ec 4 5 6 1 5 0 12 33 0 0 1 0)),
   (0xC850000000001050004140C840008000, .plAnd (hd 0 0 0 0 0) (ec 4 5 0 1 5 0 12 33 0 0 1 0)),
   (0xC850000000001050004140C840008800, .plAndDocs (hd 0 0 0 0 0) (ec 4 5 0 1 5 0 12 33 0 0 1 1)),
   (0xC858000000001050004140C840008000, .plOr (hd 0 0 0 0 0) (ec 4 5 0 1 5 0 12 33 0 0 1 0)),
   (0xC858000000001050004140C840008800, .plOrDocs (hd 0 0 0 0 0) (ec 4 5 0 1 5 0 12 33 0 0 1 1)),
   (0xC860000000001050004140C840008000, .plFuse (hd 0 0 0 0 0) (ec 4 5 0 1 5 0 12 33 0 0 1 0)),
   (0xC868000000001050004000C840008000, .launchAcc (hd 0 0 0 0 0) (ec 4 5 0 1 0 0 12 33 0 0 1 0)),
   (0xC868000000001050004000C840008800, .launchDone (hd 0 0 0 0 0) (ec 4 5 0 1 0 0 12 33 0 0 1 1)),
   (0xC870000000000C500000000000000000, .tagclr (hd 0 0 0 0 0) (ec 3 5 0 0 0 0 0 0 0 0 0 0))]
theorem test_decode_wordsEb : wordsEb.all decodesTo = true := by decide +kernel

/-- Does the bytecode word decode to the instruction? -/
def policyTo (p : BitVec 32 × Instr) : Bool :=
  match decodeBytecode p.1 with
  | .ok i => decide (i = p.2)
  | .error _ => false

def policyA : List (BitVec 32 × Instr) :=
  [(0x01421234, .tchMov 5 true 0x1234),
   (0x05580007, .tchAdd 5 6 false 7),
   (0x095AFFFF, .tchSub 5 6 true 0xFFFF),
   (0x0D580007, .tchAnd 5 6 false 7),
   (0x11580007, .tchOr 5 6 false 7),
   (0x15580007, .tchXor 5 6 false 7),
   (0x195A0003, .tchShl 5 6 true 3),
   (0x1D5A0003, .tchShr 5 6 true 3),
   (0x21580007, .tchMin 5 6 false 7),
   (0x25580007, .tchMax 5 6 false 7),
   (0x295A0064, .tchMul 5 6 true 100),
   (0x2D42BEEF, .tchLui 5 0xBEEF),
   (0x41580007, .tchCeq 5 6 false 7),
   (0x45580007, .tchClt 5 6 false 7),
   (0x49580007, .tchClts 5 6 false 7),
   (0x601A0009, .tchBz 6 9)]
theorem test_decode_policyA : policyA.all policyTo = true := by decide +kernel

def policyB : List (BitVec 32 × Instr) :=
  [(0x641A0009, .tchBnz 6 9),
   (0x68020009, .tchJmp 9),
   (0x6CC200DF, .tchLoopn 3 13 15),
   (0x810E0008, .tchQrd 4 3 8),
   (0x850E0004, .tchCrd 4 3 4),
   (0x89020004, .tchErd 4 4),
   (0x8D020003, .tchPrd 4 3),
   (0x910C0000, .tchFreeb 4 3),
   (0xC0080005, .tchBind 2 5),
   (0xC4180000, .tchPreempt 6),
   (0xC8180000, .tchKill 6),
   (0xCC1A0004, .tchRefill 6 true 4),
   (0xD0180000, .tchDefer 6),
   (0xD4180007, .tchPrio 6 false 7),
   (0xFC000000, .tchEnd)]
theorem test_decode_policyB : policyB.all policyTo = true := by decide +kernel

/-- The words of the manual's own examples: R240, R218, R300, R204, and two bytecodes of R364. -/
def manualWords : List (Syllable × Instr) :=
  [(0xA8000000FF04100C0000020000000000, .trd (hd 0 0 0 0xFF 4) (tp 4 3 0 0 0 2 0)),
   (0x82080000001C0041402000FFFFFFFFFD, .brc (hd 0 0 0 0 0x1C) (rg 0 4 5 0 2 0 0 0xFFFFFFFFFD)),
   (0xA0080000FF5450404700000000000000, .cvtq (hd 0 0 0 0xFF 0x54) (rg 20 4 1 7 0 0 0 0)),
   (0xC8184800002C14000426300000000008, .lddAcq (hd 0 1 1 0 0x2C) (em 5 0 0 4 2 3 0 3 0 0 8)),
   (0xC80000000000105180014C2040008000, .cpyD2s (hd 0 0 0 0 0) (ec 4 5 6 0 5 3 2 1 0 0 1 0)),
   (0x98180000FF2800624004000000000000, .rminidx (hd 0 0 0 0xFF 0x28) (rg 0 6 9 0 0 1 0 0)),
   (0x98480000010004400000800000000000, .fins (hd 0 0 0 1 0) (rg 1 4 0 0 0 0 1 0)),
   (0xC0000000003050300000000098000000, .mma (hd 0 0 0 0 0x30) (ar 1 1 3 0 0 1 12 0 0)),
   (0xC8600000000000000101401000008000, .plFuse (hd 0 0 0 0 0) (ec 0 0 0 4 5 0 1 0 0 0 1 0)),
   (0x82800000000000000000000000000000, .nop (hd 0 0 0 0 0) (rg 0 0 0 0 0 0 0 0)),
   (0x82600000000000000000000000000000, .exit (hd 0 0 0 0 0) (rg 0 0 0 0 0 0 0 0))]
theorem test_decode_manual_words : manualWords.all decodesTo = true := by decide +kernel
def manualBytecodes : List (BitVec 32 × Instr) := [(0x6CC200DF, .tchLoopn 3 13 15), (0x810E0000, .tchQrd 4 3 0), (0xC0080005, .tchBind 2 5)]
theorem test_decode_manual_bytecodes : manualBytecodes.all policyTo = true := by decide +kernel

/-- How decoding refuses a word. -/
def refusal (w : Syllable) : Option DecodeError :=
  match decodeSyllable w with
  | .ok _ => none
  | .error e => some e
theorem test_decode_reserved_class : refusal 0xF8000000000000000000000000000000 = some .reservedClass := by decide +kernel
theorem test_decode_reserved_opcode : refusal 0x80B80000000000000000000000000000 = some .reservedOpcode := by decide +kernel
/-- FCLR with SUB 2 (R342). -/
theorem test_decode_reserved_sub : refusal 0x98680000000004000020000000000000 = some .badField := by decide +kernel
/-- QRD of field 9 (R365), and a reserved bytecode. -/
theorem test_decode_bytecode_refused :
    (decodePolicy 0x810E0009 = none) ∧ decodePolicy 0xF8000000 = none := by decide +kernel

/-- The bytes of a syllable stand little-endian (R168), so that the table's numbering reads back. -/
theorem test_decode_table_word :
    decodeTableWord 128 0x82800000000000000000000000000000 = some (.nop (hd 0 0 0 0 0) (rg 0 0 0 0 0 0 0 0)) ∧
    decodeTableWord 32 0x810E0000 = some (.tchQrd 4 3 0) ∧ decodeTableWord 16 0 = none := by decide +kernel

/-! ### Ill-formed terms, one for each check -/

/-- SBI without SBV, STALL without STOP, a CMASK that is missing or of no use (R167, R172, R179). -/
theorem test_wf_header :
    ([Instr.sAdd (hd 0 0 1 0 24) (rg 3 4 5 0 0 0 0 0), .sAdd { hd 2 0 0 0 24 with stop := false } (rg 3 4 5 0 0 0 0 0), .vAnd (hd 0 0 0 0 0) (rg 1 2 3 0 0 0 0 0),
      .sAnd (hd 0 0 0 1 0) (rg 3 4 5 0 0 0 0 0)].all fun i => !i.wf) = true := by decide +kernel
/-- A reserved format, a format of another set, a MODE not accepted, a format where none is (R80, R81, R204, R258). -/
theorem test_wf_format :
    ([Instr.sAdd (hd 0 0 0 0 (4 * 0x0D)) (rg 3 4 5 0 0 0 0 0), .sAdd (hd 0 0 0 0 (4 * 5)) (rg 3 4 5 0 0 0 0 0), .sAdd (hd 0 0 0 0 (4 * 6 + 2)) (rg 3 4 5 0 0 0 0 0),
      .sAnd (hd 0 0 0 0 24) (rg 3 4 5 0 0 0 0 0), .vMulh (hd 0 0 0 1 0) (rg 1 2 3 0 0 0 0 0), .exp2 (hd 0 0 0 1 (4 * 6)) (rg 1 2 0 0 0 0 0 0)].all fun i => !i.wf) = true := by
  decide +kernel
/-- Registers and fields out of their range, reserved bits, an unused field that is not zero (R183). -/
theorem test_wf_registers :
    ([Instr.mtq (hd 0 0 0 0 0) (rg 16 4 0 0 0 0 0 0), .sAdd (hd 0 0 0 0 24) (rg 3 4 5 1 0 0 0 0), .sAdd (hd 0 0 0 0 24) { rg 3 4 5 0 0 0 0 0 with rsv := 1 },
      .sAdd (hd 0 0 0 0 24) (rg 3 4 5 0 0 0 1 0), .sCmp (hd 0 0 0 0 24) (rg 3 4 5 0 6 0 0 0), .kand (hd 0 0 0 1 0) (rg 0 1 2 0 0 0 0 0), .mtsr (hd 0 0 0 0 0) (rg 0 4 0 0 0 0 0 0),
      .part (hd 0 0 0 1 0) (rg 62 1 1 2 3 1 0 0), .rclr (hd 0 0 0 0 0) (rg 1 0 0 0 3 0 0 0), .cas128 (hd 0 0 0 0 0) (em 5 6 7 8 1 0 0 4 0 0 0)].all fun i => !i.wf) = true := by decide +kernel
/-- BSEL not accepted, an immediate beside a register, B beside an immediate, a lane immediate of more than 32 bits (R183, R257). -/
theorem test_wf_second_operand :
    ([Instr.sAdd (hd 0 0 0 0 24) (rg 3 4 5 0 0 1 0 0), .sAdd (hd 0 0 0 0 24) (rg 3 4 5 0 0 0 0 7), .sAdd (hd 0 0 0 0 24) (rg 3 4 5 0 0 2 0 7), .vAnd (hd 0 0 0 1 0) (rg 1 2 0 0 0 2 0 0x100000000),
      .trap (hd 0 0 0 0 0) (rg 0 0 0 0 0 2 0 0x10000), .bcast (hd 0 0 0 1 4) (rg 1 2 0 0 0 2 0 32)].all fun i => !i.wf) = true := by decide +kernel
/-- Lags, windows, record offsets and nests (R237, R247). -/
theorem test_wf_memory :
    ([Instr.trd (hd 0 0 0 1 0) (tp 4 3 0 0 5 0 0), .trdw (hd 0 0 0 1 0) (tp 4 3 0 0 0 3 2), .trdw (hd 0 0 0 1 0) (tp 60 3 0 0 0 0 9), .ld (hd 0 0 0 1 0) (mm 4 1 3 6 0 0 0),
      .ld (hd 0 0 0 1 0) (mm 4 1 0 6 0 0 0), .ld (hd 0 0 0 1 0) (mm 4 1 0 0 0 3 0), .ldg (hd 0 0 0 1 0) (mm 4 1 1 6 0 0 0), .ldb (hd 0 0 0 0 0) (mm 4 1 0 0 0 0 4)].all fun i => !i.wf) = true := by
  decide +kernel
/-- Fronts, the array, conversions and rearrangement (R332, R288, R293, R299, R301, R303, R336). -/
theorem test_wf_wide :
    ([Instr.fcfg (hd 0 0 0 0 0) (rg 1 0 0 0 0 2 0 0x180000), .fins (hd 0 0 0 3 0) (rg 1 4 0 0 0 0 0 0), .mma (hd 0 0 0 0 4) (ar 1 0 1 9 0 8 1 0 0), .mma (hd 0 0 0 0 4) (ar 1 0 1 9 0 0 12 0 0),
      .mma (hd 0 0 0 0 4) (ar 1 0 1 9 0 0 1 2 0), .mmac (hd 0 0 0 0 4) (ar 1 2 0 0 0 0 1 0 1), .cvt (hd 0 0 0 1 64) (rg 10 11 1 0 2 0 0 0), .trans (hd 0 0 0 1 4) (rg 57 30 0 0 0 0 0 0),
      .regroup (hd 0 0 0 1 4) (rg 10 11 0 0 8 0 0 3), .mmodeExcl (hd 0 0 0 0 0) (ar 0 0 0 0 2 0 0 0 0)].all fun i => !i.wf) = true := by decide +kernel
/-- Device accesses and commands (R309, R311, R315 to R317). -/
theorem test_wf_device :
    ([Instr.ldd (hd 0 0 0 0 28) (em 5 0 0 9 1 0 0 2 0 0 8), .ldd (hd 0 0 0 0 28) (em 5 0 0 9 1 1 0 3 0 0 8), .stdRel (hd 0 0 0 0 28) (em 0 5 0 9 1 5 0 3 0 0 8), .atomAdd (hd 0 0 0 0 28) (em 5 6 7 9 1 0 0 3 0 0 8),
      .cpyD2s (hd 0 0 0 0 0) (ec 4 5 6 1 5 3 2 0 0 0 0 0), .cpym (hd 0 0 0 0 0) (ec 4 5 6 0 5 3 2 0 0 0 0 4), .adec (hd 0 0 0 0 0) (ec 4 5 0 1 5 0 2 9 0 0 0 0)].all fun i => !i.wf) = true := by
  decide +kernel
/-- Bytecodes: a register operand with high bits, a loop of no body, a field that does not exist (R364, R365). -/
theorem test_wf_bytecode : ([Instr.tchAdd 1 2 false 16, .tchLoopn 3 0 1, .tchPrd 1 4].all fun i => !i.wf) = true := by decide +kernel


/-! ### A small machine -/

/-- A buffer record of R37: base and length in granules, whether carried and compressed. -/
def bufRec (base len : Nat) (carried comp : Bool) : BitVec 256 :=
  BitVec.ofNat 256 (1 * 2 ^ 252 + base * 2 ^ 235 + len * 2 ^ 218 + (if carried then 2 ^ 209 else 0) + (if comp then 2 ^ 208 else 0))
/-- A window record that names member 1. -/
def winRec (base len : Nat) : BitVec 256 := BitVec.ofNat 256 (2 * 2 ^ 252 + base * 2 ^ 235 + len * 2 ^ 218 + 2 * 2 ^ 175)
/-- A nest record: bounds 3 and 1, strides 4 and 64. -/
def nestRec : BitVec 256 := BitVec.ofNat 256 (3 * 2 ^ 252 + 3 * 2 ^ 152 + 1 * 2 ^ 168 + 4 * 2 ^ 8 + 64 * 2 ^ 32)
/-- A signal of core 0: cluster mask all, one cluster-vector, depth 4, rate 1, own or bridged in. -/
def signal (id role : Nat) : Sig :=
  { desc := BitVec.ofNat 128 (id * 2 ^ 120 + 255 * 2 ^ 112 + 4 * 2 ^ 85 + 1 * 2 ^ 77 + role * 2 ^ 64 + 16 * 2 ^ 59), replica := false
    samples := List.replicate 4 { words := [(0, 7)], bad := none } }
/-- A front of two objectives that is configured and holds one tuple. -/
def frontOne : Front := { cfg := some 0xA00825, es := [{ o0 := 1, o1 := 2, o2 := 0, o3 := 0, payload := 9 }], rej := 3, evi := 4 }
def openExt (lcreq : Nat) : Ext := { declared := true, base := 0, len := 4096, rd := true, wr := true, at_ := true, lcreq := lcreq, perAccess := false }
def pageRun (ext : Nat) : Run :=
  { ext := ext, va := 0, len := 65536, pa := 0x10000, cls := 0, ex := true, sp := false, mg := false, st := .present, marked := false, refuse := none, leaves := [[]] }

/-- Core 0 with a live context of function 0, a handler, records 1 to 6, signals 3 and 4, fronts 1 and 2, weights, and extent 1. -/
def core0 : StreamCore :=
  let c := StreamCore.reset 0
  { c with
    seat := { c.seat with status := .live }
    pipe := { c.pipe with pc := 0x1000, cyc := 100, nextIssue := 100 }
    regs := { c.regs with s := [(6, 64), (10, 5), (11, 0xFFFFFFFFFFFFFFF9)], fronts := [Front.empty, frontOne, frontOne, Front.empty, Front.empty, Front.empty, Front.empty, Front.empty] }
    sys := { c.sys with budget := 1000, tvec := 0x8000, now := 9 }
    wbuf := { c.wbuf with fcode := some 1 }
    taps := [signal 3 0, signal 4 1]
    pool := [nestRec, bufRec 0 4096 false false, winRec 0 64, nestRec, bufRec 4096 64 true false, bufRec 8192 64 false false, bufRec 16384 64 false true]
    dev := { c.dev with exts := [Ext.none, openExt 0, openExt 0], code := openExt 0, runs := [pageRun 1, pageRun 2, pageRun 16] } }

/-- Task 0 of function 0. -/
def task0 : Task :=
  { num := 0, name := 7, queue := 0, prio := 0, deadline := 0, accepted := 0, demand := 1, budget := 1000, widths := [8], counts := [5], fields := 1, delivered := 2, returned := []
    reqs := [], codeDesc := 0, extDescs := [], edges := [], upstream := false, binds := 0, saved := [], doneTag := none, ended := none, dispatches := 1, killed := false
    killReq := false, unloadable := false }

/-- A package of one core that runs task 0 of function 0, at the turn of the core. -/
def s0 : State :=
  { State.reset with core := core0, cores := [], turn := 1, fns := [{ Func.reset 0 with cores := 3, stopReq := false, stopped := false, tasks := [task0] }] }

/-- s0 with its core changed. -/
def with0 (g : StreamCore → StreamCore) : State := { s0 with core := g core0 }

/-- Does the group of the one syllable pass its holds and checks? -/
def admits (i : Instr) (s : State) : Bool :=
  match precheck s [slotOf i] with
  | .go => true
  | _ => false

theorem admitted_of_admits {i : Instr} {s : State} (h : admits i s = true) : Admitted i s := by
  intro _
  unfold admits at h
  split at h
  · assumption
  · exact absurd h (by simp)

/-! ### Worked examples of the manual, one step each -/

/-- The next state's results in flight. -/
def results (i : Instr) (s : State) : List Eff :=
  match exec i s with
  | .next t => t.core.pipe.flights.map fun f => f.eff
  | _ => []

/-- s0 with two scalars. -/
def scalars (x y : Word) : State := with0 fun c => { c with regs := { c.regs with s := [(4, x), (5, y)] } }

/-- The table of R207: div.s32 of −7 and 2, and of −2^31 and −1 under .sat. -/
theorem test_div :
    results (.sDiv (hd 0 0 0 0 24) (rg 3 4 5 0 0 0 0 0)) (scalars 0xFFFFFFF9 2) = [.sreg 3 0xFFFFFFFFFFFFFFFD] ∧
    results (.sDiv (hd 0 0 0 0 25) (rg 3 4 5 0 0 0 0 0)) (scalars 0x80000000 0xFFFFFFFF) = [.sreg 3 0x7FFFFFFF] := by decide +kernel
/-- The table of R207: rem.s32 of −7 and 0, and div.n32 of 7 and 0, DZE clear. -/
theorem test_rem :
    results (.sRem (hd 0 0 0 0 24) (rg 3 4 5 0 0 0 0 0)) (scalars 0xFFFFFFF9 0) = [.sreg 3 0xFFFFFFFFFFFFFFF9] ∧
    results (.sDiv (hd 0 0 0 0 40) (rg 3 4 5 0 0 0 0 0)) (scalars 7 0) = [.sreg 3 0xFFFFFFFF] := by decide +kernel
/-- A 32-bit sum wraps and is sign-extended; under .sat it clamps (R205, R206). -/
theorem test_add :
    results (.sAdd (hd 0 0 0 0 24) (rg 3 4 5 0 0 0 0 0)) (scalars 0x7FFFFFFF 1) = [.sreg 3 0xFFFFFFFF80000000] ∧
    results (.sAdd (hd 0 0 0 0 25) (rg 3 4 5 0 0 0 0 0)) (scalars 0x7FFFFFFF 1) = [.sreg 3 0x7FFFFFFF] := by decide +kernel
/-- Shifts by the width or more, and a rotation by 33 of 32 bits (R209). -/
theorem test_shift :
    results (.sSra (hd 0 0 0 0 24) (rg 3 4 5 0 0 0 0 0)) (scalars 0x80000000 40) = [.sreg 3 0xFFFFFFFFFFFFFFFF] ∧
    results (.sRot (hd 0 0 0 0 40) (rg 3 4 5 0 0 0 0 0)) (scalars 0x80000001 33) = [.sreg 3 3] := by decide +kernel
/-- A field that reaches past bit 63 takes zeros there (R213). -/
theorem test_bfx : results (.bfx (hd 0 0 0 0 44) (rg 3 4 5 0 0 0 0 0)) (scalars 0xF000000000000000 (60 + 64 * 8)) = [.sreg 3 0xF] := by decide +kernel
theorem test_clz : results (.sClz (hd 0 0 0 0 40) (rg 3 4 0 0 0 0 0 0)) (scalars 0xFFFFFFFF00000000 0) = [.sreg 3 32] := by decide +kernel

/-- s0 with a lane word in lane 0 of v1 and of v3. -/
def lanes (x y : Lane) : State := with0 fun c => { c with regs := { c.regs with v := [(vkey 0 1 0, x), (vkey 0 3 0, y)] } }
/-- Lane 0 of cluster 0 of the one vector result. -/
def lane0 (i : Instr) (s : State) : Option Lane :=
  match results i s with
  | [.vecs ws] => (ws.find? fun w => w.1 / 64 * 64 == w.1 || true).map fun w => w.2
  | _ => none
/-- The example of R263. -/
theorem test_vector_shift :
    lane0 (.vShr (hd 0 0 0 1 32) (rg 2 1 3 0 0 0 0 0)) (lanes 0x80F0F0F0 0x01080904) = some 0x4000000F ∧
    lane0 (.vSra (hd 0 0 0 1 16) (rg 2 1 3 0 0 0 0 0)) (lanes 0x80F0F0F0 0x01080904) = some 0xC0FFFFFF ∧
    lane0 (.vShr (hd 0 0 0 1 36) (rg 2 1 3 0 0 0 0 0)) (lanes 0x80F0F0F0 0x01080904) = some 0x00800F0F := by decide +kernel
/-- The second case of the example after R300: the block maximum 3.0 in the bypass gives code 0x80 and 96, −22. -/
theorem test_cvtq :
    (results (.cvtq (hd 0 0 0 0xFF 0x54) (rg 20 4 1 7 0 0 0 0)) (with0 fun c => { c with regs := { c.regs with v := [(vkey 0 4 0, 0xB99A4200)], byp := [(0, 0x40400000)] } })).getLast? =
      some (.sreg 7 0x7F7F7F7F7F7F7F80) := by decide +kernel
/-- A result within 2 ulp keeps the sign of R273: EXP2 of −149.5 is not negative, TANH of −2^-149 not positive; TANH of 20 is below 1 (R273, R274). -/
theorem test_special_bound :
    let may := fun (f : Special) (x cand : Nat) => f.within (f32Val x) (f.value (f32Val x)).1 cand
    may .exp2 0xC3158000 0x80000001 = false ∧ may .exp2 0xC3158000 1 = true ∧ may .tanh 0x80000001 1 = false ∧ may .tanh 0x80000001 0x80000001 = true ∧ may .tanh 0x41A00000 0x3F800001 = false ∧
      may .tanh 0x41A00000 0x3F7FFFFE = true ∧ may .tanh 0x41A00000 0x3F7FFFFC = false := by decide +kernel
/-- The first example of FIPS 180-4's SHA-512: the digest of "abc". -/
theorem test_sha512 : sha512 [0x61, 0x62, 0x63] =
    0xddaf35a193617abacc417349ae20413112e6fa4e89a97ea20a9eeee64b55d39a2192992a274fc1a836ba3c23a3feebbd454d4423643ce80e2a9ac94fa54ca49f := by decide +kernel
/-- 1.0 + 2^-11 rounds to even in f16, and a NaN gives the canonical NaN (R84, R93). -/
theorem test_vector_add :
    lane0 (.vAdd (hd 0 0 0 1 4) (rg 2 1 3 0 0 0 0 0)) (lanes 0x7E013C00 0x3C001000) = some 0x7E003C00 := by decide +kernel

/-! ### Every syllable is well formed and admitted somewhere: the whole hypothesis of the statements that have no other -/

theorem wit_admitted_wordsSa : (wordsSa.all fun p => p.2.wf && admits p.2 s0) = true := by decide +kernel
theorem wit_admitted_wordsSb : (wordsSb.all fun p => p.2.wf && admits p.2 s0) = true := by decide +kernel
theorem wit_admitted_wordsSc : (wordsSc.all fun p => p.2.wf && (admits p.2 s0 || admits p.2 (with0 fun c => { c with sys := { c.sys with tl := 1 } }))) = true := by decide +kernel
theorem wit_admitted_wordsVa : (wordsVa.all fun p => p.2.wf && admits p.2 s0) = true := by decide +kernel
theorem wit_admitted_wordsVb : (wordsVb.all fun p => p.2.wf && admits p.2 s0) = true := by decide +kernel
theorem wit_admitted_wordsVc : (wordsVc.all fun p => p.2.wf && admits p.2 s0) = true := by decide +kernel
theorem wit_admitted_wordsF : (wordsF.all fun p => p.2.wf && admits p.2 s0) = true := by decide +kernel
theorem wit_admitted_wordsDa : (wordsDa.all fun p => p.2.wf && admits p.2 s0) = true := by decide +kernel
theorem wit_admitted_wordsDb : (wordsDb.all fun p => p.2.wf && admits p.2 s0) = true := by decide +kernel
theorem wit_admitted_wordsT : (wordsT.all fun p => p.2.wf && admits p.2 s0) = true := by decide +kernel
theorem wit_admitted_wordsM0 : (wordsM0.all fun p => p.2.wf && admits p.2 s0) = true := by decide +kernel
theorem wit_admitted_wordsM1 : (wordsM1.all fun p => p.2.wf && admits p.2 s0) = true := by decide +kernel
theorem wit_admitted_wordsC : (wordsC.all fun p => p.2.wf && admits p.2 s0) = true := by decide +kernel
theorem wit_admitted_wordsA : (wordsA.all fun p => p.2.wf && admits p.2 s0) = true := by decide +kernel
theorem wit_admitted_wordsEa : (wordsEa.all fun p => p.2.wf && admits p.2 s0) = true := by decide +kernel
theorem wit_admitted_wordsEb : (wordsEb.all fun p => p.2.wf && admits p.2 s0) = true := by decide +kernel

/-! ### Witnesses: states and operands that meet the hypotheses of each statement -/

def sys0 (g : Sys → Sys) : State := with0 fun c => { c with sys := g c.sys }
def pipe0 (g : Pipe → Pipe) : State := with0 fun c => { c with pipe := g c.pipe }
def seat0 (g : Seat → Seat) : State := with0 fun c => { c with seat := g c.seat }
def dev0 (g : DevView → DevView) : State := with0 fun c => { c with dev := g c.dev }
def sp0 (g : Scratch → Scratch) : State := with0 fun c => { c with sp := g c.sp }
def fn0 (g : Func → Func) : State := { s0 with fns := s0.fns.map g }
def flight (e : Eff) : Flight := { due := 100, seq := 3, eff := e, late := none }

/-- The words whose syllables meet the hypotheses of a statement in the small machine. -/
def meets (l : List (Syllable × Instr)) : Bool := l.all fun p => p.2.wf && admits p.2 s0

theorem wit_ScalarArithmeticCompletes : meets (wordsSa.take 8) = true := by decide +kernel
theorem wit_ScalarLogicCompletes : meets ((wordsSa.drop 8).take 4) = true := by decide +kernel
theorem wit_ScalarShiftsCountsFieldsComplete : meets (wordsSa.drop 12 ++ wordsSb.take 6) = true := by decide +kernel
theorem wit_ScalarMovesComplete : meets (wordsSb.drop 6 |>.take 8) = true := by decide +kernel
/-- In the last place of a group, with and without a target, and in another place. -/
theorem wit_GroupSuccessor :
    let h := hd 0 0 0 0 24
    let more := { hd 0 0 0 0 24 with stop := false }
    let o := rg 3 4 5 0 0 0 0 0
    ((syl? (.sAdd h o)).any fun y => y.h.stop) = true ∧ ((syl? (.sAdd more o)).any fun y => !y.h.stop) = true ∧ s0.core.pipe.after = [] ∧ s0.core.pipe.loop = none ∧ s0.core.pipe.target = none ∧
      ((pipe0 fun p => { p with target := some 0x2000 }).core.pipe.target).isSome = true := by decide +kernel
/-- With the group's other member on core 1 as well, and with nothing to report. -/
theorem wit_BarriersAndEndsComplete :
    let h := hd 0 0 0 0 0
    let o := rg 0 0 0 0 0 0 0 0
    let two := { s0 with cores := [{ core0 with seat := { core0.seat with cid := 1, member := 1 } }] }
    let p := publish two 0 4 false fun p => decide (p.phase ≤ two.core.seat.boundary)
    h.stop = true ∧ s0.core.pipe.after = [] ∧ ([Instr.tick h o, .phase h o, .exit h o, .iflush h o].all fun i => admits i s0) = true ∧
      (two.cores.any fun d => d.seat.live && d.seat.fn == 0 && d.seat.task == two.core.seat.task && d.seat.bench == 0 && d.seat.cid != 0) = true ∧ p.limited = [] ∧ p.core.dev.fails = [] ∧ p.core.sp.berm = none := by
  decide +kernel
/-- A member that exits ahead of boundary 0 keeps its store of phase 1 pending, beside a live mate (R110). -/
theorem test_exit_ahead :
    let p := fun (phase off : Nat) => ({ seq := phase, phase := phase, x := 1, off := off, bytes := [5], req := none } : PendStore)
    let s := { s0 with core := { core0 with dev := { core0.dev with pend := [p 0 8, p 1 9] } }, cores := [{ core0 with seat := { core0.seat with cid := 1, member := 1 } }] }
    let t := exitMember s
    t.core.seat.status = .exited ∧ t.core.dev.pend = [p 1 9] ∧ t.mem = [(0x10008, 5)] := by decide +kernel
theorem wit_VectorArithmeticCompletes : meets wordsVa = true := by decide +kernel
theorem wit_VectorWordOperationsComplete : meets (wordsVa.drop 11 ++ wordsVb.drop 5) = true := by decide +kernel
theorem wit_VectorMasksComplete : meets (wordsVb.drop 4 ++ wordsVc) = true := by decide +kernel
theorem wit_ElementMovesComplete : meets (wordsVb.drop 7) = true := by decide +kernel
theorem wit_SpecialFunctionsComplete : meets wordsF = true := by decide +kernel
/-- The square root of 2 in f32 and 2 to the 0.5 in f16, nearest by hand; a negative input. -/
theorem test_special_rounds : Special.elem .sqrt .f32 0 0x40000000 = 0x3FB504F3 ∧ Special.elem .exp2 .f16 1 0x3800 = 0x3DA8 ∧ Special.elem .rsqrt .bf16 1 0xBF80 = 0x7FC0 := by decide +kernel
/-- 0.5 has no result of its own under EXP2, 200.0 overflows, 1.5 is an odd multiple of 0.5, and a negative finite input. -/
theorem wit_SpecialPrecision :
    let v := fun (c : Nat) => (Special.value .exp2 (f32Val c)).1
    let overflows := fun (c : Nat) => fitVal .f32 q8 0 0 false (v c) % 0x80000000 = 0x7F800000
    (floatCodes.all fun F => decide (Special.named .exp2 (decodeElem F.1 q8 (nth F.2 7 0)) = none)) = true ∧ Special.named .exp2 (f32Val 0x43480000) = none ∧ overflows 0x43480000 ∧ ¬overflows 0x3F000000 ∧
      decodeElem .f32 q8 0x3FC00000 = .num false 12582912 1 (-23) ∧ 2 * 12582912 * 2 ^ (-23 : Int).toNat = 3 * 1 * 2 ^ (-(-23 : Int)).toNat ∧ decodeElem .f32 q8 0x3F800000 = .num false 8388608 1 (-23) ∧
      2 * 8388608 * 2 ^ (-23 : Int).toNat = 2 * 1 * 2 ^ (-(-23 : Int)).toNat ∧ (floatCodes.all fun F => decide (nth F.2 1 0 < nth F.2 6 0 ∧ nth F.2 6 0 < nth F.2 3 0 ∧ nth F.2 7 0 < nth F.2 5 0 ∧ nth F.2 5 0 < nth F.2 2 0)) = true := by
  decide +kernel
/-- The generator's first step from 1 is 2^18 + 2^13 + 2^5 + 1; an element that is representable draws nothing (R94, R95). -/
theorem test_draw_order : stepGen 1 = 0x42021 ∧ rounded .bf16 q8 3 false 1 [Val.one, .num false 1 3 0, Val.one] = ([0x3F80, 0x3EAA, 0x3F80], 0x42021) := by decide +kernel
theorem wit_StochasticRule : 0 < 3 ∧ (77 : Nat) < 256 ∧ (fspec .bf16).isSome = true ∧ (Fmt.int 8 true).isIntLike = true ∧ admits (.vAdd (hd 0 0 0 1 11) (rg 10 11 12 0 0 0 0 0)) s0 = true ∧ hMode (hd 0 0 0 1 11) = 3 := by decide +kernel

theorem wit_ConversionsComplete : meets (wordsT.take 2) = true := by decide +kernel
theorem wit_RearrangementsComplete : meets (wordsT.drop 2) = true := by decide +kernel

theorem wit_ScalarDivision :
    let h := hd 0 0 0 0 24
    let o := rg 3 4 5 0 0 0 0 0
    let dze := sys0 fun y => { y with ctrl := 1 }
    ((Instr.sDiv h o).wf && admits (.sDiv h o) s0 && admits (.sRem h o) dze) = true ∧ s0.core.sys.ctrl.getLsbD 0 = false ∧ opB dze h o = 0 ∧ dze.core.sys.ctrl.getLsbD 0 = true ∧
      opB (scalars 1 2) h o ≠ 0 := by decide +kernel
theorem wit_ResultLandsInItsRegister :
    (([Eff.sreg 3 7, .qreg 3 false 7, .kbits 3 1 1, .sys 18 5, .vecs [(5, 1)], .tapWrite 3 [(0, 9)]].all fun e =>
      let c := (pipe0 fun p => { p with flights := [flight e] }).core
      decide (c.pipe.due = [flight e]) && c.landsNow s0.wall (flight e)) = true) ∧
    ([(7, 1), (7, 2)] : List (Nat × Lane)) = [(7, 1)] ++ (7, 2) :: [] ∧ (s0.core.taps.any fun g => g.id == 3 && !g.samples.isEmpty) = true ∧ (1 : Nat) < s0.core.regs.fronts.length ∧
      (s0.core.front 0).cfg = none ∧ (s0.core.front 1).cfg = some 0xA00825 := by
  decide +kernel
/-- A tuple that a front of an f16 objective to minimise and an n16 one to maximise takes, one that has a NaN, one shut out by its equal, and one that meets a front that is full, for each of the three policies. -/
theorem wit_InsertRule :
    let x : Tuple := { o0 := 0x3C00, o1 := 0x3C00, o2 := 0, o3 := 0, payload := 1 }
    let y : Tuple := { o0 := 0x4000, o1 := 0x4000, o2 := 0, o3 := 0, payload := 2 }
    let n : Tuple := { o0 := 0x7E00, o1 := 0x3C00, o2 := 0, o3 := 0, payload := 1 }
    let cfg : BitVec 40 := 0x000825
    let nan := fun (x : Tuple) => (cfgCounted cfg).any fun j => (objVal cfg x j).isNan
    let holds : Front := { cfg := some cfg, es := [x], rej := 0, evi := 0 }
    let kept := holds.es.filter fun e => !dominates cfg y e
    nan n = true ∧ nan x = false ∧ nan y = false ∧ cfg.getLsbD 18 = false ∧ (holds.es.any fun e => ties cfg e x) = true ∧ (holds.es.any fun e => dominates cfg e y || ties cfg e y) = false ∧
      (cfg.extractLsb' 21 6).toNat + 1 ≤ kept.length ∧ cfg.extractLsb' 19 2 = 0 ∧ (0x080825 : BitVec 40).extractLsb' 19 2 = 1 ∧ (0x100825 : BitVec 40).extractLsb' 19 2 = 2 := by decide +kernel
/-- The witness before, in the order that an eviction takes its victim: the last tuple of the front, and the new one. -/
theorem wit_InsertEvicts :
    let x : Tuple := { o0 := 0x3C00, o1 := 0x3C00, o2 := 0, o3 := 0, payload := 1 }
    let y : Tuple := { o0 := 0x4000, o1 := 0x4000, o2 := 0, o3 := 0, payload := 2 }
    let cfg : BitVec 40 := 0x080825
    ([x, y] = [x] ++ y :: [] ∧ lexBefore cfg y x = false) ∧ ([y, x] = [] ++ y :: [x] ∧ lexBefore cfg x y = true) := by decide +kernel
/-- ROTW holds its fields only (R159), the bits of a lane word under a mask, and a null flag (R156). -/
theorem test_landings :
    (core0.apply (.sys 18 0xFFFFFFFFFFFFFFFF)).sys.rotw = 0x3F0F0F ∧ (core0.apply (.vecBits [(5, 0xFF00, 0x1234)])).regs.v.get 5 = 0x1200 ∧ (core0.apply (.qreg 3 true 7)).regs.qlive.get 3 = 0 := by decide +kernel
/-- CommitFrame, GroupSuccessor, LandingSyllableFrame: S ADD in s0. -/
theorem wit_CommitFrame : syl? (.sAdd (hd 0 0 0 0 24) (rg 3 4 5 0 0 0 0 0)) = some { cls := 0, opc := 0, h := hd 0 0 0 0 24, body := .reg (rg 3 4 5 0 0 0 0 0) } ∧ s0.core.pipe.after = [] ∧
    s0.core.pipe.loop = none ∧ s0.core.pipe.fmtrPend = [] ∧ (hd 0 0 0 0 24).stop = true := by decide +kernel
theorem wit_LandingSyllableFrame : Lands (.sAdd (hd 0 0 0 0 24) (rg 3 4 5 0 0 0 0 0)) s0 1 (.sreg 3 0) := rfl
theorem wit_BranchesComplete :
    let h := hd 0 0 0 0 28
    let o := rg 0 4 5 0 2 0 0 4
    ((Instr.brc h o).wf && admits (.brc h o) s0) = true ∧ condition o.sub (opA s0 h o) (asOperand h (s0.core.sreg o.b.toNat)) = false ∧
      admits (.brc h o) (scalars 1 2) = true ∧ condition o.sub (opA (scalars 1 2) h o) (asOperand h ((scalars 1 2).core.sreg o.b.toNat)) = true := by decide +kernel
theorem wit_LoopStartsNest :
    let h := hd 0 0 0 0 0
    admits (.loop h (rg 0 0 0 0 0 2 0 0xC2)) s0 = true ∧ recKind (s0.core.entry ((rg 0 0 0 0 0 2 0 0xC2).imm.extractLsb' 6 8).toNat) = 3 ∧ h.stop = true ∧ s0.core.pipe.after = [] ∧ s0.core.pipe.loop = none ∧
      s0.core.pipe.target = none ∧ admits (.loop h (rg 0 0 0 0 0 2 0 0x42)) s0 = true ∧ recKind (s0.core.entry ((rg 0 0 0 0 0 2 0 0x42).imm.extractLsb' 6 8).toNat) ≠ 3 := by decide +kernel
/-- A NOP in the body of a nest of bounds 3 and 1: within the body, at an end that raises i0, at one that raises i1, and at the last. -/
def nesting (ix : Store 16) (groups : Nat) : State :=
  with0 fun c => { c with
    pipe := { c.pipe with loop := some { start := 0x1010, groups := groups, pos := 0, bounds := [3, 1, 0, 0, 0, 0], susp := none, rotw := 0 } }
    regs := { c.regs with idx := ix } }
theorem wit_NestAdvances :
    let ends := fun (s : State) (n : Nat) => (List.range n).all fun d => decide (nth [3, 1, 0, 0, 0, 0] d 0 ≤ (s.core.regs.idx.get d).toNat)
    ((syl? (.nop (hd 0 0 0 0 0) (rg 0 0 0 0 0 0 0 0))).any fun y => y.h.stop) = true ∧ s0.core.pipe.after = [] ∧ s0.core.pipe.target = none ∧
      (nesting [] 2).core.pipe.loop.map (fun n => n.pos + 1 < n.groups) = some True ∧ ends (nesting [] 1) 1 = false ∧ ends (nesting [(0, 3)] 1) 1 = true ∧ ends (nesting [(0, 3)] 1) 2 = false ∧
      ends (nesting [(0, 3), (1, 1)] 1) 6 = true := by refine ⟨by decide +kernel, rfl, rfl, ?_, by decide +kernel, by decide +kernel, by decide +kernel, by decide +kernel⟩; simp [nesting, with0]
theorem wit_TagSyllables :
    let h := hd 0 0 0 0 0
    let o := rg 3 10 0 0 0 0 0 0
    s0.core.pipe.glen = 1 ∧ h.sbwait = 0 ∧ (Instr.waitall h o).wf = true ∧ (Instr.waitany h o).wf = true ∧ s0.core.regs.tagr &&& s0.core.sreg o.a.toNat ≠ s0.core.sreg o.a.toNat ∧
      s0.core.regs.tagr &&& s0.core.sreg o.a.toNat = 0 ∧ s0.core.sreg o.a.toNat ≠ 0 := by decide +kernel
/-- Each kind of act at the commit of a group, and completed commands to show. -/
theorem wit_TagsChange :
    let y := hd 0 0 0 0 24
    let d : TagDone := { uid := 1, tag := 4, err := true, insert := none, wrote := [] }
    let done := dev0 fun v => { v with tagDone := [d, { d with uid := 2, err := false }] }
    ((syl? (.sAdd y (rg 3 4 5 0 0 0 0 0))).any fun y => y.h.stop) = true ∧ (pipe0 fun p => { p with after := [.tagPend 16] }).core.pipe.after = [.tagPend 16] ∧
      (pipe0 fun p => { p with after := [.tagIdle 16] }).core.pipe.after = [.tagIdle 16] ∧ (pipe0 fun p => { p with after := [.waited 16] }).core.pipe.after = [.waited 16] ∧
      done.core.dev.tagDone = [d] ++ { d with uid := 2, err := false } :: [] ∧ (done.core.dev.tagDone.all fun d => d.insert.isNone) = true ∧ done.core.seat.runs = true ∧ done.core.pipe.mark = .running ∧
      done.core.sys.budget ≠ 0 ∧ done.core.pipe.blocked done.wall = none := by decide +kernel
theorem wit_WorkRequestsComplete : taskOf s0 s0.core.seat.fn s0.core.seat.task = some task0 := by decide +kernel
theorem wit_WorkRequestsServed :
    let r : Request := { cid := some 0, seq := 3, amount := none, due := 0 }
    let at_ := fun (t : Task) (e : Eff) => { (pipe0 fun p => { p with flights := [flight e] }) with fns := [{ Func.reset 0 with tasks := [t] }] }
    let one := { task0 with reqs := [r] }
    let out := { task0 with reqs := [r], delivered := 5 }
    let back := { task0 with reqs := [r], returned := [1] }
    let wide := { task0 with reqs := [r], widths := [2], counts := [4] }
    (at_ one (.nextWait 2)).core.pipe.due = [flight (.nextWait 2)] ∧ taskOf (at_ one (.nextWait 2)) 0 0 = some one ∧ one.returned = [] ∧ one.delivered < one.total ∧
      taskOf (at_ back (.nextWait 2)) 0 0 = some back ∧ back.returned = 1 :: [] ∧ back.reqs = [r] ∧
      taskOf (at_ out (.nextWait 2)) 0 0 = some out ∧ out.total ≤ out.delivered ∧ (at_ one (.growWait 3 5 4)).core.pipe.due = [flight (.growWait 3 5 4)] ∧
      nth one.counts (one.fields - 1) 1 + 4 ≤ 2 ^ nth one.widths (one.fields - 1) 0 ∧ 2 ^ nth wide.widths (wide.fields - 1) 0 < nth wide.counts (wide.fields - 1) 1 + 4 ∧
      (at_ one (.nextWait 2)).core.pipe.held1 = [] ∧ (at_ one (.nextWait 2)).core.pipe.held2 = [] ∧ (at_ one (.nextWait 2)).core.pipe.flights = [flight (.nextWait 2)] ∧
      (at_ one (.nextWait 2)).core.landsNow 0 (flight (.nextWait 2)) = true ∧ (at_ one (.growWait 3 5 4)).core.landsNow 0 (flight (.growWait 3 5 4)) = true ∧ (at_ one (.nextWait 2)).core.pipe.back = none := by decide +kernel
theorem wit_TrapEntry : admits (.trap (hd 0 0 0 0 0) (rg 0 0 0 0 0 2 0 7)) s0 = true ∧ s0.core.sys.tl < 2 ∧ s0.core.sys.tvec ≠ 0 := by decide +kernel
theorem wit_TrapAtLevelTwoKills : (sys0 fun y => { y with tl := 2 }).core.sys.tl = 2 ∧ (sys0 fun y => { y with tvec := 0 }).core.sys.tvec = 0 := ⟨rfl, rfl⟩
theorem wit_ReturnFromTrapCompletes :
    let h := hd 0 0 0 0 0
    let o := rg 0 0 0 0 0 0 0 0
    admits (.rte h o) (sys0 fun y => { y with tl := 1 }) = true ∧ admits (.rte h o) (sys0 fun y => { y with tl := 2 }) = true ∧ h.stop = true ∧ s0.core.pipe.after = [] ∧ s0.core.pipe.loop = none := by
  decide +kernel
theorem wit_ForbiddenLevelsTrap :
    let h := hd 0 0 0 0 0
    let o := rg 0 0 0 0 0 0 0 0
    let t := sys0 fun y => { y with tl := 1 }
    let free := fun (s : State) (i : Instr) => i.wf && decide (groupHold s [i] = none)
    s0.core.pipe.glen = 1 ∧ s0.core.pipe.overflow = [] ∧ s0.core.sys.tl = 0 ∧ t.core.sys.tl ≠ 0 ∧ free s0 (.rte h o) = true ∧ free t (.tick h o) = true ∧ free t (.phase h o) = true ∧
      free t (.loop h (rg 0 0 0 0 0 2 0 0)) = true ∧ free t (.mma (hd 0 0 0 0 4) (ar 1 0 1 9 0 0 1 0 0)) = true ∧ free t (.mmac (hd 0 0 0 0 4) (ar 1 2 0 0 0 0 1 0 2)) = true ∧
      free t (.ldw (hd 0 0 0 0 4) (ar 0 0 1 9 0 0 0 0 0)) = true ∧ free t (.mmodeAlt h (ar 0 0 0 0 0 0 0 0 0)) = true ∧ free t (.mmodeExcl h (ar 0 0 0 0 1 0 0 0 0)) = true := by decide +kernel
theorem wit_SetFormatCompletes :
    (pipe0 fun p => { p with fmtrPend := [{ left := 1, val := 16 }] }).core.pipe.fmtrPend = [{ left := 0 + 1, val := 16 }] ∧ (pipe0 fun p => { p with fmtrPend := [{ left := 3, val := 16 }] }).core.pipe.loop = none := by
  decide +kernel
theorem wit_VectorElementOperationsComplete :
    admits (.abs (hd 0 0 0 1 20) (rg 10 11 0 0 0 0 0 0)) s0 = true ∧ (hFmt (hd 0 0 0 1 20)).isIntLike = true ∧ admits (.neg (hd 0 0 0 1 4) (rg 10 11 0 0 0 0 0 0)) s0 = true ∧ (hFmt (hd 0 0 0 1 4)).isIntLike = false := by
  decide +kernel
theorem wit_ReductionsComplete :
    meets (wordsDa ++ wordsDb) = true ∧ admits (.rclr (hd 0 0 0 0 0) (rg 2 0 0 0 0 0 0 0)) s0 = true ∧ admits (.rclr (hd 0 0 0 0 0) (rg 2 0 0 0 3 0 0 0)) s0 = true ∧
      ([0, 1, 2, 3, 4].all fun u => admits (.rdrain (hd 0 0 0 1 0) (rg 10 2 0 0 u 0 0 0)) s0) = true ∧ (List.replicate 16 ([] : List (Lane × Lane))).length = 16 := by decide +kernel
/-- −0 and +0 with one index leave one result in either order (R277). -/
theorem test_zero_tie : WordKind.pickCand .f32 (0, 4) [(0x80000000, 4)] = WordKind.pickCand .f32 (0x80000000, 4) [(0, 4)] := by decide +kernel
/-- Values of F32 that are NaN, ordinary and zero. -/
theorem wit_MinMaxAndConditions :
    let v := decodeElem .f32 s0.core.q
    (v 0x7FC00000).isNan = true ∧ (v 0x3F800000).isNan = false ∧ (v 0x80000000).isNan = false ∧ (v 0).isZero = true ∧ (v 0x80000000).isZero = true ∧ Fmt.f32 ≠ .q := by decide +kernel
/-- Lane inputs of sixteen lanes of which one is active, and a NaN among them. -/
theorem wit_LatchExtremesLand :
    let ins : List (List (Lane × Lane)) := [(0x3F800000, 0), (0x7FC00000, 1)] :: List.replicate 15 []
    ins.length = 16 ∧ (nth ins 0 []).isEmpty = false ∧ (nth ins 1 []).isEmpty = true ∧ (decodeElem .f32 s0.core.q 0x7FC00000).isNan = true ∧ (decodeElem .f32 s0.core.q 0x3F800000).isNan = false := by decide +kernel
/-- Fronts 1 and 2 configured alike, 0 and 3 not, and front 2 with another kind. -/
theorem wit_FrontSyllablesComplete :
    let h := hd 0 0 0 2 0
    let k := hd 0 0 0 0 0
    let other := with0 fun c => { c with regs := { c.regs with fronts := [Front.empty, frontOne, { frontOne with cfg := some 0xA00025 }] } }
    admits (.fins h (rg 1 20 0 0 0 0 0 0)) s0 = true ∧ (s0.core.front 1).cfg ≠ none ∧ admits (.fins h (rg 3 20 0 0 0 0 0 0)) s0 = true ∧ (s0.core.front 3).cfg = none ∧
      admits (.fmerge k (rg 3 0 1 0 0 0 0 0)) s0 = true ∧ admits (.fmerge k (rg 3 1 0 0 0 0 0 0)) s0 = true ∧ admits (.fmerge k (rg 3 1 2 0 0 0 0 0)) s0 = true ∧ admits (.fmerge k (rg 3 1 2 0 0 0 0 0)) other = true ∧
      (s0.core.front 0).cfg = none ∧ (s0.core.front 1).cfg = some 0xA00825 ∧ (s0.core.front 2).cfg = some 0xA00825 ∧ (other.core.front 2).cfg = some 0xA00025 ∧
      (0xA00825 : BitVec 40).extractLsb' 0 18 ≠ (0xA00025 : BitVec 40).extractLsb' 0 18 := by decide +kernel
theorem wit_FrontClear : admits (.fclr (hd 0 0 0 0 0) (rg 1 0 0 0 0 0 0 0)) s0 = true ∧ (1 : BitVec 6).toNat < s0.core.regs.fronts.length ∧ 1 < (2 : BitVec 4).toNat := by decide +kernel
/-- Front images at byte 64 of record 1, which is a buffer, sound and with a count of 65; of record 0, a nest; below and past the scratchpad, in a compressed region, and in a granule that is lost. -/
theorem wit_FrontImagesComplete :
    let k := hd 0 0 0 0 0
    let sv := rg 0 9 1 0 0 0 0 0x4001
    let ld := rg 1 9 0 0 0 0 0 0x4001
    let bad := rg 0 9 1 0 0 0 0 0x4000
    let torn := sp0 fun p => { p with data := [(69, 65)], valid := [(1, 1)] }
    let packed := sp0 fun p => { p with summary := [(0, 1)] }
    let lost := sp0 fun p => { p with valid := [(1, 1)], erased := [(1, 2)] }
    let at_ := fun (w : Word) => with0 fun c => { c with regs := { c.regs with s := [(9, w)] } }
    let e := fun (s : State) (o : LReg) => 64 * ((64 * recBase (s.core.entry (o.imm.extractLsb' 0 8).toNat) + (s.core.sreg o.a.toNat).toInt + (o.imm.extractLsb' 8 23).toNat) / 64)
    let words := (List.range 208).map fun k : Nat => (64 + 4 * (k : Int))
    ([s0, torn, packed, lost, at_ 6291456, at_ 0xFFFFFFFFFFFFFF00].all fun s => admits (.fsave k sv) s && admits (.fload k ld) s) = true ∧ admits (.fsave k bad) s0 = true ∧ recKind (s0.core.entry 1) = 1 ∧ recKind (s0.core.entry 0) ≠ 1 ∧
      e s0 sv = 64 ∧ e (at_ 0xFFFFFFFFFFFFFF00) sv < 0 ∧ 6291456 < e (at_ 6291456) sv + 832 ∧ packed.core.sp.compressed 64 = true ∧ s0.core.sp.sound = true ∧ lostGranules s0 words 4 = [] ∧ lostGranules torn words 4 = [] ∧
      (lostGranules lost words 4).head? = some 1 ∧ (readByte torn 69).toNat % 128 = 65 ∧ readByte s0 69 = 0 := by decide +kernel
/-- Signal 3 (own) and 4 (bridged in) held, 9 not; cluster-vector 1 absent; lags 2, 4 and 0. -/
theorem wit_TapReadsComplete :
    let h := hd 0 0 0 1 0
    let g := signal 3 0
    let b := signal 4 1
    admits (.trd h (tp 4 9 0 0 0 2 0)) s0 = true ∧ s0.core.sig 9 = none ∧ s0.core.sig 3 = some g ∧ s0.core.sig 4 = some b ∧ tapPresent g h 1 = false ∧ tapPresent g h 0 = true ∧ tapPresent b h 0 = true ∧
      b.bridged = true ∧ g.bridged = false ∧ g.depth ≤ 4 ∧ 2 < g.depth ∧ 2 < b.depth ∧ admits (.trdw h (tp 4 4 0 0 0 0 2)) s0 = true ∧ (Instr.trdw h (tp 4 4 0 0 0 0 2)).wf = true ∧
      (g.samples.all fun x => x.bad.isNone) = true ∧ admits (.thist (hd 0 0 0 0 0) (tp 4 9 0 0 0 0 0)) s0 = true := by decide +kernel
/-- A sample of signal 3 that cannot be corrected, at lag 1. -/
theorem wit_TapReadsBad :
    let x : Sample := { words := [], bad := some (0, 0) }
    let g := { signal 3 0 with samples := [{ words := [], bad := none }, x] }
    let s := with0 fun c => { c with taps := [g] }
    admits (.trd (hd 0 0 0 1 0) (tp 4 3 0 0 0 1 0)) s = true ∧ s.core.sig 3 = some g ∧ tapPresent g (hd 0 0 0 1 0) 0 = true ∧ 1 < g.depth ∧ g.bridged = false ∧ 1 < history g s.core.sys.now ∧ g.samples[1]? = some x ∧ x.bad ≠ none := by
  decide +kernel
theorem wit_TapWritesComplete :
    let h := hd 0 0 0 1 0
    let g := signal 3 0
    let early := sys0 fun y => { y with now := 0 }
    admits (.twr h (tp 4 9 0 0 0 0 0)) s0 = true ∧ s0.core.sig 9 = none ∧ admits (.twr h (tp 4 3 0 0 0 0 0)) s0 = true ∧ s0.core.sig 3 = some g ∧ tapPresent g h 1 = false ∧ tapPresent g h 0 = true ∧
      ¬((0 : Nat) ≠ 0 ∨ g.replica = true ∨ g.bridged = true ∨ faceIndex g s0.core.sys.now < 0) ∧ (signal 4 1).bridged = true ∧ admits (.twr h (tp 4 4 0 0 0 0 0)) s0 = true ∧ admits (.twr h (tp 4 3 0 0 0 1 0)) s0 = true ∧
      admits (.twra h (tp 4 3 0 0 0 0 0)) early = true := by decide +kernel


/-- LD and LDS through buffer 1, through nest 0, with a nest that is none, and past the scratchpad. -/
theorem wit_ScratchLoadsComplete :
    let h := hd 0 0 0 1 0
    let g := hd 0 0 0 0 20
    let places := fun (s : State) (o : LMem) => (memLanes s h o).map (lanePlaceOf s o)
    let ok := mm 4 1 2 0 0 3 64
    let kind := fun (o : LMem) => recKind (s0.core.entry o.rcd.toNat)
    let far := mm 4 1 1 6 0 0 0
    let away := with0 fun c => { c with regs := { c.regs with s := [(6, 0x7FFFFF)] } }
    ((Instr.ld h ok).wf && admits (.ld h ok) s0 && (Instr.lds g (mm 4 1 0 0 0 0 64)).wf && admits (.lds g (mm 4 1 0 0 0 0 64)) s0 && admits (.ld h (mm 4 0 0 0 0 0 64)) s0 && admits (.ld h (mm 4 1 2 0 0 1 64)) s0 &&
      admits (.ld h far) away) = true ∧ MemPasses s0 ok (places s0 ok) ∧ s0.core.sp.erased = [] ∧ MemPasses s0 (mm 4 1 0 0 0 0 64) [scalarPlaceOf s0 (mm 4 1 0 0 0 0 64) 2] ∧
      ¬(kind (mm 4 0 0 0 0 0 64) = 1 ∨ kind (mm 4 0 0 0 0 0 64) = 2) ∧ recKind (s0.core.entry (nestOf s0 (mm 4 1 2 0 0 1 64))) ≠ 3 ∧
      ((places away far).find? fun e => decide (e < 0 ∨ 6291456 ≤ e)).isSome = true := by (unfold MemPasses; decide +kernel)
/-- A granule of the block that LD and LDS read is uncorrectable: bank 1 of row 0. -/
theorem wit_ScratchLoadsLost :
    let h := hd 0 0 0 1 0
    let o := mm 4 1 0 0 0 0 64
    let bad := sp0 fun p => { p with valid := [(1, 1)], erased := [(1, 2)] }
    (admits (.ld h o) bad && admits (.lds (hd 0 0 0 0 20) o) bad) = true ∧ (lostGranules bad ((memLanes bad h o).map (lanePlaceOf bad o)) 4).head? = some 1 ∧ (lostGranules bad [scalarPlaceOf bad o 8] 8).head? = some 1 ∧
      lostGranules s0 [scalarPlaceOf s0 o 8] 8 = [] := by decide +kernel
theorem wit_ScratchStoresComplete :
    let h := hd 0 0 0 1 0
    let ok := mm 4 1 0 0 0 0 64
    let win := mm 4 2 0 0 0 0 64
    let places := fun (s : State) (o : LMem) => (memLanes s h o).map (lanePlaceOf s o)
    let packed := sp0 fun p => { p with summary := [(0, 1)] }
    ((Instr.st h ok).wf && admits (.st h ok) s0 && admits (.st h win) s0 && admits (.st h ok) packed) = true ∧ MemPasses s0 ok (places s0 ok) ∧ MemPasses s0 win (places s0 win) ∧ MemPasses packed ok (places packed ok) ∧
      recKind (s0.core.entry 1) = 1 ∧ recKind (s0.core.entry 2) = 2 ∧ ((places s0 ok).all fun e => !s0.core.sp.compressed e.toNat) = true ∧
      ((places packed ok).find? fun e => packed.core.sp.compressed e.toNat).isSome = true := by (unfold MemPasses; decide +kernel)
theorem wit_StoreLands : ([(3, 5), (4, 6)] : List (Nat × Byte)) = [(3, 5)] ++ (4, 6) :: [] ∧ ∀ b' : Byte, (4, b') ∉ ([] : List (Nat × Byte)) := ⟨rfl, fun _ h => nomatch h⟩
/-- MMA of buffer 1 and of signal 3, MMAC, LDW; with the array free and taken. -/
theorem wit_MatrixSyllablesComplete :
    let h := hd 0 0 0 0 4
    let sp := ar 1 0 1 9 64 0 1 0 0
    let tap := ar 1 1 3 0 0 0 1 0 0
    let c := s0.core
    let busy := sys0 fun y => { y with amode := 3 }
    let b := operandBlock s0 sp 16384
    let w := operandBlock s0 (ar 0 0 1 9 64 0 0 0 0) 1024
    ((firstFault [arrayTaken s0, c.recordFault b.rcd, operandRange b, c.weightFault sp, c.blockLost b]).isNone &&
        (firstFault [arrayTaken s0, c.recordFault w.rcd, operandRange w, c.blockLost w]).isNone && sp.srck == 0 && tap.srck != 0 &&
        (operandRange (operandBlock (with0 fun c => { c with regs := { c.regs with s := [(9, 6291392)] } }) sp 16384)).isSome) = true ∧ admits (.mma h sp) s0 = true ∧ admits (.mma h tap) s0 = true ∧ firstFault [arrayTaken s0, c.weightFault (ar 1 2 0 0 0 0 1 0 2)] = none ∧
      (firstFault [arrayTaken s0, (c.tapCheck 3 0 [] 0 15).map fun code => (code, tapFaultValue 3 15), c.weightFault tap]).isSome = true ∧
      admits (.mmac h (ar 1 2 0 0 0 0 1 0 2)) busy = true ∧ (firstFault [arrayTaken busy, busy.core.weightFault (ar 1 2 0 0 0 0 1 0 2)]).isSome = true := by decide +kernel
/-- The partner holds exclusive mode for a core in 0b11 and for one in 0b00 beside core 1 in 0b10, and not for a core without one. -/
theorem wit_PartnerExclusive :
    let holder := { StreamCore.reset 1 with seat := { (StreamCore.reset 1).seat with status := .live }, sys := { Sys.reset with amode := 2 } }
    partnerExclusive (sys0 fun y => { y with amode := 3 }) ∧ partnerExclusive { s0 with cores := [holder] } ∧ ¬partnerExclusive s0 ∧ admits (.mmodeAlt (hd 0 0 0 0 0) (ar 0 0 0 0 0 0 0 0 0)) { s0 with cores := [holder] } = true := by
  refine ⟨Or.inl rfl, Or.inr ⟨_, rfl, rfl, rfl⟩, ?_, by decide +kernel⟩
  rintro (h | ⟨p, h, -⟩)
  · exact absurd h (by decide +kernel)
  · exact nomatch h
/-- MMAC of a tile as mxe4m3 and as .q. -/
theorem wit_TileElements :
    let q := with0 fun c => { c with wbuf := { c.wbuf with fcode := some 12 } }
    let o := ar 1 2 0 0 0 0 1 0 2
    admits (.mmac (hd 0 0 0 0 64) o) s0 = true ∧ firstFault [arrayTaken s0, s0.core.weightFault o] = none ∧ (hFmt (hd 0 0 0 0 64)).isMx = true ∧ admits (.mmac (hd 0 0 0 0 48) { o with bfmt := 12 }) q = true ∧
      firstFault [arrayTaken q, q.core.weightFault { o with bfmt := 12 }] = none ∧ (hFmt (hd 0 0 0 0 48)).isIntLike = true := by decide +kernel
/-- A signal of depth 16, of which a tap window of sixteen samples can be read. -/
theorem wit_MatrixTapWindow :
    let deep := with0 fun c => { c with taps := [{ desc := BitVec.ofNat 128 (3 * 2 ^ 120 + 255 * 2 ^ 112 + 16 * 2 ^ 85 + 2 ^ 77 + 16 * 2 ^ 59), replica := false, samples := [] }] }
    let tap := ar 1 1 3 0 0 0 1 0 0
    firstFault [arrayTaken deep, (deep.core.tapCheck 3 0 [] 0 15).map fun code => (code, tapFaultValue 3 15), deep.core.weightFault tap] = none := by decide +kernel
def job0 (f : Fmt) : Job :=
  { uid := 5, mt := 1, sat := false, fa := f, qa := s0.core.q, aw := f.width s0.core.q, rows := List.replicate 256 0, scales := [], w := s0.core.wbuf }
theorem wit_MatrixCommit :
    let c := fun (f : Fmt) => { core0 with jobs := [job0 f] }
    (c .q).jobs.find? (fun x => x.uid == (job0 .q).uid) = some (job0 .q) ∧ (c .f16).jobs.find? (fun x => x.uid == (job0 .f16).uid) = some (job0 .f16) ∧ (job0 .f16).rows.length = 256 ∧ (job0 .q).fa.isIntLike = true ∧
      (job0 .f16).fa.isIntLike = false ∧ (job0 .f16).fa.isMx = false ∧ (job0 .f16).w.fmt.isMx = false ∧
      (((List.range 32).map fun k => (decodeElem .f16 s0.core.q (nth (rowCodes 16 (nth (job0 .f16).rows 0 0) 0) k 0)).mul (decodeElem (job0 .f16).w.fmt (job0 .f16).w.q ((job0 .f16).w.code k 0))).all
        fun p => !p.isNan && !p.isInf) = true := by decide +kernel
/-- An mxe4m3 job with a NaN scale and one with 2^1, and an f16 job that multiplies +∞ by 1 (R99). -/
theorem wit_MatrixScales :
    let mx := fun (e : Byte) => { job0 (.mx .e4m3) with scales := [List.replicate 256 e] }
    let inf := { job0 .f16 with rows := List.replicate 256 0x7C00, w := { s0.core.wbuf with rows := [0x3C00] } }
    let ps := fun (j : Job) => (List.range 32).map fun k => (decodeElem j.fa j.qa (nth (rowCodes j.aw (nth j.rows 0 0) 0) k 0)).mul (decodeElem j.w.fmt j.w.q (j.w.code k 0))
    (mx 0xFF).fa.isMx = true ∧ (mx 0xFF).fa.isIntLike = false ∧ nth (nth (mx 0xFF).scales 0 []) 0 0 = 0xFF ∧ nth (nth (mx 0x80).scales 0 []) 0 0 = 0x80 ∧ ((ps (mx 0x80)).all fun p => !p.isNan && !p.isInf) = true ∧
      Val.inf false ∈ ps inf ∧ Val.inf true ∉ ps inf ∧ ((ps inf).all fun p => !p.isNan) = true := by decide +kernel
theorem wit_AccumulatorSyllablesComplete :
    let held := sys0 fun y => { y with amode := 3 }
    let told := sys0 fun y => { y with amodeSet := some s0.wall }
    admits (.mmodeExcl (hd 0 0 0 0 0) (ar 0 0 0 0 1 0 0 0 0)) told = true ∧ told.core.sys.amodeSet = some told.wall ∧ s0.core.sys.amodeSet ≠ some s0.wall ∧
    admits (.mmodeExcl (hd 0 0 0 0 0) (ar 0 0 0 0 1 0 0 0 0)) held = true ∧ held.core.sys.amode = 3 ∧ s0.core.sys.amode ≠ 3 ∧ admits (.mmodeAlt (hd 0 0 0 0 0) (ar 0 0 0 0 0 0 0 0 0)) held = true := by decide +kernel
theorem wit_ScaleSyllablesComplete :
    let k := hd 0 0 0 0 0
    let low := with0 fun c => { c with regs := { c.regs with s := [(9, 0xFFFFFFFFFFFFFF00)] } }
    (match s0.core.blockOf (.scld k (sl 3 0 1 9 64)), low.core.blockOf (.scld k (sl 3 0 1 9 64)) with
    | some b, some x => admits (.scld k (sl 3 0 1 9 64)) s0 && admits (.scld k (sl 3 0 1 9 64)) low && admits (.scld k (sl 3 0 0 9 64)) s0 && decide (0 ≤ b.start ∧ b.start + 256 ≤ 6291456 ∧ x.start < 0)
    | _, _ => false) = true ∧ recAccess (s0.core.entry 1) = true ∧ recAccess (s0.core.entry 0) = false ∧ s0.core.sp.erased = [] := by decide +kernel
/-- A block past the end of the scratchpad, and one that meets an uncorrectable granule. -/
theorem wit_ScaleLoadTraps :
    let i := Instr.scld (hd 0 0 0 0 0) (sl 3 0 1 9 64)
    let high := with0 fun c => { c with regs := { c.regs with s := [(9, 6291456)] } }
    let bad := sp0 fun p => { p with valid := [(2, 1)], erased := [(2, 2)] }
    (match high.core.blockOf i, bad.core.blockOf i, s0.core.blockOf i with
    | some b, some x, some y => admits i high && admits i bad && decide (6291456 < b.start + 256) && decide ((bad.core.blockGranules x).find? bad.core.sp.lost = some 2) && ((s0.core.blockGranules y).find? s0.core.sp.lost).isNone
    | _, _, _ => false) = true := by decide +kernel

/-! Device memory. Extent 1 is declared with all rights, 3 is not declared; s9 is zero. -/

def ext1 (g : Ext → Ext) : State := dev0 fun d => { d with exts := [Ext.none, g (openExt 0), openExt 3] }
theorem wit_DeviceAccessTraps :
    let h := hd 0 1 2 0 28
    let i := fun (o : LEmem) => Instr.ldd h o
    let at_ := fun (x off : Nat) => em 5 0 0 9 x 0 0 3 0 0 off
    admits (i (at_ 3 8)) s0 = true ∧ (devExtent s0 (at_ 3 8)).declared = false ∧ (devExtent s0 (at_ 1 8)).declared = true ∧ admits (i (at_ 1 5000)) s0 = true ∧ ¬(devOffset s0 (at_ 1 5000) + devBytes (at_ 1 5000) ≤ 4096) ∧
      mayRead (devExtent (ext1 fun e => { e with rd := false }) (at_ 1 8)) = false ∧ mayWrite (devExtent (ext1 fun e => { e with wr := false }) (at_ 1 8)) = false ∧
      mayAtomic (devExtent (ext1 fun e => { e with at_ := false }) (at_ 1 8)) = false ∧ (devExtent (ext1 id) (at_ 2 8)).lcreq = 3 ∧ admits (.lddP (hd 0 0 0 0 28) (em 5 0 0 9 2 0 0 3 1 0 8)) (ext1 id) = true ∧
      devOffset s0 (at_ 1 4) % devBytes (at_ 1 4) ≠ 0 ∧ admits (.atomAdd h (at_ 1 4)) s0 = true := by decide +kernel
theorem wit_DeviceAccessesComplete :
    let o := em 5 6 0 9 1 0 0 3 0 0 8
    (o.x.toNat < 16 ∧ (devExtent s0 o).declared = true ∧ 0 ≤ devOffset s0 o ∧ devOffset s0 o + devBytes o ≤ (devExtent s0 o).len ∧ mayRead (devExtent s0 o) = true ∧ mayWrite (devExtent s0 o) = true ∧
      mayAtomic (devExtent s0 o) = true ∧ (devExtent s0 o).lcreq ≠ 3 ∧ (devExtent s0 o).perAccess = false ∧ devOffset s0 o % devBytes o = 0) ∧ s0.core.dev.pend.length < 65536 ∧ (em 6 10 12 9 1 2 3 4 0 0 16).sz = 4 ∧
      devOffset s0 (em 6 10 12 9 1 2 3 4 0 0 16) % devBytes (em 6 10 12 9 1 2 3 4 0 0 16) = 0 := by decide +kernel
/-- s0 with its one run of extent 1 changed. -/
def run1 (g : Run → Run) : State := dev0 fun d => { d with runs := [g (pageRun 1), pageRun 16] }
/-- s0 with extent 1 translated per access, its pages absent. -/
def lazy1 : State := dev0 fun d => { d with exts := [Ext.none, { openExt 0 with perAccess := true }] }
/-- Lookups that find the page, refuse it, and hold it on a migrating page; no acquire is open. -/
theorem wit_AccessLookups :
    (match (access s0 s0.core 1 8 8 needRead).1, (access s0 s0.core 1 8 8 needWrite).1 with
    | .ok a, .ok b => decide (a = (List.range 8).map (0x10008 + ·) ∧ b = a)
    | _, _ => false) = true ∧
    ([needRead, needWrite].all fun n => match (access (run1 fun r => { r with refuse := some 1 }) (run1 fun r => { r with refuse := some 1 }).core 1 8 8 n).1 with
    | .error (.refused d) => d == 1
    | _ => false) = true ∧
    ([needRead, needWrite].all fun n => match (access (run1 fun r => { r with mg := true }) (run1 fun r => { r with mg := true }).core 1 8 8 n).1 with
    | .error .hold => true
    | _ => false) = true ∧
    placesOf (run1 fun r => { r with mg := true }) (run1 fun r => { r with mg := true }).core 1 8 8 = some ((List.range 8).map (0x10008 + ·)) ∧ s0.core.dev.vars = [] := by decide +kernel
/-- A lookup that raises a request, for either access. -/
theorem wit_AccessRequests (n : Nat) (hn : n = needRead ∨ n = needWrite) : (access lazy1 lazy1.core 1 8 8 n).1 = .error (.request 0) := by
  have h : ∀ pick, translate { lazy1 with draws := lazy1.draws + 1 } (nth lazy1.fns 0 (Func.reset 0)) pick 8 = .absent 1 8 none := fun pick => by
    rw [translate_current _ _ pick 8 (by decide) (by decide)]
    rfl
  have hf : fnOf lazy1 lazy1.core.seat.fn = some (nth lazy1.fns 0 (Func.reset 0)) := by decide +kernel
  have hx : lazy1.core.dev.extent 1 = { openExt 0 with perAccess := true } := by decide +kernel
  rcases hn with rfl | rfl <;> simp [access, pieces, lookPieces, lookPage, hx, hf, openExt, h] <;> rfl
/-- The newest pending store to a byte, an own write newer than the snapshot, and neither; a load that waits with its value, and with what it reads. -/
theorem wit_PlainLoadRule :
    let p : PendStore := { seq := 1, phase := 0, x := 1, off := 8, bytes := [5], req := none }
    let w : OwnWrite := { seq := 2, stamp := 9, pa := 0x10010, val := 6 }
    let s := dev0 fun d => { d with pend := [p], own := [w] }
    let v : VarOp := { seq := 3, kind := .load, x := 1, off := 8, n := 1, sg := false, d := 3, a := 0, b := 0, c := 0, sb := none, scope := 0, ord := 0, fixed := some 7, view := none, stage := .resolving none, due := 0 }
    pendBytes s s.core 3 = [] ++ (0x10008, 5) :: [] ∧ (∀ b, (0x10010, b) ∉ pendBytes s s.core 3) ∧ w ∈ s.core.dev.own ∧ s.core.dev.snapStamp < w.stamp ∧ w.seq < 3 ∧ plainByte s s.core 3 0x10008 = 5 ∧ plainByte s s.core 3 0x10010 = 6 ∧
      coreOf s 0 = some s.core ∧ v.kind = .load ∧ v.fixed = some 7 ∧ ({ v with fixed := none, view := some s.core.dev.asRead } : VarOp).view = some s.core.dev.asRead ∧ (match (access s s.core v.x v.off v.n needRead).1 with
      | .ok pas => decide (pas = [0x10008])
      | _ => false) = true := by
  refine ⟨?_, fun b => ?_, ?_, ?_, ?_, ?_, ?_, ?_, ?_, ?_, ?_, ?_⟩ <;> first | decide +kernel | skip
  rw [show pendBytes (dev0 fun d => { d with pend := [{ seq := 1, phase := 0, x := 1, off := 8, bytes := [5], req := none }], own := [{ seq := 2, stamp := 9, pa := 0x10010, val := 6 }] })
    (dev0 fun d => { d with pend := [{ seq := 1, phase := 0, x := 1, off := 8, bytes := [5], req := none }], own := [{ seq := 2, stamp := 9, pa := 0x10010, val := 6 }] }).core 3 = [(0x10008, 5)] by decide +kernel]
  simp
/-- The core at turn issues a group of two syllables, one of which is a TICK. -/
def ticking (s : State) : State := s.onPipe fun p => { p with ticks := true, glen := 2 }
/-- Accesses of a TICK group: the places of their bytes are known, and a promised one meets a marked run, or none. -/
theorem wit_TickGroupAccesses :
    let o := em 5 6 0 9 1 0 0 3 0 0 8
    let marked := run1 fun r => { r with marked := true }
    let h := hd 0 0 0 0 44
    ([ticking s0, ticking marked].all fun s => decide (s.core.pipe.ticks = true ∧ s.core.pipe.glen ≠ 1 ∧ placesOf s s.core 1 8 8 = some ((List.range 8).map (0x10008 + ·)) ∧ devOffset s o = 8)) = true ∧
      (pieces ((devExtent marked o).base + 8) 8 = [(8, 8)] ∧ ((marked.core.dev.runAt 1 8).map fun r => r.marked) = some true ∧ ((s0.core.dev.runAt 1 8).map fun r => r.marked) = some false) ∧
      s0.core.pipe.ticks = false ∧ (Admitted (.lddP h o) (ticking marked)) := by
  refine ⟨by decide +kernel, by decide +kernel, by decide +kernel, fun hg => ?_⟩
  exact absurd hg (by decide +kernel)
theorem wit_StoresPending : (List.replicate 65536 ({ seq := 0, phase := 0, x := 1, off := 0, bytes := [0], req := none } : PendStore)).length = 65536 := List.length_replicate
/-- Do all the checks of a list hold? -/
def every (l : List (Prop × Nat × Word)) : Prop := l.foldr (fun p q => p.1 ∧ q) True
theorem wit_CopyCommandsComplete :
    let face := (signal 4 1).sampleBytes
    (bufferCheck s0 1 false).1 ∧ (bufferCheck s0 5 false).1 ∧ (bufferCheck s0 6 true).1 ∧ ¬(bufferCheck s0 0 false).1 ∧ ¬(bufferCheck s0 5 true).1 ∧ every (deviceChecks s0 1 0 64 mayRead) ∧ every (deviceChecks s0 2 0 64 mayWrite) ∧
      every (scratchChecks (spPlace s0 1 0) 64) ∧ every (scratchChecks (spPlace s0 6 0) 64) ∧ every (deviceChecks s0 1 0 face mayRead) ∧ s0.core.sig 4 = some (signal 4 1) ∧ (signal 4 1).bridged = true ∧
      0 ≤ faceIndex (signal 4 1) s0.core.sys.now ∧ s0.core.sig 9 = none ∧ (nth s0.core.dev.exts 3 Ext.none).declared = false ∧ recKind (s0.core.entry 0) = 3 ∧ recKind (s0.core.entry 3) = 3 := by
  (simp only [every, bufferCheck, deviceChecks, scratchChecks, List.foldr_cons, List.foldr_nil]; decide +kernel)
/-- CPYM by nests 0 and 3: the hull of both is 0 to 76 bytes. -/
theorem wit_CopyOfNests :
    nestHull (s0.core.entry 0) = (0, 76) ∧ every (deviceChecks s0 1 (0 + 0) ((76 - 0 : Int).toNat + 16) mayRead) ∧ every (scratchChecks (spPlace s0 1 0 + 0) ((76 - 0 : Int).toNat + 16)) ∧
      admits (.cpym (hd 0 0 0 0 0) (ec 4 5 6 0 1 1 12 0 0 0 0 0)) (with0 fun c => { c with regs := { c.regs with s := [(6, 0x100300)] } }) = true := by (simp only [every, deviceChecks, scratchChecks, List.foldr_cons, List.foldr_nil]; decide +kernel)
theorem wit_DescriptorCommandsComplete :
    s0.core.sp.sound = true ∧ (bufferCheck s0 1 false).1 ∧ (bufferCheck s0 5 false).1 ∧ every (scratchChecks (spPlace s0 1 0) 64) ∧ every (scratchChecks (spPlace s0 5 0) 64) ∧ every (scratchChecks (spPlace s0 1 0) 16) ∧
      ¬(bufferCheck s0 0 false).1 ∧ ¬(bufferCheck s0 2 false).1 ∧ spPlace s0 1 (-64) < 0 := by
  (simp only [every, bufferCheck, scratchChecks, List.foldr_cons, List.foldr_nil]; decide +kernel)

/-! Device memory as it is written. -/

def pend1 : PendStore := { seq := 1, phase := 0, x := 1, off := 8, bytes := [5, 6], req := none }
def var1 (k : VarKind) (scope : Nat) : VarOp :=
  { seq := 3, kind := k, x := 1, off := 16, n := 8, sg := false, d := 4, a := 7, b := 0, c := 0, sb := none, scope := scope, ord := 0, fixed := none, view := none, stage := .issued, due := 0 }
def okAt (s : State) (x off n need : Nat) : Option (List Nat) :=
  match (access s s.core x off n need).1 with
  | .ok pas => some pas
  | _ => none
theorem wit_PhasePublishes :
    let s := with0 fun c => { c with seat := { c.seat with arrivals := [.phase] }, dev := { c.dev with pend := [pend1] } }
    boundaryGroup s false = some [s.core] ∧ s.core.seat.live = true ∧ s.core.seat.arrivals.head? = some .phase ∧ s.core.pipe.back = none ∧ s.core.dev.vars = [] ∧ s.limited = [] ∧ s.core.dev.pend = [pend1] ∧
      pend1.req = none ∧ pend1.phase ≤ s.core.seat.boundary ∧ okAt { withView s (fun d => { d with pend := [] }) with stamp := s.stamp + 1 } 1 8 2 needWrite = some [0x10008, 0x10009] := by decide +kernel
/-- The stored bytes reach the page that extent 1 maps at 0x10000, and the byte after them stays (R108). -/
theorem test_phase_publishes :
    (match exec .phaseCompletion (with0 fun c => { c with seat := { c.seat with arrivals := [.phase] }, dev := { c.dev with pend := [pend1] } }) with
    | .next t => decide (t.mem = [(0x10008, 5), (0x10009, 6)]) && t.core.dev.pend.isEmpty
    | _ => false) = true := by decide +kernel
theorem wit_ReleasePublishes :
    let at_ := fun (scope : Nat) (ps : List PendStore) => dev0 fun d => { d with vars := [var1 .release scope], pend := ps }
    ([(4, []), (1, []), (4, [pend1])].all fun x => let s := at_ x.1 x.2
      decide (s.core.dev.vars[0]? = some (var1 .release x.1) ∧ s.core.dev.late = [] ∧ s.core.dev.pend = x.2 ∧ okAt s 1 16 8 needWrite = some ((List.range 8).map (0x10010 + ·)))) = true ∧
      pend1.seq < (var1 .release 4).seq ∧ okAt (withView (at_ 4 [pend1]) fun d => { d with pend := [] }) 1 8 2 needWrite = some [0x10008, 0x10009] ∧ s0.core.seat.live = true := by decide +kernel
/-- A release at bench scope keeps its value beside current memory; one at system scope puts it there (R113). -/
theorem test_release_scope :
    (match exec (.variableResultLanding 0) (dev0 fun d => { d with vars := [var1 .release 1] }), exec (.variableResultLanding 0) (dev0 fun d => { d with vars := [var1 .release 4] }) with
    | .next t, .next u => decide (t.mem = [] ∧ t.limited.length = 8 ∧ u.mem = [(0x10010, 7)] ∧ u.limited = [])
    | _, _ => false) = true := by decide +kernel
/-- A write of one byte to 0x10010 by core 17 at device scope, which core 0 has read at no scope yet. -/
def narrow (val : Byte) : LimitedWrite := { cid := 17, seq := 0, scope := 3, pa := 0x10010, val := val, stamp := 5, seen := [], current := [] }
def acquiring (scope : Nat) (ls : List LimitedWrite) : State := { (dev0 fun d => { d with vars := [var1 .acquire scope] }) with limited := ls }
theorem wit_AcquireRule :
    ([0, 1, 3, 4].all fun scope => let s := acquiring scope [narrow 6]
      decide (s.core.dev.vars[0]? = some (var1 .acquire scope) ∧ s.core.dev.pend = [] ∧ s.core.dev.late = [] ∧ okAt s 1 16 8 needRead = some ((List.range 8).map (0x10010 + ·)))) = true ∧
      s0.core.seat.live = true ∧ (narrow 6).pa = 0x10010 ∧ Includes 17 3 0 ∧ Includes 0 3 17 ∧ ¬Includes 0 1 17 ∧ scopeName 0 1 = (1, 0) := by
  refine ⟨by decide +kernel, by decide +kernel, rfl, ?_⟩
  simp [Includes, scopeName]
/-- An acquire at device scope finds the write, which is current there from now on for every reader; one at system scope takes it into current memory (R103, R114, R117). -/
theorem test_acquire_scopes :
    (match exec (.variableResultLanding 0) (acquiring 3 [narrow 6]), exec (.variableResultLanding 0) (acquiring 4 [narrow 6]) with
    | .next t, .next u => decide (t.core.sreg 4 = 6 ∧ t.mem = [] ∧ t.limited.map (fun l => (l.seen, l.current)) = [([0], [(3, 0)])] ∧ u.core.sreg 4 = 6 ∧ u.mem = [(0x10010, 6)] ∧ u.limited = [])
    | _, _ => false) = true := by decide +kernel
/-- What a reader of the same bench has read at bench scope is current there: another core of the bench finds it, though its writer is of another bench (R103, R117). -/
theorem test_bench_chain :
    (match exec (.variableResultLanding 0) (acquiring 1 [{ narrow 6 with seen := [3], current := [(1, 0)] }]) with
    | .next t => decide (t.core.sreg 4 = 6)
    | _ => false) = true := by decide +kernel
theorem wit_AtomicsWrite :
    ([VarKind.atom 0, .atom 7, .cas128].all fun k =>
      let v := { var1 k 4 with n := if k = .cas128 then 16 else 8 }
      let s := dev0 fun d => { d with vars := [v] }
      decide (s.core.dev.vars[0]? = some v ∧ (v.kind.sub?).isSome ∧ s.core.dev.late = [] ∧ s.core.dev.pend = [] ∧ s.limited = [] ∧ okAt s 1 16 v.n (needAtomic + needWithout) = some ((List.range v.n).map (0x10010 + ·))) &&
        carried s 0x10010 0 && carried s 0x10010 7 && carried s 0x10010 8 && !(rangeHeld s s.core v.x v.off v.n)) = true ∧ atomicValue (var1 (.atom 0) 4) 0 2 = some 9 ∧ atomicValue (var1 (.atom 7) 4) 7 2 = none := by decide +kernel
/-- An add of 7 to 2 (R314). -/
theorem test_atomic_add :
    (match exec (.variableResultLanding 0) { (dev0 fun d => { d with vars := [var1 (.atom 0) 4] }) with mem := [(0x10010, 2)] } with
    | .next t => decide (t.mem = [(0x10010, 9)] ∧ t.core.sreg 4 = 2)
    | _ => false) = true := by decide +kernel
def copy1 (st : CmdStage) : Cmd :=
  { uid := 8, seq := 1, tag := 12, cls := 1, kind := .copy (.device 1 8) (.scratch 64) 4 none false (0, 0), waits := [], upstream := none, rlocks := [], wlocks := [0], found := none, stage := st, granted := true, due := 0, wrote := []
    touched := false, resolving := none }
theorem wit_CopiesMove : (copy1 .queued).kind = .copy (.device 1 8) (.scratch 64) 4 none false (0, 0) ∧ (∀ sig, CopyEnd.scratch 64 ≠ .face sig) ∧
    (List.range 4).all (fun i => ([byteKey 1 0 / 64] : List Nat).contains (byteKey (CopyEnd.device 1 8).base.1 ((CopyEnd.device 1 8).base.2 + (i : Nat)).toNat / 64)) = true := by
  refine ⟨by decide +kernel, fun _ h => by simp at h, by decide +kernel⟩
/-- A unit of extent 1 is found; a unit to write there, and one in the scratchpad, of which tile 0 is locked and tile 1 is not. -/
theorem wit_UnitsMove :
    let looks := fun (s : State) (need : Nat) => match (lookPage s s.core 1 8 need).1 with
      | .at_ pa => pa == 0x10008
      | _ => false
    looks s0 needRead = true ∧ looks { s0 with draws := s0.draws + 1 } needWrite = true ∧ (byteKey 1 0 / 64) / 2 ^ 58 = 1 ∧ s0.limited = [] ∧ s0.core.dev.pend = [] ∧ s0.core.dev.late = [] ∧ s0.core.dev.vars = [] ∧
      (copy1 (.writing [{ space := 1, ws := [(8, 5)] }] none none)).stage = .writing [{ space := 1, ws := [(8, 5)] }] none none ∧ s0.core.bermAt 64 = false ∧ 64 / 4096 ∈ (copy1 .queued).wlocks ∧ 4096 / 4096 ∉ (copy1 .queued).wlocks := by
  decide +kernel

/-! Policies and events. -/

def decision0 : Decision :=
  { ev := { kind := 0, core := 0, task := 0, detail := 0, queue := 0 }, snap := { heads := [], cores := [], part := [], freeBench := [] }, code := [0x00020001], ix := 0, w := [(6, 9)], loop := none, staged := []
    cost := 0, began := 0 }
def deciding (g : Decision → Decision) : State := fn0 fun f => { f with decision := some (g decision0) }
theorem wit_PolicyArithmeticCompletes : runningDecision (deciding id) = some decision0 := by decide +kernel
theorem wit_PolicyControlAndActionsComplete :
    let l : PolicyLoop := { reg := 3, start := 1, stop := 2, i := 0, last := 1 }
    let kill : State := deciding fun d => { d with staged := [{ op := 0x31, a := 0, b := 0 }] }
    (runningDecision (deciding fun d => { d with loop := some l })).bind (fun d => d.loop) = some l ∧ (1 : Nat) < l.stop ∧ l.i < l.last ∧ decision0.cost + 1 < 1024 ∧
      1024 ≤ ({ decision0 with cost := 1023 } : Decision).cost + 1 ∧ (runningDecision kill).map (fun d => d.staged) = some [{ op := 0x31, a := 0, b := 0 }] ∧
      ((fnOf kill kill.fnTurn).all fun f => f.holds 0) = true ∧ (coreOf kill 0).map (fun c => c.seat.status) = some .live ∧ matesOf kill core0 = [core0] := by decide +kernel
/-- END with one action of each kind staged, on a live task and core, on none, and binds that each reason bars, that none does, and two of one core. -/
theorem wit_PolicyCommits :
    let ends := fun (as : List Action) => deciding fun d => { d with staged := as }
    let free := fun (as : List Action) => { (ends as) with core := StreamCore.reset 0 }
    let act := fun (op : Nat) (a b : BitVec 32) => ({ op := op, a := a, b := b } : Action)
    let f0 := nth (ends []).fns 0 (Func.reset 0)
    let bars := fun (s : State) (u : Task) (b : BitVec 32) => bindRefusal s { f0 with tasks := [u] } 0 b.toNat
    (runningDecision (ends [act 0x32 0 0])).map (fun d => d.staged) = some [act 0x32 0 0] ∧ fnOf (ends []) 0 = some f0 ∧ f0.num = 0 ∧ decision0.cost + 1 < 1024 ∧
      taskOf (ends []) 0 0 = some task0 ∧ task0.ended = none ∧ task0.killReq = false ∧ f0.holds 0 = true ∧ coreOf (ends []) 0 = some core0 ∧ core0.seat.status ≠ .free ∧ core0.seat.live = true ∧
      matesOf (ends []) core0 = [core0] ∧ core0.seat.fn = f0.num ∧ core0.seat.task = 0 ∧ liveOf (ends []) 0 9 = none ∧ groupOfWord (ends []) f0 300 = [] ∧ (liveOf (ends []) 0 0).isSome = true ∧
      bars (ends []) task0 1 = some 1 ∧ bars (free []) { task0 with edges := [4] } 1 = some 1 ∧ bars (free []) { task0 with killReq := true } 1 = some 1 ∧ bars (free []) task0 0x10001 = some 2 ∧ bars (free []) task0 0 = some 3 ∧
      bars (free []) { task0 with saved := [{ pa := 0, len := 0, gsize := 2 }] } 1 = some 4 ∧ bars (free []) task0 1 = none ∧
      (runningDecision (free [act 0x30 0 1, act 0x30 0 3])).map (fun d => d.staged) = some [act 0x30 0 1, act 0x30 0 3] ∧ taskOf (free []) 0 0 = some task0 := by decide +kernel
/-- A member whose dispatch is still to come, which a REFILL of its core reaches by way of its bind; a killed task that drains; a live partner of a core that a bind gives (R163, R356, R366). -/
theorem wit_PolicyCommitsMore :
    let load := { core0 with seat := { core0.seat with status := .loading } }
    let b : Bind := { task := 0, bench := 0, cores := 1, slice := 4, budget := 100, refill := 0, restore := none, due := 0, wait := none, unread := false }
    let s := { s0 with core := load, fns := s0.fns.map fun f => { f with binds := [b], tasks := [{ task0 with killReq := true }] } }
    coreOf s 0 = some load ∧ load.seat.status ≠ .free ∧ matesOf s load = [load] ∧ ((matesOf s load).any fun m => decide (m.seat.status = .loading ∧ m.seat.cid / 16 = b.bench) && b.cores.testBit (m.seat.cid % 16)) = true ∧
      taskOf s 0 0 = some { task0 with killReq := true } ∧ (coreOf { s0 with cores := [StreamCore.reset 1] } 1).isSome = true ∧ s0.core.seat.live = true ∧ s0.core.seat.cid = 0 ∧
      bindRefusal { s0 with core := { core0 with seat := { core0.seat with task := 3 } }, cores := [StreamCore.reset 1] } (nth s0.fns 0 (Func.reset 0)) 0 2 = none := by decide +kernel
theorem wit_ResultEventsComplete :
    let v : VarOp := { seq := 3, kind := .load, x := 1, off := 0, n := 8, sg := false, d := 3, a := 0, b := 0, c := 0, sb := some 2, scope := 0, ord := 0, fixed := none, view := none, stage := .performed 7, due := 0 }
    let q : Promise := { arrive := 1, arrived := false, held := false, failed := false, xo := 0, pos := 0, n := 8 }
    let f := { flight (.sreg 3 7) with late := some q }
    let late := { (pipe0 fun p => { p with flights := [f], frozenAt := some 0 }) with wall := 1 }
    let lost := pipe0 fun p => { p with flights := [{ f with late := some { q with failed := true } }], frozenAt := some 0 }
    let w : WindowStore := { due := 0, cid := some 1, member := 1, seq := 0, dest := [0], ws := [(3, 5)], sb := none }
    let e : ExportWrite := { due := 0, cid := some 1, seq := 0, dest := [0], eff := .tapWrite 3 [(0, 9)] }
    let k : Cmd := { uid := 8, seq := 1, tag := 12, cls := 1, kind := .launch [] 0 false, waits := [], upstream := none, rlocks := [], wlocks := [], found := none, stage := .finished none none, granted := true, due := 0, wrote := [], touched := false
                     resolving := none }
    let done := dev0 fun d => { d with cmds := [k] }
    (dev0 fun d => { d with vars := [v] }).core.dev.vars[0]? = some v ∧ late.core.pipe.blocked late.wall = some (f, q) ∧ q.arrive ≤ late.wall ∧ lost.core.pipe.blocked lost.wall = some ({ f with late := some { q with failed := true } }, { q with failed := true }) ∧
      ({ s0 with windows := [w] } : State).windows[0]? = some w ∧ w.dest.Nodup ∧ { w with cid := some 0, sb := some 2 }.cid = some s0.core.seat.cid ∧ ({ s0.core.regs with sb := [(2, 1)] } : Regs).sb.get 2 ≠ 0 ∧ s0.core.seat.status ≠ .killed ∧ ({ s0 with exports := [e] } : State).exports[0]? = some e ∧ (s0.core.bermAt 3 || s0.core.sp.compressed 3) = false ∧
      cmdOf done 8 = some (done.core, k) ∧ orderHeld done.core k = false ∧ coreOf done 0 = some done.core ∧ done.core.seat.live = true ∧ s0.core.seat.runs = true ∧ (sys0 fun y => { y with budget := 0 }).core.sys.budget = 0 := by
  decide +kernel
theorem wit_BoundariesComplete :
    let tick := seat0 fun p => { p with arrivals := [.tick] }
    let phase := seat0 fun p => { p with arrivals := [.phase] }
    let save := seat0 fun p => { p with atTick := true }
    boundaryGroup tick true = some [tick.core] ∧ boundaryGroup phase false = some [phase.core] ∧ phase.core.seat.arrivals.head? = some .phase ∧ saveGroup save = some (save.core :: []) ∧ fnOf save 0 = some (nth save.fns 0 (Func.reset 0)) ∧
      save.limited = [] ∧ tick.core.pipe.back = none ∧ tick.core.pipe.flights = [] := by decide +kernel
/-- Signals whose face opens at this TICK: not carried, carried at index 0 and later, and one of rate 8 whose face stays. -/
theorem wit_FaceOpens :
    let carried : Sig := { signal 5 0 with desc := BitVec.ofNat 128 (5 * 2 ^ 120 + 255 * 2 ^ 112 + 4 * 2 ^ 85 + 2 ^ 77 + 2 ^ 68 + 2 ^ 66 + 77 * 2 ^ 11) }
    let first : Sig := { carried with desc := carried.desc + BitVec.ofNat 128 (10 * 2 ^ 69) }
    let slow : Sig := { signal 6 0 with desc := BitVec.ofNat 128 (6 * 2 ^ 120 + 255 * 2 ^ 112 + 4 * 2 ^ 85 + 8 * 2 ^ 77) }
    faceIndex (signal 3 0) 9 < faceIndex (signal 3 0) 10 ∧ (signal 3 0).carryOpen = false ∧ carried.carryOpen = true ∧ faceIndex carried 9 < faceIndex carried 10 ∧ faceIndex carried 10 ≠ 0 ∧ carried.samples ≠ [] ∧
      first.carryOpen = true ∧ faceIndex first 9 < faceIndex first 10 ∧ faceIndex first 10 = 0 ∧ first.fill = 1 ∧ bit first.clusters 0 = true ∧ ¬faceIndex slow 9 < faceIndex slow 10 := by decide +kernel
/-- A pool in which the record of the group fits, and none. -/
theorem wit_PoolPlaces :
    let f := nth s0.fns 0 (Func.reset 0)
    let g := [{ core0 with seat := { core0.seat with atTick := true } }]
    poolPlace { f with poolPa := 0x100000, poolLen := 0x10000000 } (contextRecord g).length = some 0x100000 ∧ poolPlace f (contextRecord g).length = none := by decide +kernel

/-! A code object of a directory alone, in the page that a leaf of 512 MiB maps at PA 0, read per access; and a task whose code lies there. -/

def loadMem : List Host.Cell :=
  pokes [] (withKeys 0x100000 (leBytes 8 (2 ^ 63 + 0x110000)) ++ withKeys 0x110000 (leBytes 8 (2 ^ 63 + 0x120000)) ++ withKeys 0x120000 (leBytes 8 (2 ^ 63 + 0x130000)) ++
    withKeys 0x130000 (leBytes 8 (2 ^ 63 + 2 ^ 62 + 2 ^ 61 + 2 ^ 59 + 2 ^ 58)) ++ withKeys 0x200000 (leBytes 4 0x31424D4F))
def loadTask : Task := { task0 with dispatches := 0, codeDesc := BitVec.ofNat 256 (0x200000 * 2 ^ 176 + 64 * 2 ^ 128 + 2 ^ 127 + 2 ^ 124 + 2 ^ 121) }
def loadBind : Bind := { task := 0, bench := 0, cores := 1, slice := 4, budget := 100, refill := 0, restore := none, due := 0, wait := none, unread := false }
def restoreBind : Bind := { loadBind with restore := some { pa := 0x300000, len := 768, gsize := 1 } }
def loadFn (b : Bind) : Func := { nth s0.fns 0 (Func.reset 0) with root1 := 0x100000, walkOld := loadMem, tasks := [loadTask], binds := [b] }
def loadState (b : Bind) (n : Nat) : State := { s0 with core := StreamCore.reset 0, mem := loadMem, fns := [loadFn b], draws := n }
def loadExt : Ext := { declared := true, base := 0x200000, len := 64, rd := true, wr := false, at_ := false, lcreq := 0, perAccess := true }
def loaded : Translated := { exts := List.replicate 16 Ext.none, code := loadExt, runs := [] }

theorem load_byte (b : Bind) (hb : b = loadBind ∨ b = restoreBind) (i : Nat) (hi : i < 64) :
    readVirtByte (loadFn b) 0 (codeSource (loadFn b) 0 0 0 loaded).lazy_ 0 (0x200000 + i) (loadState b 1) = (.ok [peek loadMem (0x200000 + i)], loadState b 1) := by
  have h : ((List.range 64).all fun i => match readVirtByte (loadFn b) 0 (codeSource (loadFn b) 0 0 0 loaded).lazy_ 0 (0x200000 + i) (loadState b 1) with
    | (.ok bs, s) => decide (bs = [peek loadMem (0x200000 + i)]) && decide (s = loadState b 1)
    | _ => false) = true := by rcases hb with rfl | rfl <;> decide +kernel
  have := List.all_eq_true.mp h i (List.mem_range.mpr hi)
  split at this
  · rename_i bs s heq
    simp only [Bool.and_eq_true, decide_eq_true_eq] at this
    rw [heq, this.1, this.2]
  · exact absurd this (by simp)

theorem load_object (b : Bind) (hb : b = loadBind ∨ b = restoreBind) (pick : Nat) (images : Bool) :
    readObject (codeSource (loadFn b) 0 pick 0 loaded) images (loadState b 1) = (.ok { entry := 0, sigs := [], pool := [], images := [] }, loadState b 1) := by
  have hcur : (loadFn b).walkOld = devImage (loadState b 1) := by rcases hb with rfl | rfl <;> decide +kernel
  have hdir : nth (loadState b 1).fabricRegs 1 0 = 0 := by rcases hb with rfl | rfl <;> decide +kernel
  have top : readVirt (loadFn b) 0 (codeSource (loadFn b) 0 pick 0 loaded).lazy_ pick 0x200000 64 (loadState b 1) = (.ok ((List.range 64).map fun i => peek loadMem (0x200000 + i)), loadState b 1) :=
    readVirt_of_bytes _ _ _ _ _ (peek loadMem) 64 0x200000 fun i hi => by rw [readVirtByte_current _ _ _ _ _ _ hdir hcur]; exact load_byte b hb i hi
  have none_ : ∀ va, readVirt (loadFn b) 0 (codeSource (loadFn b) 0 pick 0 loaded).lazy_ pick va 0 (loadState b 1) = (.ok [], loadState b 1) := fun _ => rfl
  have dir : directoryOf ((List.range 64).map fun i => peek loadMem (0x200000 + i)) 0 = some { entry := 0, codeLen := 0, sigOff := 0, sigN := 0, recN := 0, imgN := 0, recOff := 0, imgOff := 0 } := by rfl
  have e1 : (codeSource (loadFn b) 0 pick 0 loaded).ext = loadExt := rfl
  have e2 : (codeSource (loadFn b) 0 pick 0 loaded).f = loadFn b := rfl
  have e3 : (codeSource (loadFn b) 0 pick 0 loaded).pick = pick := rfl
  have e6 : (codeSource (loadFn b) 0 pick 0 loaded).task = 0 := rfl
  have e4 : loadExt.len = 64 := rfl
  have e5 : loadExt.base = 0x200000 := rfl
  simp only [readObject, CodeSource.read, e1, e2, e3, e4, e5, e6, Nat.lt_irrefl, if_false, Nat.sub_self, Nat.add_zero, top, dir, Nat.mul_zero, none_]
  cases images <;> rfl

/-- A first dispatch and a restore of a task whose object is read. -/
theorem wit_Loadable (b : Bind) (hb : b = loadBind ∨ b = restoreBind) : Loadable (loadState b 0) 0 (loadFn b) b loadTask loaded { entry := 0, sigs := [], pool := [], images := [] } (loadState b 1) := by
  refine ⟨?_, ?_, ?_, ?_, ?_, ?_, ?_, ?_, ?_, loadState b 0, ?_, ?_⟩
  all_goals try (rcases hb with rfl | rfl <;> decide +kernel)
  · rcases hb with rfl | rfl <;> rfl
  · have := load_object b hb (Config.freeNat 0) b.restore.isNone
    rcases hb with rfl | rfl <;> exact this

def absentExt : Ext := { declared := true, base := 0, len := 64, rd := true, wr := false, at_ := false, lcreq := 0, perAccess := false }
def absentTask : Task := { loadTask with extDescs := [BitVec.ofNat 256 (64 * 2 ^ 128 + 2 ^ 127)] }
def absentFn : Func := { nth s0.fns 0 (Func.reset 0) with tasks := [absentTask], binds := [loadBind] }
def absentState : State := { s0 with core := StreamCore.reset 0, fns := [absentFn] }
/-- A task with a code extent too short for a directory. -/
def shortTask : Task := { loadTask with codeDesc := BitVec.ofNat 256 (0x200000 * 2 ^ 176 + 32 * 2 ^ 128 + 2 ^ 127 + 2 ^ 124 + 2 ^ 121) }

/-- An operand extent whose one page is absent: the translation fails with condition 0; and an object that is refused. -/
theorem wit_DispatchFails :
    (translateTask 0 noneId 0 0 absentTask absentState).1 = .error (0, 0, 0) ∧ dueBind absentState absentFn = some loadBind ∧ taskOf absentState 0 0 = some absentTask ∧ (absentFn.holds 0) = true ∧
    (∃ tr, translateTask 0 noneId 0 0 shortTask s0 = (.ok tr, s0) ∧ (readObject (codeSource (Func.reset 0) 0 (draw s0).1 0 tr) true (draw s0).2).1 = .refused) := by
  refine ⟨?_, by decide +kernel, by decide +kernel, by decide +kernel, _, rfl, rfl⟩
  have ht : ∀ pick, translate { absentState with draws := absentState.draws + 1 } absentFn pick 0 = .absent 1 0 none := fun pick => by
    rw [translate_current _ _ pick 0 (by decide) (by decide)]
    rfl
  have he : absentTask.extDescs.map extOf = [absentExt] := by decide +kernel
  have hp : absentExt.pages = [0] := by decide +kernel
  have hf : fnOf absentState 0 = some absentFn := by decide +kernel
  have hx : absentExt.perAccess = false := rfl
  have hb : absentExt.base = 0 := rfl
  simp [translateTask, he, translateExts, hx, hp, walkExtent, hf, ht, hb]

theorem wit_SchedulerEventsComplete :
    let b : Bind := { task := 0, bench := 0, cores := 2, slice := 0, budget := 100, refill := 0, restore := some { pa := 0, len := 0, gsize := 1 }, due := 0, wait := none, unread := false }
    let f0 := nth s0.fns 0 (Func.reset 0)
    let ring := fun (f : Func) (r : Nat) => { f with rings := modifyNth f.rings r fun x => { x with size := 4, tail := 1 } }
    let res : Resolution := { id := 1, va := 0, stage := 1, need := 1, cond := 0, ext := 1, lcreq := 0, access := 0, cid := 0, task := 0, die := 0, due := 0 }
    let ev : Event := { kind := 2, core := 0, task := 0, detail := 0, queue := 0 }
    let free := { s0 with core := StreamCore.reset 0 }
    dueBind s0 { f0 with binds := [b] } = some b ∧ taskOver free f0 task0 = true ∧ taskOf free 0 0 = some task0 ∧ nextEvent { f0 with faults := [ev] } = some (ev, f0) ∧
      ({ f0 with banks := [{ code := [], vstat := 2 }, { code := [], vstat := 1 }] } : Func).banks[f0.active]? = some { code := [], vstat := 2 } ∧
      ({ f0 with banks := [{ code := [], vstat := 2 }, { code := [], vstat := 1 }] } : Func).spareBank.vstat = 1 ∧ timerDue { s0 with wall := 1024 } { f0 with quantum := 1 } = true ∧
      (let d := (dev0 fun d => { d with runs := [{ pageRun 1 with marked := true }], walks := [{ ext := 1, va := 0, due := 0 }] }).core.dev
       let holds := fun (r : Run) => r.marked && decide (r.va ≤ 0) && decide (0 < r.va + r.len)
       (d.runs.find? holds).isSome = true ∧ (d.runs.find? fun r => holds r && d.walks.any fun w => decide (w.ext = r.ext ∧ w.va = r.va ∧ w.due ≤ 0)).isSome = true ∧ d.walks ≠ []) ∧
      s0.core.seat.runs = true ∧ s0.core.pipe.mark = .running ∧ s0.core.sys.budget ≠ 0 ∧ s0.core.pipe.blocked s0.wall = none ∧
      resolverRequest s0 { f0 with resolutions := [res] } = some res ∧ (([{ frame := 65536, leaf := 8, due := 0 }] : List ScrubPage).find? fun p => p.frame == 65536).isSome = true ∧
      stopDone free { f0 with stopReq := true } = true ∧ invalReady (ring f0 3) = true ∧ invalDone s0 { f0 with invals := [{ kind := 1, fn := 0, count := 1, addr := 0, regs := [], flushed := true, due := 0 }] } = some { kind := 1, fn := 0, count := 1, addr := 0, regs := [], flushed := true, due := 0 } ∧
      (nextEntry s0 (ring f0 5) 5).isSome = true ∧ (nextEntry s0 (ring f0 7) 7).isSome = true ∧
      hostLate { s0 with wall := hostAnswerCycles } { f0 with hostDecision := some { id := 1, ev := ev, asked := 0, staged := [] } } = some { id := 1, ev := ev, asked := 0, staged := [] } := by decide +kernel
/-- A task that heads queue 0 of its function, and a queue without a head (R358). -/
theorem wit_SnapshotOf :
    let u := { task0 with demand := 2 }
    let f := { nth s0.fns 0 (Func.reset 0) with tasks := [u], queues := [[0], []] }
    Heads s0 f 0 u ∧ (∀ v, ¬Heads s0 f 1 v) ∧ coreOf s0 0 = some core0 ∧ f.cores.getLsbD 0 = true ∧ core0.seat.status ≠ .free := by
  refine ⟨⟨[], [], rfl, by decide +kernel, by unfold MayHead; decide +kernel, fun n hn => by simp at hn⟩, ?_, by decide +kernel, by decide +kernel, by decide +kernel⟩
  rintro v ⟨pre, post, h, -⟩
  simp [nth] at h

/-- A task that is over, with room on ring 2; a sound answer on ring 5 and on ring 7; a leaf that still maps a scrubbed frame; a stripe with one upset; an invalidation of each outcome. -/
theorem wit_SchedulerClauses :
    let f0 := nth s0.fns 0 (Func.reset 0)
    let free := { s0 with core := StreamCore.reset 0 }
    let ring := fun (f : Func) (r : Nat) => { f with rings := modifyNth f.rings r fun x => { x with size := 4, tail := 1, base := 0x1000 } }
    let done := { f0 with rings := modifyNth f0.rings 2 fun x => { x with size := 4 } }
    let res : Resolution := { id := 0, va := 0, stage := 1, need := 1, cond := 0, ext := 1, lcreq := 0, access := 0, cid := 0, task := 0, die := 0, due := 0 }
    let answer := { ring f0 5 with resolutions := [res], quota := 5 }
    let host : HostDecision := { id := 0, ev := { kind := 2, core := 0, task := 0, detail := 0, queue := 0 }, asked := 0, staged := [] }
    let leaf := 2 ^ 63 + 2 ^ 62 + 2 ^ 56 + 65536
    (done.waitingDone = [] ∧ 2 < done.rings.length ∧ (done.ring 2).room 1 = true ∧ (done.tasks.all fun d => !d.edges.contains 0) = true ∧ task0.doneTag = none ∧ taskOver free done task0 = true) ∧
    ((nextEntry s0 answer 5).all fun e => zeroOutside [(0, 10), (16, 8)] e && decide (leNat (slice e 8 1) ≤ 1) && decide (leNat (slice e 9 1) ≤ 4) && (answer.resolutions.find? fun r => r.id == leNat (slice e 0 8)) == some res) = true ∧
    ((nextEntry s0 (ring f0 7) 7).all fun e => decisionEntryOk e && host.id == leNat (slice e 48 8)) = true ∧ 7 < f0.rings.length ∧
    (BitVec.ofNat 64 (peekLe (pokes [] (withKeys 8 (leBytes 8 leaf))) 8 8)).getLsbD 56 = true ∧ 65536 * ((BitVec.ofNat 64 leaf).extractLsb' 16 36).toNat = 65536 ∧
    (sp0 fun p => { p with erased := [(18 * 7 + 3, 1)] }).core.sp.erased = [(18 * 7 + 3, 1)] ∧ s0.core.sp.failedBanks = [] ∧ s0.cores = [] ∧
    (let e := ringEntry s0 (ring f0 3) 3 0
     let d := BitVec.ofNat 128 (leNat (slice e 0 16))
     zeroOutside [(0, 16)] e = true ∧ (d.extractLsb' 124 4).toNat ≤ 3 ∧ (d.extractLsb' 116 8).toNat ≤ 128 ∧ d.extractLsb' 80 16 = 0 ∧ (d.extractLsb' 0 80).toNat % 65536 = 0) ∧
    s0.core.seat.status ≠ .free ∧ s0.core.seat.fn = 0 ∧ ({ f0 with banks := [{ code := [], vstat := 2 }, { code := [], vstat := 1 }] } : Func).banks.length = 2 ∧
    ((deciding fun d => { d with cost := 1024 }).fns.head?.bind fun f => f.decision.map fun d => d.cost) = some 1024 ∧ f0.decision = none ∧ f0.hostDecision = none := by decide +kernel
/-- A table whose level-0 entry is absent, and a frame that is listed. -/
def resolveMem : List Host.Cell :=
  pokes [] (withKeys 0x100000 (leBytes 8 (2 ^ 63 + 0x110000)) ++ withKeys 0x110000 (leBytes 8 (2 ^ 63 + 0x120000)) ++ withKeys 0x120000 (leBytes 8 (2 ^ 63 + 0x130000)) ++
    withKeys 0x130000 (leBytes 8 (2 ^ 63 + 0x140000)) ++ withKeys 0x150000 (leBytes 8 0x1000000))
theorem wit_ResolverAnswers :
    let r : Resolution := { id := 1, va := 0, stage := 1, need := 1, cond := 0, ext := 1, lcreq := 0, access := 0, cid := 0, task := 0, die := 0, due := 0 }
    let f : Func := { nth s0.fns 0 (Func.reset 0) with root1 := 0x100000, walkOld := resolveMem, rflist := 0x150000, rfcount := 1, quota := 1, resolutions := [r] }
    resolverRequest { s0 with mem := resolveMem } f = some r ∧ f.num = 0 ∧ requestSlot { s0 with mem := resolveMem } f r = some (some 0x140000) ∧ f.rfcount ≠ 0 ∧ f.qused + 1 ≤ f.quota ∧ f.fmode.getLsbD 2 = false := by decide +kernel
/-- The page of a marked run of extent 1 is found, and its leaf grants the extent's needs where that only reads; and it is absent where the tables are empty. -/
theorem wit_RunsRewalked (pick : Nat) :
    (∃ p, translate { loadState loadBind 0 with draws := 1 } (loadFn loadBind) pick 0 = .page p ∧ p.grants ({ openExt 0 with wr := false, at_ := false } : Ext).need = true ∧ p.grants (openExt 0).need = false ∧ p.cls 0 ≤ 0 ∧ 0 < p.cls 1) ∧
    translate { absentState with draws := absentState.draws + 1 } absentFn pick 0 = .absent 1 0 none := by
  constructor
  · rw [translate_current _ _ pick 0 (by decide +kernel) (by decide +kernel)]
    exact ⟨_, rfl, by decide +kernel, by decide +kernel, by decide +kernel, by decide +kernel⟩
  · rw [translate_current _ _ pick 0 (by decide) (by decide)]
    rfl
theorem wit_HostWritesComplete :
    let f := nth s0.fns 0 (Func.reset 0)
    let stopped := fn0 fun f => { f with stopped := true }
    let waits := fn0 fun f => { f with waitingDone := List.replicate 3 (List.replicate 64 0), rings := modifyNth f.rings 2 fun r => { r with size := 4, tail := 14 } }
    ((fnOf waits 0).any fun f => f.waitingDone == List.replicate 2 (List.replicate 64 0) ++ [List.replicate 64 0] && (f.ring 2).room 2 && !(f.ring 2).room 3 && decide ((f.ring 2).size ≤ 16 ∧ 2 < f.rings.length)) = true ∧ fnOf s0 0 = some f ∧ f.swapPend = false ∧ f.active < 2 ∧ f.banks.length = 2 ∧ f.stopped = false ∧ (fnOf stopped 0).map (fun g => g.stopped) = some true ∧ (64 : Word).toNat % 64 = 0 ∧
      (fnOf (fn0 fun f => { f with swapPend := true }) 0).map (fun g => g.swapPend) = some true ∧ f.resetting = false ∧
      (fnOf (fn0 fun f => { f with resetting := true }) 0).map (fun g => g.resetting) = some true ∧ (f.rings[3]?).isSome = true := by decide +kernel
/-! A launch record in slot 0 whose block, of one field of 8 bits with 5 values, lies at VA 0x20_0100 of `loadMem`'s page. -/

def launchBlock : List Byte := leBytes 8 4 ++ List.replicate 56 0 ++ leBytes 32 (0x200000 * 2 ^ 176 + 64 * 2 ^ 128 + 2 ^ 127 + 2 ^ 124 + 2 ^ 121)
def launchMem : List Host.Cell := pokes loadMem (withKeys 0x200100 launchBlock)
def launchFn : Func := { loadFn loadBind with walkOld := launchMem, launch := [(6, 8 * 2 ^ 3 + 2 ^ 45 + 0x100 * 2 ^ 48)] }
def launchState : State := { loadState loadBind 0 with mem := launchMem, fns := [launchFn] }
def emptiedFn : Func := { launchFn with launch := launchFn.launch.keep fun k => decide (k / 8 ≠ 0) }
def readingState : State := { launchState with fns := [emptiedFn], draws := 1 }

theorem launch_byte (i : Nat) (hi : i < 96) : readVirtByte emptiedFn noneId none 0 (0x200100 + i) readingState = (.ok [nth launchBlock i 0], readingState) := by
  have h : ((List.range 96).all fun i => match readVirtByte emptiedFn noneId none 0 (0x200100 + i) readingState with
    | (.ok bs, s) => decide (bs = [nth launchBlock i 0]) && decide (s = readingState)
    | _ => false) = true := by decide +kernel
  have := List.all_eq_true.mp h i (List.mem_range.mpr hi)
  split at this
  · rename_i bs s heq
    simp only [Bool.and_eq_true, decide_eq_true_eq] at this
    rw [heq, this.1, this.2]
  · exact absurd this (by simp)

/-- The block is read, and no check of R356 fails. -/
theorem wit_LaunchRecordAccepted :
    let r := leNat (((List.range 7).flatMap fun i => leBytes 8 (launchFn.launch.get i).toNat) ++ leBytes 8 0x20)
    let at_ := fun (lo n : Nat) => r / 2 ^ lo % 2 ^ n
    fnOf launchState 0 = some launchFn ∧ launchFn.submits = [] ∧ at_ 0 206 = 0 ∧ at_ 382 5 = 0 ∧ at_ 432 80 = 0x200100 ∧
      readVirt emptiedFn noneId none (freeNow launchState) 0x200100 96 readingState = (.ok launchBlock, readingState) ∧ fnOf readingState 0 = some emptiedFn ∧
      LayoutOk (fun j => at_ (387 + 7 * j) 7) (fun j => leNat (slice launchBlock (8 * j) 8) + 1) (at_ 429 3) ∧ (∀ i, i < 64 → 48 ≤ i → nth launchBlock i 0 = 0) ∧ DescriptorOk true (leNat (slice launchBlock 64 32)) ∧
      at_ 318 16 = 0 ∧ emptiedFn.tasks.length < 4096 ∧ (∀ d ∈ emptiedFn.tasks, d.ended = none) ∧ ((allCores readingState).any fun c => emptiedFn.cores.getLsbD c.seat.cid && c.isFree) = true := by
  refine ⟨?_, ?_, ?_, ?_, ?_, ?_, ?_, ?_, ?_, ?_, ?_, ?_, ?_, ?_⟩
  case refine_6 =>
    have hb : ((List.range 96).map fun i => nth launchBlock (0x200100 + i - 0x200100) 0) = launchBlock := by decide +kernel
    refine (readVirt_of_bytes _ _ _ _ _ (fun a => nth launchBlock (a - 0x200100) 0) 96 0x200100 fun i hi => ?_).trans (congrArg (fun bs => (Read.ok bs, readingState)) hb)
    rw [readVirtByte_current _ _ _ _ _ _ (by decide +kernel) (by decide +kernel), launch_byte i hi]
    simp
  case refine_8 => unfold LayoutOk; decide +kernel
  case refine_10 => unfold DescriptorOk; decide +kernel
  all_goals decide +kernel

/-- A record with a reserved bit, for which nothing is read, and one that finds a record waiting. -/
theorem wit_LaunchRecordRefused :
    leNat (((List.range 7).flatMap fun i => leBytes 8 (((fn0 fun f => { f with launch := [(0, 1)] }).fns.headD (Func.reset 0)).launch.get i).toNat) ++ leBytes 8 0) / 2 ^ 0 % 2 ^ 206 ≠ 0 ∧
      (fnOf (fn0 fun f => { f with submits := [(1, [])] }) 0).map (fun f => f.submits.length) = some 1 ∧
      ((fnOf (fn0 fun f => { f with uesta := 16, rings := modifyNth f.rings 0 fun r => { r with size := 4 } }) 0).any fun f => f.uesta.getLsbD 4 && (f.ring 0).room 1 && !f.resetting && decide (0 < f.rings.length)) = true := by
  decide +kernel
theorem wit_MemoryRequestsComplete :
    frameOk 4096 4 = true ∧ isPooled 4096 = false ∧ (frameOk (2 ^ 52) 4 = false ∨ isPooled (2 ^ 52) = true) ∧ (4096 : Nat) % 16 = 0 ∧ isHbm 4096 = true ∧ isHbm (4096 + 16 - 1) = true ∧ fabricServed s0 0 .read 4096 64 = false := by
  decide +kernel
/-- An export table of one entry at PA 0x40 that lets device 3 read and write segment 0. -/
def exporting : State :=
  let m := pokes [] (withKeys 0x40 (leBytes 16 (2 ^ 127 + 3 * 2 ^ 115 + 2 ^ 114 + 2 ^ 113)))
  { s0 with mem := m, dirCache := m, fabricRegs := [0, 0, 0x40, 1] }
theorem wit_FabricServed : fabricServed exporting 3 .read 0x10000 64 = true ∧ fabricServed exporting 3 .write 0x10000 2 = true := by
  unfold fabricServed exportEntry
  cases bit (freeNow exporting) 0 <;> decide +kernel
theorem wit_FabricRefused : fabricServed exporting 4 .read 0x10000 64 = false := by
  unfold fabricServed exportEntry
  cases bit (freeNow exporting) 0 <;> decide +kernel
/-- Function 5 at reset, device 3 and tile 7. -/
theorem wit_PackageEventsComplete : fnOf State.reset 5 = some (Func.reset 5) ∧ (5 : Nat) ≠ 0 ∧ (3 : Nat) < 18 ∧ (7 : Nat) < 6144 ∧ s0.core.sig 3 = some (signal 3 0) ∧ 2 < (signal 3 0).samples.length := by decide +kernel
/-- s0 with tap banks that have failed and, where `bad` is given, a bad sample of signal 4. -/
def taps0 (failed : List Nat) (bad : Option (Nat × Nat)) : State := with0 fun c =>
  { c with tapBanks := { c.tapBanks with failed := failed }, taps := [signal 3 0, { signal 4 1 with samples := (signal 4 1).samples.map fun x => { x with bad := bad } }] }
/-- Upsets that are corrected, that a failed bank hides, and that two failed banks or another bad sample of the row lose. -/
theorem wit_TapUpsets :
    (7 : Nat) < 3072 ∧ (3 : Nat) ∉ (taps0 [5] none).core.tapBanks.failed ∧ (taps0 [5] none).core.tapBanks.failed.length < 2 ∧ (3 : Nat) ∈ (taps0 [3] none).core.tapBanks.failed ∧
      2 ≤ (taps0 [5, 6] none).core.tapBanks.failed.length ∧ ((taps0 [] (some (2, 7))).core.taps.any fun g => g.samples.any fun x => x.bad == some (2, 7)) = true ∧
      ((taps0 [5] none).core.taps.all fun g => g.samples.all fun x => x.bad.isNone) = true := by decide +kernel
/-- The same upset is corrected with one failed bank and loses its sample with two (R30, R33). -/
theorem test_tap_upset_lost :
    let bads := fun (s : State) => match exec (.softError 0 (.sample 4 1 3 7 true)) s with
      | .next t => (t.core.sig 4).map fun g => g.samples.map fun x => x.bad
      | _ => none
    bads (taps0 [5] none) = some [none, none, none, none] ∧ bads (taps0 [5, 6] none) = some [none, some (3, 7), none, none] := by decide +kernel
/-- A corrected granule of a check bank has no offset (R31, R406). -/
theorem test_check_bank_offset : ((core0.sp.correct 0 0 17 2).2.map fun e => (e.bank, e.row, e.off)) = [(17, 2, 0)] ∧ ((core0.sp.correct 0 0 15 2).2.map fun e => e.off) = [64 * 47] := by decide +kernel
/-- There are 64 fabric ports (R1). -/
theorem wit_FabricPorts : ({ device := 3, port := 64 } : Peer).port = 64 ∧ ({ device := 3, port := 63 } : Peer).port < 64 := by decide
/-- A function other than 0 that runs task 0 on core 0, and one whose reset waits for nothing more. -/
theorem wit_FunctionResets :
    let f := { Func.reset 1 with tasks := [task0], stopped := false }
    let s := { (seat0 fun p => { p with fn := 1 }) with fns := [f] }
    let dead := { task0 with killReq := true }
    let waits := { s with core := StreamCore.reset 0, fns := [{ f with resetting := true, tasks := [dead] }] }
    let launched := { s with fns := [{ f with resetting := true }] }
    fnOf s 1 = some f ∧ (1 : Nat) ≠ 0 ∧ task0 ∈ f.tasks ∧ task0.ended = none ∧ s.core.seat.fn = 1 ∧ s.core.seat.task = task0.num ∧
      fnOf waits 1 = some { f with resetting := true, tasks := [dead] } ∧ dead.killReq = true ∧ fnOf launched 1 = some { f with resetting := true } ∧ task0.killReq = false ∧ f.num = 1 ∧ f.resolutions = [] ∧ ((allCores waits).all fun c => c.seat.status == .free) = true := by decide +kernel
theorem wit_EncodeDecodeSyllable : (wordsVa.all fun p => p.2.wf && decide (encodeSyllable p.2 = some p.1)) = true := by decide +kernel
theorem wit_DecodeEncode : (policyA.all fun p => tchOk p.2 && decide (encodeBytecode p.2 = some p.1)) = true := by decide +kernel
theorem wit_MemoryCanonicalKept : memWf State.reset.mem = true ∧ (match Machine.step State.reset with
    | .next t => decide (t.turn = 1)
    | _ => false) = true := by decide +kernel
/-- A NOP at VA 0x1000, in the page that extent 16 maps at PA 0x1_0000. -/
def nopState : State :=
  let m := pokes [] (withKeys 0x11000 (leBytes 16 0x82800000000000000000000000000000))
  { s0 with mem := m, core := { core0 with pipe := { core0.pipe with pc := 0x1000 }, dev := { core0.dev with fetchOld := m, code := { openExt 0 with len := 65536 } } } }
theorem wit_StepRunsInstruction :
    let p := nopState.core.pipe
    let d := nopState.core.dev
    (pickEvent nopState).isNone = true ∧ (match coreAct nopState with
      | .fetch => true
      | _ => false) = true ∧ p.fetchFail = none ∧ fetchPending nopState = false ∧ d.code.declared = true ∧ d.code.perAccess = false ∧ d.runAt 16 0x1000 = some (pageRun 16) ∧ p.pc.toNat + 16 ≤ d.code.base + d.code.len ∧
      lookOwned nopState 0 0x11000 = .at_ 0x11000 ∧ ((codeImages nopState).all fun img => decide (peekLe img 0x11000 16 = 0x82800000000000000000000000000000)) = true ∧
      bytecodeDue (deciding id) (nth (deciding id).fns 0 (Func.reset 0)) decision0 = some (.event (.tchMov 0 true 1) { deciding id with fnTurn := 0 }) := by
  refine ⟨?_, ?_, ?_, ?_, ?_, ?_, ?_, ?_, ?_, ?_, rfl⟩ <;> decide +kernel

end Sys2Proof.Tests
end

section
/-! PROOFS. O53: what a request from outside the package to its memory and registers does (R127, R314, R370, R402 to R405, R412, R415). -/
namespace Sys2Proof.Machine

/-! ### Bytes of a number -/

@[simp] theorem length_leBytes (n x : Nat) : (leBytes n x).length = n := by
  induction n generalizing x with
  | zero => rfl
  | succ n ih => simp [leBytes, ih]

theorem leNat_leBytes (n x : Nat) : leNat (leBytes n x) = x % 256 ^ n := by
  induction n generalizing x with
  | zero => simp [leBytes, leNat, Nat.mod_one]
  | succ n ih => rw [leBytes, leNat, ih, Nat.pow_succ', Nat.mod_mul, BitVec.toNat_ofNat]

/-! ### Writes of consecutive bytes -/

@[simp] theorem writeSysAt_core (s : State) (pa : Nat) (bs : List Byte) : (writeSysAt s pa bs).core = s.core := rfl
@[simp] theorem writeSysAt_cores (s : State) (pa : Nat) (bs : List Byte) : (writeSysAt s pa bs).cores = s.cores := rfl
@[simp] theorem writeSysAt_outbox (s : State) (pa : Nat) (bs : List Byte) : (writeSysAt s pa bs).outbox = s.outbox := rfl

/-- A write of consecutive bytes changes exactly those bytes. -/
theorem peek_writeSysAt_eq (s : State) (pa : Nat) (bs : List Byte) (a : Nat) :
    peek (writeSysAt s pa bs).mem a = if pa ≤ a ∧ a < pa + bs.length then nth bs (a - pa) 0 else peek s.mem a := by
  split
  case isTrue h =>
    obtain ⟨i, rfl⟩ := Nat.exists_eq_add_of_le h.1
    have hi : i < bs.length := by omega
    rw [peek_writeSysAt s pa bs i hi]
    simp [nth, hi]
  case isFalse h => exact peek_writeSysAt_ne s pa bs a (by omega)

/-- The number written at an address is read back there. -/
theorem leNat_peekBytes_writeSysAt (s : State) (pa n x : Nat) :
    leNat (peekBytes (writeSysAt s pa (leBytes n x)).mem pa n) = x % 256 ^ n := by
  have h : peekBytes (writeSysAt s pa (leBytes n x)).mem pa n = leBytes n x := by
    refine List.ext_getElem (by simp [peekBytes]) fun i hi _ => ?_
    rw [← peek_writeSysAt s pa (leBytes n x) i (by simpa [peekBytes] using hi)]
    simp [peekBytes]
  rw [h, leNat_leBytes]

/-! ### Messages -/

@[simp] theorem sendOut_core (s : State) (o : Output) : (sendOut s o).core = s.core := rfl
@[simp] theorem sendOut_mem (s : State) (o : Output) : (sendOut s o).mem = s.mem := rfl
@[simp] theorem sendOut_outbox (s : State) (o : Output) : (sendOut s o).outbox = s.outbox ++ [o] := rfl

/-! ### Records leave the core at turn as it is -/

@[simp] theorem onRing_core (s : State) (fn r : Nat) (g : Ring → Ring) : (onRing s fn r g).core = s.core := rfl

@[simp] theorem sendMsix_core (s : State) (fn v : Nat) : (sendMsix s fn v).core = s.core := by
  unfold sendMsix
  split <;> rfl

@[simp] theorem writeEntries_core (s : State) (fn r : Nat) (es : List (List Byte)) : (writeEntries s fn r es).core = s.core := by
  induction es generalizing s with
  | nil => rfl
  | cons e es ih =>
    unfold writeEntries
    split
    · rfl
    · simp [ih]

@[simp] theorem pushRecord_core (s : State) (fn r : Nat) (rec : Record) : (pushRecord s fn r rec).1.core = s.core := by
  unfold pushRecord
  split
  · rfl
  · dsimp only
    split
    · rfl
    · split <;> simp

theorem setStatus_core (event : State → Record → State) (hevent : ∀ s e, (event s e).core = s.core) (s : State) (fn : Nat) (b : StatusBit) (seq : Nat)
    (first : List Byte) : (setStatus event s fn b seq first).core = s.core := by
  unfold setStatus
  split
  · rfl
  · simp only [apply_ite State.core, hevent, onFn_core, ite_self]

theorem foldl_setStatus_core (event : State → Record → State) (hevent : ∀ s e, (event s e).core = s.core) (fn seq : Nat) (first : List Byte) (sts : List StatusBit)
    (s : State) : (sts.foldl (fun s b => setStatus event s fn b seq first) s).core = s.core := by
  induction sts generalizing s with
  | nil => rfl
  | cons b sts ih => rw [List.foldl_cons, ih, setStatus_core event hevent]

theorem emitN_core (n : Nat) (s : State) (fn r : Nat) (rec : Record) (sts : List StatusBit) : (emitN n s fn r rec sts).core = s.core := by
  induction n generalizing s fn r rec sts with
  | zero => exact pushRecord_core s fn r rec
  | succ n ih =>
    have hevent : ∀ s e, (emitN n s fn 1 e []).core = s.core := fun s e => ih s fn 1 e []
    unfold emitN
    dsimp only
    split
    · rw [foldl_setStatus_core _ hevent, pushRecord_core]
    · split
      · rw [setStatus_core _ hevent, foldl_setStatus_core _ hevent, pushRecord_core]
      · rw [ih, foldl_setStatus_core _ hevent, pushRecord_core]

@[simp] theorem emitFabricRefused_core (s : State) (port device need pa : Nat) : (emitFabricRefused s port device need pa).core = s.core := emitN_core _ _ _ _ _ _

/-! ### Host reads (R127, R370, R403, R404, R412) -/

theorem fnOf_num {s : State} {n : Nat} {f : Func} (h : fnOf s n = some f) : f.num = n := by
  simpa using List.find?_some h

theorem exec_hostRead_memory (s : State) (pa len : Nat) :
    exec (.hostRead (.memory pa) len) s = .next (sendOut s (if hostRange pa len then .hostRead pa (peekBytes s.mem pa len) else .refused)) := rfl

theorem exec_hostRead_descriptor {s : State} {fn : Nat} {f : Func} (hf : fnOf s fn = some f) (o len : Nat) :
    exec (.hostRead (.descriptor fn o) len) s = .next (sendOut s (.hostWord (BitVec.ofNat 64 (readDescriptor f o)))) := by
  simp [execHostRead, withFn, hf]

/-- A register with a value is read without further effect. -/
theorem exec_hostRead_register {s : State} {fn o v : Nat} {f : Func} (hf : fnOf s fn = some f) (hv : readRegister s f o = some v) (len : Nat) :
    exec (.hostRead (.register fn o) len) s = .next (sendOut s (.hostWord (BitVec.ofNat 64 v))) := by
  simp [execHostRead, withFn, hf, hv]

/-- A register without a value is read as a free one, which uses it up. -/
theorem exec_hostRead_register_free {s : State} {fn o : Nat} {f : Func} (hf : fnOf s fn = some f) (hv : readRegister s f o = none) (len : Nat) :
    exec (.hostRead (.register fn o) len) s = .next (sendOut (draw s).2 (.hostWord (BitVec.ofNat 64 (draw s).1))) := by
  simp [execHostRead, withFn, hf, hv]

/-- Every read of a register answers, and leaves memory and the core at turn. -/
theorem exec_hostRead_register_frame {s : State} {fn : Nat} {f : Func} (hf : fnOf s fn = some f) (o len : Nat) :
    ∃ t, exec (.hostRead (.register fn o) len) s = .next t ∧ t.mem = s.mem ∧ t.core = s.core := by
  cases hv : readRegister s f o with
  | some v => exact ⟨_, exec_hostRead_register hf hv len, sendOut_mem _ _, sendOut_core _ _⟩
  | none => exact ⟨_, exec_hostRead_register_free hf hv len, sendOut_mem _ _, sendOut_core _ _⟩

theorem readRegister_hdrlog (s : State) (f : Func) (i : Nat) (hi : i < 8) : readRegister s f (0x848 + 8 * i) = some (leNat (slice f.hdrlog (8 * i) 8)) := by
  have ha : (0x848 + 8 * i) % 8 = 0 := by omega
  have hr : 0x848 + 8 * i < 0x888 := by omega
  simp [readRegister, ha, hr]

theorem readRegister_ring (s : State) (f : Func) {o ring w : Nat} (hring : ring < 8) (hw : w < 4) (ho : o = 0x900 + 32 * ring + 8 * w) :
    readRegister s f o = some ((f.ring ring).word w) := by
  have ha : o % 8 = 0 := by omega
  have hlog : ¬o < 0x888 := by omega
  have hlo : 0x900 ≤ o := by omega
  have hhi : o < 0xA00 := by omega
  have hix : (o - 0x900) / 32 = ring := by omega
  have hwd : (o - 0x900) % 32 / 8 = w := by omega
  simp [readRegister, ha, hlog, hlo, hhi, hix, hwd]

theorem readDescriptor_cores (f : Func) (k : Nat) (hk : k < 4) : readDescriptor f (8 * k) = (f.cores.extractLsb' (64 * k) 64).toNat := by
  have hword : bits f.cores.toNat (64 * k + 63) (64 * k) = (f.cores.extractLsb' (64 * k) 64).toNat := by
    have hwidth : 64 * k + 63 + 1 - 64 * k = 64 := by omega
    rw [bits, hwidth, BitVec.extractLsb'_toNat, Nat.shiftRight_eq_div_pow]
  rw [← hword]
  match k, hk with
  | 0, _ | 1, _ | 2, _ | 3, _ => rfl

/-! ### Host writes and atomics (R127, R402) -/

theorem hostRange_iff (pa len : Nat) : hostRange pa len = true ↔ frameOk pa len = true ∧ isPooled pa = false := by
  simp [hostRange]

theorem exec_hostWrite_inside {s : State} {pa : Nat} {data : List Byte} (h : hostRange pa data.length = true) :
    exec (.hostWrite pa data) s = .next (writeSysAt s pa data) := by
  simp [execHostWrite, h]

theorem exec_hostWrite_outside {s : State} {pa : Nat} {data : List Byte} (h : ¬hostRange pa data.length = true) :
    exec (.hostWrite pa data) s = .next (sendOut s .refused) := by
  simp [execHostWrite, h]

/-- Memory after an atomic on `n` bytes that writes the given number, if any. -/
def afterAtomic (s : State) (pa n : Nat) (new : Option Nat) : State := new.elim s fun x => writeSysAt s pa (leBytes n x)

@[simp] theorem afterAtomic_core (s : State) (pa n : Nat) (new : Option Nat) : (afterAtomic s pa n new).core = s.core := by cases new <;> rfl
@[simp] theorem afterAtomic_outbox (s : State) (pa n : Nat) (new : Option Nat) : (afterAtomic s pa n new).outbox = s.outbox := by cases new <;> rfl

theorem peek_afterAtomic_ne (s : State) (pa n : Nat) (new : Option Nat) (x : Nat) (h : x < pa ∨ pa + n ≤ x) :
    peek (afterAtomic s pa n new).mem x = peek s.mem x := by
  cases new with
  | none => rfl
  | some y => exact peek_writeSysAt_ne s pa (leBytes n y) x (by simpa using h)

theorem leNat_peekBytes_afterAtomic (s : State) (pa n : Nat) (new : Option Nat) :
    leNat (peekBytes (afterAtomic s pa n new).mem pa n) = new.elim (leNat (peekBytes s.mem pa n)) fun x => x % 256 ^ n := by
  cases new with
  | none => rfl
  | some x => exact leNat_peekBytes_writeSysAt s pa n x

/-- An aligned atomic of a size that atomics have, on HBM, returns what the location holds at its home and writes as its operation says. -/
theorem exec_hostAtomic_aligned (s : State) (op : HostAtomic) (pa len a b : Nat) (hlen : len = 4 ∨ len = 8 ∨ len = 16) (hal : pa % len = 0)
    (hfirst : isHbm pa = true) (hlast : isHbm (pa + len - 1) = true) :
    let old := peekBytes (homeImage s) pa len
    exec (.hostAtomic op pa len a b) s = .next (sendOut (afterAtomic s pa len (hostAtomicNew op len (leNat old) a b)) (.hostAtomic pa old)) := by
  have hsize : (len == 4 || len == 8 || len == 16) = true := by simpa [or_assoc] using hlen
  simp only [exec_hostAtomic, execHostAtomic, hsize, hal, hfirst, hlast, afterAtomic]
  cases hostAtomicNew op len (leNat (peekBytes (homeImage s) pa len)) a b <;> rfl

/-! ### Fabric requests (R1, R415) -/

theorem exec_fabricRequest_noPort (s : State) (peer : Peer) (op : FabricOp) (pa len : Nat) (data : List Byte) (h : 64 ≤ peer.port) :
    exec (.fabricRequest peer op pa len data) s = .refused (.notEnabled "FABRIC_REQUEST") := by
  simp [execFabricRequest, fabricPorts, h]

theorem exec_fabricRequest_read {s : State} {peer : Peer} {pa len : Nat} (data : List Byte) (hport : peer.port < 64) (hlen : len ≠ 0)
    (hserved : fabricServed s peer.device .read pa len = true) :
    exec (.fabricRequest peer .read pa len data) s = .next (sendOut s (.fabric peer.device (some (peekBytes s.mem pa len)))) := by
  simp [execFabricRequest, fabricPorts, Nat.not_le.2 hport, hserved, hlen, serveFabric, readSys]

theorem exec_fabricRequest_write {s : State} {peer : Peer} {pa : Nat} {data : List Byte} (hport : peer.port < 64) (hdata : data ≠ [])
    (hserved : fabricServed s peer.device .write pa data.length = true) :
    exec (.fabricRequest peer .write pa data.length data) s = .next (sendOut (writeSysAt s pa data) (.fabric peer.device (some []))) := by
  simp [execFabricRequest, fabricPorts, Nat.not_le.2 hport, hserved, hdata, serveFabric, slice]

theorem exec_fabricRequest_unserved {s : State} {peer : Peer} {op : FabricOp} {pa len : Nat} (data : List Byte) (hport : peer.port < 64)
    (hserved : fabricServed s peer.device op pa len = false) :
    exec (.fabricRequest peer op pa len data) s =
      .next (sendOut (emitFabricRefused s peer.port peer.device (fabricNeed op) pa) (.fabric peer.device none)) := by
  simp [execFabricRequest, fabricPorts, Nat.not_le.2 hport, hserved]

/-! ### The statement -/

/-- Settles O53, clause by clause: each request's answer is one of the equations above, with the bytes that `writeSysAt` and `afterAtomic` leave. -/
theorem memoryRequestsComplete : Obligations.MemoryRequestsComplete := by
  unfold Obligations.MemoryRequestsComplete
  intro s pa
  refine ⟨fun len => exec_hostRead_memory s pa len, fun fn f hf => ?registers, fun data hok hpool => ?write, fun data hbad => ?writeRefused,
    fun op len a b hlen hal hfirst hlast => ?atomic, fun peer op len data => exec_fabricRequest_noPort s peer op pa len data,
    fun peer len hport hlen => exec_fabricRequest_read [] hport hlen, fun peer data hport hdata hserved => ?peerWrite,
    fun peer op len data hport hserved => ?unserved⟩
  case registers =>
    have reads {o v : Nat} (hv : readRegister s f o = some v) := exec_hostRead_register hf hv 8
    have fields (o : Nat) := exec_hostRead_descriptor hf o 8
    have rings {o ring : Nat} (w : Nat) (hring : ring < 8) (hw : w < 4) (ho : o = 0x900 + 32 * ring + 8 * w) := reads (readRegister_ring s f hring hw ho)
    refine ⟨reads rfl, reads rfl, reads rfl, reads rfl, reads rfl, reads rfl,
      fun ring hring => ⟨rings 0 hring (by decide) (by omega), rings 1 hring (by decide) (by omega), rings 2 hring (by decide) (by omega),
        rings 3 hring (by decide) (by omega)⟩,
      reads rfl, reads rfl, fun i hi => reads (readRegister_hdrlog s f i hi), fun hfn => ?_, fun k hk => ?_, fields 32, fields 40, fields 48, fields 56,
      fields 64, fields 88, fields 72, fields 80, fields 96, fun o => ⟨exec_hostRead_register_frame hf o 8, _, fields o⟩⟩
    · have hnum : f.num = 0 := (fnOf_num hf).trans hfn
      exact ⟨reads (if_pos hnum), reads (if_pos hnum), reads (if_pos hnum), reads (if_pos hnum)⟩
    · rw [← readDescriptor_cores f k hk]
      exact fields (8 * k)
  case write =>
    exact ⟨_, exec_hostWrite_inside ((hostRange_iff _ _).2 ⟨hok, hpool⟩), writeSysAt_core s pa data, writeSysAt_cores s pa data, peek_writeSysAt_eq s pa data⟩
  case writeRefused =>
    refine exec_hostWrite_outside fun h => ?_
    obtain ⟨hok, hpool⟩ := (hostRange_iff _ _).1 h
    simp [hok, hpool] at hbad
  case atomic =>
    refine ⟨_, exec_hostAtomic_aligned s op pa len a b hlen hal hfirst hlast, by simp [peekBytes], by simp, peek_afterAtomic_ne s pa len _, ?_⟩
    refine (leNat_peekBytes_afterAtomic s pa len _).trans ?_
    cases op with
    | fetchAdd => exact Nat.mod_mod _ _
    | swap => exact Nat.mod_mod _ _
    | cas =>
      by_cases hcmp : leNat (peekBytes (homeImage s) pa len) = b % 256 ^ len
      · simp only [hostAtomicNew, hcmp, if_true]
        exact (Nat.mod_mod _ _).trans (if_pos hcmp).symm
      · simp only [hostAtomicNew, hcmp, if_false]
        exact (if_neg hcmp).symm
  case peerWrite =>
    exact ⟨_, exec_fabricRequest_write hport hdata hserved, by simp, by simp, peek_writeSysAt_eq s pa data⟩
  case unserved =>
    exact ⟨_, exec_fabricRequest_unserved data hport hserved, emitFabricRefused_core _ _ _ _ _, by simp⟩

end Sys2Proof.Machine
end

section
/-! PROOFS. O39: what the accumulator syllables and MMODE do (R124, R163, R286, R291, R294, R295). -/
namespace Sys2Proof.Machine

/-! ### What an admitted syllable answers -/

/-- An admitted syllable whose effect goes on completes with what the effect leaves. -/
theorem issued_completes {i : Instr} {s s1 : State} {y : Syl} {eff : State → Res} {land : Option Nat} (hx : exec i s = issued i s eff) (hy : syl? i = some y)
    (ha : Admitted i s) (he : eff s = .ok s1 land) : Completes i s s1 land := by
  rw [Completes, hx, issued_eq, issue_commits hy ha he, committed, hy]

/-- An admitted syllable whose effect is a trap of its own position traps there. -/
theorem issued_trapsHere {i : Instr} {s : State} {y : Syl} {eff : State → Res} {cls code : Nat} {tval : Word} (hx : exec i s = issued i s eff) (hy : syl? i = some y)
    (ha : Admitted i s) (he : eff s = .trap (s.trapHere cls code 0 tval)) : TrapsHere i s cls code tval := by
  rw [TrapsHere, hx, issued_eq, issue_traps hy ha he]
  rfl

/-! ### Lanes and keys -/

theorem bit_toNat {w : Nat} (x : BitVec w) (i : Nat) : bit x.toNat i = x.getLsbD i := by
  rw [bit, BitVec.getLsbD, Nat.testBit_eq_decide_div_mod_eq]
  rfl

theorem bits_toNat_low {w : Nat} (x : BitVec w) (n : Nat) : bits x.toNat n 0 = (x.extractLsb' 0 (n + 1)).toNat := by
  simp [bits, BitVec.extractLsb'_toNat]

/-- The lanes of some of a list of clusters are those lanes of the list whose cluster is one of them. -/
theorem lanesOf_filter (p : Nat → Bool) (cls : List Nat) : lanesOf (cls.filter p) = (lanesOf cls).filter fun L => p (L / 16) := by
  induction cls with
  | nil => rfl
  | cons cl cls ih =>
    have lanes : ∀ j ∈ List.range 16, (16 * cl + j) / 16 = cl := fun j hj => by have := List.mem_range.1 hj; omega
    have hcl : (((List.range 16).map fun j => 16 * cl + j).filter fun L => p (L / 16)) = if p cl then (List.range 16).map fun j => 16 * cl + j else [] := by
      rw [List.filter_map]
      split
      case isTrue h => exact congrArg _ (List.filter_eq_self.2 fun j hj => by simp [lanes j hj, h])
      case isFalse h => exact congrArg (List.map _) (List.filter_eq_nil_iff.2 fun j hj => by simp [lanes j hj, h])
    rw [List.filter_cons]
    simp only [lanesOf, List.flatMap_cons, List.filter_append] at ih ⊢
    rw [hcl, ← ih]
    split <;> simp

/-- The lanes of the masked clusters, in increasing order. -/
theorem hLanes_eq_maskedLanes (h : Hdr) : hLanes h = maskedLanes h := by
  have hall : lanesOf (List.range 8) = List.range 128 := by decide
  rw [hLanes, hClusters, setBits, lanesOf_filter, hall, maskedLanes]
  simp only [bit_toNat]

/-! ### Tiles -/

/-- What is kept of a store reads as before, the rest as zero. -/
theorem Store.get_keep {w : Nat} (st : Store w) (p : Nat → Bool) (j : Nat) : (st.keep p).get j = if p j then st.get j else 0 := by
  induction st with
  | nil => simp [Store.keep]
  | cons e st ih =>
    obtain ⟨k, v⟩ := e
    simp only [Store.keep, List.filter_cons] at ih ⊢
    by_cases hk : k = j
    · subst hk
      cases hp : p k <;> simp [Store.get, hp, ih]
    · cases hp : p k <;> simp [Store.get, hk, ih]

/-- ACCCLR's result clears its tile and leaves the others (R294). -/
theorem apply_accClear_get (c : StreamCore) (t k : Nat) : (c.apply (.accClear t)).regs.m.get k = if k / 65536 = t then 0 else c.regs.m.get k := by
  rw [show (c.apply (.accClear t)).regs.m = c.regs.m.keep fun k => decide (k / 65536 ≠ t) from rfl, Store.get_keep]
  by_cases h : k / 65536 = t <;> simp [h]

theorem accReg_eq (o : LArr) : accReg o = (o.rcd.extractLsb' 0 6).toNat := bits_toNat_low o.rcd 5

theorem halfRowKey_eq (s : State) (o : LArr) (L : Nat) : s.core.halfRowKey o L = halfRowWord s o L := rfl

theorem arrayTime_eq (s : State) (n : Nat) : s.core.arrayTime n = arrayCycles s n := rfl

/-! ### MMODE (R163, R295) -/

theorem pairOf_ne (n : Nat) : n ≠ pairOf n := by
  unfold pairOf
  split <;> omega

theorem partnerHolds_iff (s : State) : partnerHolds s = true ↔ partnerExclusive s := by
  simp [partnerHolds, partnerExclusive, partnerOf, pairOf, Option.any_eq_true]

/-- MMODE is not applied where the partner holds exclusive mode or has set this core's state on the same wall cycle (log 34). -/
theorem arrayModes_barred {s : State} {own other : Nat} (h : partnerExclusive s ∨ s.core.sys.amodeSet = some s.wall) :
    arrayModes s own other = .trap (s.trapHere 8 0x24 0 0) := by
  simp [arrayModes, arrayBarred, partnerHolds_iff, h, arrayTrap]

/-- A core's partner is another core, so that a change of it is a change of one of the others. -/
theorem onCore_pairOf (s : State) (f : StreamCore → StreamCore) :
    onCore s (pairOf s.core.seat.cid) f = { s with cores := s.cores.map fun c => if c.seat.cid = pairOf s.core.seat.cid then f c else c } :=
  if_neg (pairOf_ne _)

/-- Where the partner is bound, MMODE sets the states of both cores. -/
theorem pairStates_bound {s : State} {p : StreamCore} (hp : partnerOf s = some p) (hlive : p.seat.live = true) (own other : Nat) :
    pairStates s own other = (onCore s p.seat.cid fun c => { c with sys := { c.sys with amode := other, mmode := other, amodeSet := some s.wall } }).onCore
      fun c => { c with sys := { c.sys with amode := own } } := by
  have hcid : p.seat.cid = pairOf s.core.seat.cid := by simpa using List.find?_some hp
  have hbound : ((coreOf s (pairOf s.core.seat.cid)).any fun p => p.seat.live) = true := by
    rw [← partnerOf, hp]
    exact hlive
  rw [hcid, onCore_pairOf]
  exact congrArg (fun cs => ({ s with core := { s.core with sys := { s.core.sys with amode := own } }, cores := cs } : State)) (if_pos hbound)

/-- Where it is not, MMODE sets this core's state alone. -/
theorem pairStates_unbound {s : State} (h : ((partnerOf s).any fun p => p.seat.live) = false) (own other : Nat) :
    pairStates s own other = s.onCore fun c => { c with sys := { c.sys with amode := own } } :=
  congrArg (fun cs => ({ s with core := { s.core with sys := { s.core.sys with amode := own } }, cores := cs } : State)) (if_neg (by simpa [partnerOf, pairOf] using h))

/-- MMODE that is applied sets both array states at once and this core's MMODE when it lands. -/
theorem arrayModes_applied {s : State} {own other : Nat} (h : ¬(partnerExclusive s ∨ s.core.sys.amodeSet = some s.wall)) :
    arrayModes s own other = .ok ((pairStates s own other).fly (arrayCycles s 1) .mmode) (some (arrayCycles s 1)) := by
  have hfree : arrayBarred s = none := by simp [arrayBarred, partnerHolds_iff, h]
  simp only [arrayModes, hfree, arrayTime_eq]
  cases hp : partnerOf s with
  | none => rw [pairStates_unbound (by simp [hp])]
  | some p =>
    cases hlive : p.seat.live with
    | false => simp only [pairStates_unbound (s := s) (by simp [hp, hlive]), hlive, Bool.false_eq_true, if_false]
    | true => simp only [pairStates_bound hp hlive, hlive, if_true]

/-- MMODE, of either kind: the trap or both array states. -/
theorem mmode_completes {i : Instr} {s : State} {y : Syl} {own other : Nat} (hx : exec i s = issued i s fun s => arrayModes s own other) (hy : syl? i = some y) (ha : Admitted i s) :
    (partnerExclusive s ∨ s.core.sys.amodeSet = some s.wall → TrapsHere i s 8 0x24 0) ∧
    (¬(partnerExclusive s ∨ s.core.sys.amodeSet = some s.wall) →
      Completes i s ((pairStates s own other).fly (arrayCycles s 1) .mmode) (some (arrayCycles s 1))) :=
  ⟨fun h => issued_trapsHere hx hy ha (arrayModes_barred h), fun h => issued_completes hx hy ha (arrayModes_applied h)⟩

/-- Settles O39, syllable by syllable. -/
theorem accumulatorSyllablesComplete : Obligations.AccumulatorSyllablesComplete := by
  unfold Obligations.AccumulatorSyllablesComplete
  intro h o s
  refine ⟨fun ha => issued_completes rfl (syl_accrd h o) ha ?read, fun ha => issued_completes rfl (syl_accwr h o) ha ?write,
    fun ha => issued_completes rfl (syl_accclr h o) ha rfl, fun c k => apply_accClear_get c _ k,
    fun ha => mmode_completes rfl (syl_mmodeExcl h o) ha, fun ha => mmode_completes rfl (syl_mmodeAlt h o) ha⟩
  case read =>
    rw [landV, StreamCore.laneWrites, hLanes_eq_maskedLanes, accReg_eq]
    rfl
  case write =>
    rw [hLanes_eq_maskedLanes, accReg_eq]
    rfl

end Sys2Proof.Machine
end

section
/-! PROOFS. O13: TICK, PHASE, EXIT and IFLUSH, and what EXIT leaves (R108, R110, R111, R126, R222, R223, R228). -/
namespace Sys2Proof.Machine

/-! ### A group closes (R172, R177) -/

/-- What the statements on barriers and ends say of a core, of all that closing a group may change: arrivals, scalars, tick, and the schedule cycle at hand and that of the next issue. -/
def closedView (c : StreamCore) : List Arrival × Store 64 × Word × Nat × Nat := (c.seat.arrivals, c.regs.s, c.sys.now, c.pipe.cyc, c.pipe.nextIssue)

@[simp] theorem closedView_bodyStep (c : StreamCore) : closedView c.bodyStep = closedView c := by
  unfold StreamCore.bodyStep
  split
  · rfl
  · split
    · rfl
    · dsimp only
      split <;> rfl

theorem foldl_fmtr_now (ps : List FmtPend) (y : Sys) : (ps.foldl (fun y p => { y with fmtr := p.val }) y).now = y.now := by
  induction ps generalizing y with
  | nil => rfl
  | cons p ps ih => exact ih _

@[simp] theorem closedView_countFmtr (c : StreamCore) : closedView c.countFmtr = closedView c := by
  simp only [closedView, StreamCore.countFmtr, foldl_fmtr_now]

/-- Closing a group leaves arrivals, scalars and tick, and puts the next issue past the group's own cycle, its idle cycles and those of a transfer. -/
theorem closedView_closeCore (c : StreamCore) (h : Hdr) :
    closedView (c.closeCore h) =
      (c.seat.arrivals, c.regs.s, c.sys.now, c.pipe.cyc, c.pipe.cyc + 1 + if c.pipe.target.isSome then max (stallOf h.stall) 3 else stallOf h.stall) := by
  simp only [StreamCore.closeCore, apply_ite closedView, closedView_countFmtr, closedView_bodyStep, ite_self]
  rfl

theorem stallOf_eq_idleCycles (b : BitVec 4) : stallOf b = idleCycles b := by
  revert b
  decide

/-- The state once a syllable's scoreboard, its reads and its place in program order are entered, before its group goes on. -/
def entered (y : Syl) (i : Instr) (s : State) (land : Option Nat) : State :=
  let counted := s.onCore fun c => c.sbUp y.h.sbi.toNat
  (if y.h.sbv then land.elim counted fun n => counted.fly n (.sb y.h.sbi.toNat) else s).onPipe fun p =>
    { p with reads := (p.reads ++ cacheKeys s.core y.cls y.h i).eraseDups, seq := p.seq + 1 }

/-- The last syllable of a group closes it. -/
theorem committed_last {i : Instr} {y : Syl} (s : State) (land : Option Nat) (hy : syl? i = some y) (hstop : y.h.stop = true) :
    committed i s land = closeGroup y.h (entered y i s land) := by
  rw [committed, hy]
  cases land <;> exact if_pos hstop

/-- Of memory and of what closing the group looks at in the core, entering a syllable changes nothing. -/
theorem entered_frame (y : Syl) (i : Instr) (s : State) (land : Option Nat) :
    let t := entered y i s land
    t.mem = s.mem ∧ t.core.seat = s.core.seat ∧ t.core.regs.s = s.core.regs.s ∧ t.core.sys = s.core.sys ∧ t.core.pipe.cyc = s.core.pipe.cyc ∧
      t.core.pipe.target = s.core.pipe.target ∧ t.core.pipe.after = s.core.pipe.after := by
  unfold entered
  cases y.h.sbv with
  | false => exact ⟨rfl, rfl, rfl, rfl, rfl, rfl, rfl⟩
  | true => cases land <;> exact ⟨rfl, rfl, rfl, rfl, rfl, rfl, rfl⟩

/-- Entering a syllable has nothing to do with what the group does once all of it has committed. -/
theorem entered_afterGroup (y : Syl) (i : Instr) (s : State) (land : Option Nat) (a : After) :
    entered y i (afterGroup s a) land = afterGroup (entered y i s land) a := by
  unfold entered
  cases y.h.sbv with
  | false => rfl
  | true => cases land <;> rfl

theorem closeGroup_plain {s : State} (h : Hdr) (hafter : s.core.pipe.after = []) : closeGroup h s = s.onCore fun c => c.closeCore h := by
  rw [closeGroup, hafter]
  rfl

/-- What a group does once all of it has committed comes after it has closed. -/
theorem closeGroup_afterGroup {s : State} (h : Hdr) (a : After) (hafter : s.core.pipe.after = []) :
    closeGroup h (afterGroup s a) = applyAfter (closeGroup h s) a := by
  have hone : (afterGroup s a).core.pipe.after = [a] := congrArg (· ++ [a]) hafter
  rw [closeGroup_plain h hafter, closeGroup, hone]
  rfl

/-- What committing the last syllable of a group that does nothing more leaves of memory and of the core. -/
theorem committed_last_frame {i : Instr} {y : Syl} {s : State} (land : Option Nat) (hy : syl? i = some y) (hstop : y.h.stop = true) (hafter : s.core.pipe.after = []) :
    (committed i s land).mem = s.mem ∧
    closedView (committed i s land).core =
      (s.core.seat.arrivals, s.core.regs.s, s.core.sys.now, s.core.pipe.cyc,
        s.core.pipe.cyc + 1 + if s.core.pipe.target.isSome then max (idleCycles y.h.stall) 3 else idleCycles y.h.stall) := by
  obtain ⟨hmem, hseat, hs, hsys, hcyc, htarget, hsame⟩ := entered_frame y i s land
  rw [committed_last s land hy hstop, closeGroup_plain y.h (hsame.trans hafter)]
  refine ⟨hmem, ?_⟩
  rw [State.onCore_core, closedView_closeCore, hseat, hs, hsys, hcyc, htarget, stallOf_eq_idleCycles]

/-- What the last syllable of a group does when the group has committed comes after its commit. -/
theorem committed_afterGroup {i : Instr} {y : Syl} {s : State} (land : Option Nat) (a : After) (hy : syl? i = some y) (hstop : y.h.stop = true)
    (hafter : s.core.pipe.after = []) : committed i (afterGroup s a) land = applyAfter (committed i s land) a := by
  obtain ⟨-, -, -, -, -, -, hsame⟩ := entered_frame y i s land
  rw [committed_last _ land hy hstop, committed_last _ land hy hstop, entered_afterGroup, closeGroup_afterGroup y.h a (hsame.trans hafter)]

/-- An admitted syllable that ends its group and only does something at the group's end answers that. -/
theorem exec_afterGroup {i : Instr} {y : Syl} {s : State} (a : After) (hx : exec i s = issued i s fun s => .ok (afterGroup s a) (some 1)) (hy : syl? i = some y)
    (hstop : y.h.stop = true) (hafter : s.core.pipe.after = []) (ha : Admitted i s) : exec i s = .next (applyAfter (committed i s (some 1)) a) := by
  rw [← committed_afterGroup (some 1) a hy hstop hafter]
  exact issued_completes hx hy ha rfl

/-! ### What accesses, reports and publication leave of a tick group (R108, R126) -/

/-- Of a core, what an end must find as it was while its stores are published: its seat, its registers and its pending stores. -/
def coreView (c : StreamCore) : Seat × Regs × List PendStore := (c.seat, c.regs, c.dev.pend)

/-- Of the package, the same of the core at turn, and the seats of the others. -/
def memberView (s : State) : (Seat × Regs × List PendStore) × List Seat := (coreView s.core, s.cores.map StreamCore.seat)

theorem memberView_onCore {f : StreamCore → StreamCore} (s : State) (cid : Nat) (hf : ∀ c, coreView (f c) = coreView c := by exact fun _ => rfl) :
    memberView (onCore s cid f) = memberView s := by
  unfold onCore memberView
  split
  · exact congrArg (·, _) (hf s.core)
  · have hseat : ∀ c : StreamCore, (if c.seat.cid = cid then f c else c).seat = c.seat := fun c => by
      split
      · exact congrArg Prod.fst (hf c)
      · rfl
    simp [hseat]

/-! Records: they leave the seats of the other cores as well as the core at turn (R404, R405). -/

@[simp] theorem memberView_onFn (s : State) (fn : Nat) (f : Func → Func) : memberView (onFn s fn f) = memberView s := rfl
@[simp] theorem memberView_onRing (s : State) (fn r : Nat) (g : Ring → Ring) : memberView (onRing s fn r g) = memberView s := rfl
@[simp] theorem memberView_writeSys (s : State) (ws : List (Nat × Byte)) : memberView (writeSys s ws) = memberView s := rfl
@[simp] theorem memberView_writeSysAt (s : State) (pa : Nat) (bs : List Byte) : memberView (writeSysAt s pa bs) = memberView s := rfl

@[simp] theorem memberView_sendMsix (s : State) (fn v : Nat) : memberView (sendMsix s fn v) = memberView s := by
  unfold sendMsix
  split <;> rfl

@[simp] theorem memberView_writeEntries (s : State) (fn r : Nat) (es : List (List Byte)) : memberView (writeEntries s fn r es) = memberView s := by
  induction es generalizing s with
  | nil => rfl
  | cons e es ih =>
    unfold writeEntries
    split
    · rfl
    · simp [ih]

@[simp] theorem memberView_pushRecord (s : State) (fn r : Nat) (rec : Record) : memberView (pushRecord s fn r rec).1 = memberView s := by
  unfold pushRecord
  split
  · rfl
  · dsimp only
    split
    · rfl
    · split <;> simp

theorem memberView_setStatus {event : State → Record → State} (hevent : ∀ s e, memberView (event s e) = memberView s) (s : State) (fn : Nat) (b : StatusBit) (seq : Nat)
    (first : List Byte) : memberView (setStatus event s fn b seq first) = memberView s := by
  unfold setStatus
  split
  · rfl
  · simp only [apply_ite memberView, hevent, memberView_onFn, ite_self]

theorem memberView_foldl_setStatus {event : State → Record → State} (hevent : ∀ s e, memberView (event s e) = memberView s) (fn seq : Nat) (first : List Byte)
    (sts : List StatusBit) (s : State) : memberView (sts.foldl (fun s b => setStatus event s fn b seq first) s) = memberView s := by
  induction sts generalizing s with
  | nil => rfl
  | cons b sts ih => rw [List.foldl_cons, ih, memberView_setStatus hevent]

theorem memberView_emitN (n : Nat) (s : State) (fn r : Nat) (rec : Record) (sts : List StatusBit) : memberView (emitN n s fn r rec sts) = memberView s := by
  induction n generalizing s fn r rec sts with
  | zero => exact memberView_pushRecord s fn r rec
  | succ n ih =>
    have hevent : ∀ s e, memberView (emitN n s fn 1 e []) = memberView s := fun s e => ih s fn 1 e []
    unfold emitN
    dsimp only
    split
    · rw [memberView_foldl_setStatus hevent, memberView_pushRecord]
    · split
      · rw [memberView_setStatus hevent, memberView_foldl_setStatus hevent, memberView_pushRecord]
      · rw [ih, memberView_foldl_setStatus hevent, memberView_pushRecord]

@[simp] theorem memberView_emit (s : State) (fn r : Nat) (rec : Record) (sts : List StatusBit) : memberView (emit s fn r rec sts) = memberView s :=
  memberView_emitN 4 s fn r rec sts

/-! Accesses (R62, R65, R71, R75). -/

@[simp] theorem memberView_markLeaves (m : Nat) (ls : List (Nat × Nat)) (s : State) : memberView (markLeaves m ls s) = memberView s := by
  induction ls generalizing s with
  | nil => rfl
  | cons l ls ih =>
    obtain ⟨pa, e⟩ := l
    simp only [markLeaves, ih, apply_ite memberView, memberView_writeSys, ite_self]

@[simp] theorem memberView_dirtyLeaves (s : State) (fn : Nat) (ls : List (Nat × Nat)) : memberView (dirtyLeaves s fn ls) = memberView s := by
  simp only [dirtyLeaves, apply_ite memberView, memberView_markLeaves, ite_self]

@[simp] theorem memberView_raiseRequest (s : State) (fn : Nat) (r : Resolution) : memberView (raiseRequest s fn r).1 = memberView s := by
  unfold raiseRequest
  split
  · rfl
  · simp only [apply_ite memberView, memberView_emit, memberView_onFn, ite_self]
    rfl

@[simp] theorem memberView_startWalk (s : State) (cid : Nat) (r : Run) : memberView (startWalk s cid r) = memberView s :=
  memberView_onCore (draw s).2 cid fun c => by
    rw [apply_ite coreView]
    exact ite_self _

@[simp] theorem memberView_lookPage (s : State) (c : StreamCore) (x va need : Nat) : memberView (lookPage s c x va need).2 = memberView s := by
  unfold lookPage
  dsimp only
  split
  · split
    · rfl
    · split
      · simp
      · split
        · rfl
        · split
          · rfl
          · simp only [apply_ite memberView, memberView_dirtyLeaves, ite_self]
  · split
    · rfl
    · split
      · exact memberView_emit _ _ _ _ _
      · exact memberView_raiseRequest _ _ _
      · rfl
      · split
        · rfl
        · split
          · exact memberView_raiseRequest _ _ _
          · split
            · exact memberView_raiseRequest _ _ _
            · exact memberView_markLeaves _ _ _

@[simp] theorem memberView_access (s : State) (c : StreamCore) (x off n need : Nat) : memberView (access s c x off n need).2 = memberView s := by
  unfold access
  generalize pieces ((c.dev.extent x).base + off) n = ps
  induction ps generalizing s with
  | nil => rfl
  | cons p ps ih =>
    unfold lookPieces
    dsimp only
    split
    · exact (ih _).trans (memberView_lookPage ..)
    · exact memberView_lookPage ..

/-! Publication (R108, R126). -/

@[simp] theorem memberView_writeScoped (s : State) (cid seq scope : Nat) (ws : List (Nat × Byte)) : memberView (writeScoped s cid seq scope ws) = memberView s := by
  unfold writeScoped
  split <;> rfl

@[simp] theorem memberView_publishOne (cid scope : Nat) (keep : Bool) (p : PendStore) (s : State) : memberView (publishOne cid scope keep p s) = memberView s := by
  unfold publishOne
  split
  · rfl
  · exact memberView_onCore ..
  · dsimp only
    split
    · split
      · exact (memberView_onCore ..).trans ((memberView_writeScoped ..).trans (memberView_access ..))
      · exact (memberView_writeScoped ..).trans (memberView_access ..)
    · exact (memberView_onCore ..).trans (memberView_access ..)
    · exact (memberView_onCore ..).trans (memberView_access ..)
    · exact (memberView_onCore ..).trans (memberView_access ..)

theorem memberView_foldl_publishOne (cid scope : Nat) (keep : Bool) (ps : List PendStore) (s : State) :
    memberView (ps.foldl (fun s p => publishOne cid scope keep p s) s) = memberView s := by
  induction ps generalizing s with
  | nil => rfl
  | cons p ps ih => rw [List.foldl_cons, ih, memberView_publishOne]

theorem coreOf_self (s : State) : coreOf s s.core.seat.cid = some s.core := by simp [coreOf, allCores]

theorem onCore_self (s : State) (f : StreamCore → StreamCore) : onCore s s.core.seat.cid f = s.onCore f := if_pos rfl

/-- Of the core at turn, publication takes the stores it publishes out of the pending ones. -/
theorem memberView_publish (s : State) (scope : Nat) (keep : Bool) (which : PendStore → Bool) :
    memberView (publish s s.core.seat.cid scope keep which) =
      ((s.core.seat, s.core.regs, s.core.dev.pend.filter fun p => !which p), s.cores.map StreamCore.seat) := by
  rw [publish, coreOf_self]
  exact (memberView_foldl_publishOne ..).trans (congrArg memberView (onCore_self s _))

/-! ### A member ends (R223) -/

@[simp] theorem memberView_settleAll (s : State) (cid : Nat) : memberView (settleAll s cid) = memberView s := rfl

theorem settleAll_plain {s : State} (cid : Nat) (h : s.limited = []) : (settleAll s cid).mem = s.mem ∧ (settleAll s cid).limited = [] := by
  simp [settleAll, settleWhere, h, settle]

@[simp] theorem memberView_emitExitReport (s : State) (c : StreamCore) (code detail : Nat) (tval : Word) : memberView (emitExitReport s c code detail tval) = memberView s :=
  memberView_emit ..

/-- Each of the three reports is written or not. -/
@[simp] theorem memberView_exitReports (s : State) : memberView (exitReports s) = memberView s := by
  unfold exitReports
  dsimp only
  split <;> split <;> split <;> simp

/-- A member that has nothing to report writes no report. -/
theorem exitReports_none {s : State} (hfails : s.core.dev.fails = []) (hberm : s.core.sp.berm = none) : exitReports s = s := by
  simp [exitReports, hfails, hberm, oldestFailure]

@[simp] theorem memberView_releaseArray (s : State) (cid : Nat) : memberView (releaseArray s cid) = memberView s := by
  unfold releaseArray
  split
  · rfl
  · split
    · refine (memberView_onCore _ _ fun c => ?_).trans (memberView_onCore ..)
      rw [apply_ite coreView]
      exact ite_self _
    · rfl

@[simp] theorem releaseArray_mem (s : State) (cid : Nat) : (releaseArray s cid).mem = s.mem := by
  unfold releaseArray
  split
  · rfl
  · split <;> simp

@[simp] theorem releaseArray_limited (s : State) (cid : Nat) : (releaseArray s cid).limited = s.limited := by
  unfold releaseArray
  split
  · rfl
  · split <;> simp

/-! Freed cores (R360). -/

theorem foldl_settleAll_core (cids : List Nat) (s : State) : (cids.foldl settleAll s).core = s.core := by
  induction cids generalizing s with
  | nil => rfl
  | cons cid cids ih => exact ih _

theorem foldl_settleAll_mem (cids : List Nat) {s : State} (h : s.limited = []) : (cids.foldl settleAll s).mem = s.mem := by
  induction cids generalizing s with
  | nil => rfl
  | cons cid cids ih => exact (ih (settleAll_plain cid h).2).trans (settleAll_plain cid h).1

/-- The context leaves the core at turn where that is one of those freed. -/
theorem freeList_core (s : State) (fn task : Nat) (cids : List Nat) :
    (freeList s fn task cids).core = if cids.contains s.core.seat.cid then s.core.leave else s.core := by
  cases cids with
  | nil => rfl
  | cons cid rest =>
    have hcore := foldl_settleAll_core (cid :: rest) s
    exact congrArg (fun c : StreamCore => if (cid :: rest).contains c.seat.cid then c.leave else c) hcore

/-- Freeing cores writes nothing where nothing is held at a narrower scope. -/
theorem freeList_mem {s : State} (fn task : Nat) (cids : List Nat) (h : s.limited = []) : (freeList s fn task cids).mem = s.mem := by
  cases cids with
  | nil => rfl
  | cons cid rest => exact foldl_settleAll_mem (cid :: rest) h

/-- A tick group is freed when all its members have ended and drained, and stays as it is before. -/
theorem reap_cases (s : State) (fn task bench : Nat) :
    ((∀ c ∈ groupOf s fn task bench, c.seat.ended = true ∧ c.drained = true) ∧
      reap s fn task bench = freeList s fn task ((groupOf s fn task bench).map fun c => c.seat.cid)) ∨
    ((∃ c ∈ groupOf s fn task bench, ¬(c.seat.ended = true ∧ c.drained = true)) ∧ reap s fn task bench = s) := by
  unfold reap
  dsimp only
  split
  case isTrue h => exact .inl ⟨by simpa using h, rfl⟩
  case isFalse h => exact .inr ⟨by simpa using h, rfl⟩

theorem reap_mem {s : State} (fn task bench : Nat) (h : s.limited = []) : (reap s fn task bench).mem = s.mem := by
  obtain ⟨-, hr⟩ | ⟨-, hr⟩ := reap_cases s fn task bench
  · rw [hr, freeList_mem fn task _ h]
  · rw [hr]

/-- A core that holds a context is of its own tick group. -/
theorem mem_matesOf_self {s : State} (h : s.core.seat.status ≠ .free) : s.core ∈ matesOf s s.core := by
  simp [matesOf, groupOf, allCores, Seat.inGroup, h]

/-- The member that ends, its stores published and its reports written. -/
def reportedMember (u : State) : State :=
  releaseArray (exitReports (settleAll (publish u u.core.seat.cid 4 false fun p => decide (p.phase ≤ u.core.seat.boundary)) u.core.seat.cid)) u.core.seat.cid

/-- The same once its context has ended, before its group is looked at. -/
def endedMember (u : State) : State := (reportedMember u).onCore fun c => c.endContext .exited

theorem exitMember_eq (u : State) :
    exitMember u = reap (endedMember u) (endedMember u).core.seat.fn (endedMember u).core.seat.task (endedMember u).core.seat.bench := rfl

/-- Of its pending stores those of phases not begun are left; its seat, its registers and the others' seats are as they were. -/
theorem reportedMember_view (u : State) :
    memberView (reportedMember u) =
      ((u.core.seat, u.core.regs, u.core.dev.pend.filter fun p => decide (u.core.seat.boundary < p.phase)), u.cores.map StreamCore.seat) := by
  have hnot : ∀ p : PendStore, (!decide (p.phase ≤ u.core.seat.boundary)) = decide (u.core.seat.boundary < p.phase) := fun p => by
    rw [← decide_not, decide_eq_decide, Nat.not_le]
  simp only [reportedMember, memberView_releaseArray, memberView_exitReports, memberView_settleAll, memberView_publish, hnot]

theorem endedMember_seat (u : State) :
    (endedMember u).core.seat = { u.core.seat with status := .exited, stopped := false, arrivals := [], atBarrier := false } :=
  congrArg (fun v : (Seat × Regs × List PendStore) × List Seat => { v.1.1 with status := .exited, stopped := false, arrivals := [], atBarrier := false })
    (reportedMember_view u)
theorem endedMember_regs (u : State) : (endedMember u).core.regs = u.core.regs :=
  congrArg (fun v : (Seat × Regs × List PendStore) × List Seat => v.1.2.1) (reportedMember_view u)
theorem endedMember_pend (u : State) : (endedMember u).core.dev.pend = u.core.dev.pend.filter fun p => decide (u.core.seat.boundary < p.phase) :=
  congrArg (fun v : (Seat × Regs × List PendStore) × List Seat => v.1.2.2) (reportedMember_view u)
theorem endedMember_seats (u : State) : (endedMember u).cores.map StreamCore.seat = u.cores.map StreamCore.seat :=
  congrArg Prod.snd (reportedMember_view u)

/-- A member that has nothing to report, where nothing is held at a narrower scope, leaves memory as its publication does. -/
theorem endedMember_mem {u : State} :
    let p := publish u u.core.seat.cid 4 false fun p => decide (p.phase ≤ u.core.seat.boundary)
    p.limited = [] → p.core.dev.fails = [] → p.core.sp.berm = none → (endedMember u).mem = p.mem ∧ (endedMember u).limited = [] := by
  intro p hlimited hfails hberm
  obtain ⟨hmem, hnone⟩ := settleAll_plain u.core.seat.cid hlimited
  have hreports : exitReports (settleAll p u.core.seat.cid) = settleAll p u.core.seat.cid := exitReports_none hfails hberm
  rw [endedMember, reportedMember, hreports]
  exact ⟨(releaseArray_mem ..).trans hmem, (releaseArray_limited ..).trans hnone⟩

/-- The ended member's core stays as it is, or its group is freed; then it has drained, and the context leaves it. -/
theorem exitMember_core (u : State) :
    (exitMember u).core = (endedMember u).core ∨ ((endedMember u).core.dev.pend = [] ∧ (exitMember u).core = (endedMember u).core.leave) := by
  have hself : (endedMember u).core ∈ matesOf (endedMember u) (endedMember u).core := mem_matesOf_self Status.noConfusion
  rw [exitMember_eq]
  obtain ⟨hall, hr⟩ | ⟨-, hr⟩ := reap_cases (endedMember u) (endedMember u).core.seat.fn (endedMember u).core.seat.task (endedMember u).core.seat.bench
  · right
    obtain ⟨-, hdrained⟩ := hall _ hself
    simp only [StreamCore.drained, Bool.and_eq_true, List.isEmpty_iff] at hdrained
    obtain ⟨-, hpend⟩ := hdrained
    refine ⟨hpend, ?_⟩
    rw [hr, freeList_core]
    exact if_pos (by simpa using ⟨_, hself, rfl⟩)
  · left
    rw [hr]

/-- While a mate lives, the group stays bound. -/
theorem exitMember_mate {u : State} {d : StreamCore} (hd : d ∈ u.cores) (hlive : d.seat.live = true) (hfn : d.seat.fn = u.core.seat.fn)
    (htask : d.seat.task = u.core.seat.task) (hbench : d.seat.bench = u.core.seat.bench) : exitMember u = endedMember u := by
  obtain ⟨e, he, hseat⟩ : ∃ e ∈ (endedMember u).cores, e.seat = d.seat :=
    List.mem_map.1 (endedMember_seats u ▸ List.mem_map_of_mem hd)
  have hstatus : e.seat.status = .live := by simpa [hseat, Seat.live] using hlive
  have hmate : e ∈ matesOf (endedMember u) (endedMember u).core := by
    have hbench' : (endedMember u).core.seat.bench = d.seat.bench := by rw [endedMember_seat, hbench]; rfl
    refine List.mem_filter.2 ⟨List.mem_cons_of_mem _ he, ?_⟩
    rw [Seat.inGroup, hstatus, hseat, hbench', endedMember_seat, hfn, htask]
    simp
  rw [exitMember_eq]
  obtain ⟨hall, -⟩ | ⟨-, hr⟩ := reap_cases (endedMember u) (endedMember u).core.seat.fn (endedMember u).core.seat.task (endedMember u).core.seat.bench
  · obtain ⟨hended, -⟩ := hall e hmate
    simp [Seat.ended, hstatus] at hended
  · exact hr

/-- What EXIT leaves of any state (R110, R111, R126, R223). -/
theorem exitMember_ends (u : State) : MemberEnds u := by
  obtain ⟨hlive, hflights, hheld1, hheld2, hregs⟩ : (exitMember u).core.seat.live = false ∧ (exitMember u).core.pipe.flights = [] ∧
      (exitMember u).core.pipe.held1 = [] ∧ (exitMember u).core.pipe.held2 = [] ∧ (exitMember u).core.regs = (endedMember u).core.regs := by
    obtain h | ⟨-, h⟩ := exitMember_core u
    · rw [h]
      exact ⟨rfl, rfl, rfl, rfl, rfl⟩
    · rw [h]
      exact ⟨rfl, rfl, rfl, rfl, rfl⟩
  refine ⟨hlive, hflights, hheld1, hheld2, ?pend, hregs.trans (endedMember_regs u), ?mate, ?mem⟩
  case pend =>
    rw [← endedMember_pend]
    obtain h | ⟨hnone, h⟩ := exitMember_core u
    · rw [h]
    · rw [h, hnone]
      rfl
  case mate =>
    rintro ⟨d, hd, hlive, hfn, htask, hbench, -⟩
    rw [exitMember_mate hd hlive hfn htask hbench]
    rfl
  case mem =>
    intro hlimited hfails hberm
    obtain ⟨hmem, hnone⟩ := endedMember_mem hlimited hfails hberm
    rw [exitMember_eq, reap_mem _ _ _ hnone, hmem]

/-! ### The statement -/

theorem sreg_congr {c d : StreamCore} (h : c.regs.s = d.regs.s) (r : Nat) : c.sreg r = d.sreg r := by
  rw [StreamCore.sreg, StreamCore.sreg, h]

/-- An arrival adds itself to those of the member, and leaves memory, scalars and the tick. -/
theorem arrives {i : Instr} {y : Syl} {s : State} (a : Arrival) (b : Option Back) (hx : exec i s = issued i s fun s => .ok (afterGroup s (.arrive a b)) (some 1))
    (hy : syl? i = some y) (hstop : y.h.stop = true) (hafter : s.core.pipe.after = []) (ha : Admitted i s) :
    ∃ t, exec i s = .next t ∧ t.core.seat.arrivals = s.core.seat.arrivals ++ [a] ∧ t.mem = s.mem ∧ (∀ r, t.core.sreg r = s.core.sreg r) ∧
      t.core.sys.now = s.core.sys.now := by
  obtain ⟨hmem, hview⟩ := committed_last_frame (some 1) hy hstop hafter
  simp only [closedView, Prod.mk.injEq] at hview
  obtain ⟨harrivals, hs, hnow, -, -⟩ := hview
  exact ⟨_, exec_afterGroup _ hx hy hstop hafter ha, congrArg (· ++ [a]) harrivals, hmem, sreg_congr hs, hnow⟩

/-- IFLUSH puts the next issue past its three cycles and its own idle ones, and leaves memory and scalars. -/
theorem iflush_issues {i : Instr} {y : Syl} {s : State} (hx : exec i s = issued i s fun s => .ok (afterGroup s .iflush) (some 1)) (hy : syl? i = some y)
    (hstop : y.h.stop = true) (hafter : s.core.pipe.after = []) (ha : Admitted i s) :
    ∃ t, exec i s = .next t ∧ t.mem = s.mem ∧ (∀ r, t.core.sreg r = s.core.sreg r) ∧ s.core.pipe.cyc + 1 + max (idleCycles y.h.stall) 3 ≤ t.core.pipe.nextIssue := by
  obtain ⟨hmem, hview⟩ := committed_last_frame (some 1) hy hstop hafter
  simp only [closedView, Prod.mk.injEq] at hview
  obtain ⟨-, hs, -, hcyc, hnext⟩ := hview
  refine ⟨_, exec_afterGroup _ hx hy hstop hafter ha, hmem, sreg_congr hs, ?_⟩
  have hissue : (applyAfter (committed i s (some 1)) .iflush).core.pipe.nextIssue = max (committed i s (some 1)).core.pipe.nextIssue ((committed i s (some 1)).core.pipe.cyc + 4) := rfl
  rw [hissue, hcyc, hnext]
  split <;> omega

/-- Settles O13: each of the four answers its group's commit and what it does after that. -/
theorem barriersAndEndsComplete : Obligations.BarriersAndEndsComplete := by
  unfold Obligations.BarriersAndEndsComplete
  intro h o s hstop hafter
  exact ⟨arrives .tick _ rfl (syl_tick h o) hstop hafter, arrives .phase _ rfl (syl_phase h o) hstop hafter,
    fun ha => ⟨exec_afterGroup .exit rfl (syl_exit h o) hstop hafter ha, exitMember_ends _⟩, iflush_issues rfl (syl_iflush h o) hstop hafter⟩

end Sys2Proof.Machine
end
